-- ==== Sys2Proof/Word.lean ====
section
/-!
DEFINITION. The word types of the Onagal ONG-8480, the sparse store that holds repeated state, and the
plainest arithmetic on words.
-/
namespace Sys2Proof

/-- One byte. -/
abbrev Byte := BitVec 8
/-- A 32-bit register value. -/
abbrev Word := BitVec 32
/-- A 64-bit value: a register pair, a pointer or a PC. -/
abbrev DWord := BitVec 64
/-- A vector or uniform register number as the word names it (R63). -/
abbrev RegNum := BitVec 8
/-- A predicate number p0–p7 or q0–q7. -/
abbrev PredNum := BitVec 3
/-- A moment register number m0–m15. -/
abbrev MomNum := BitVec 4
/-- An accumulator tile number as the word names it (R38). -/
abbrev TileNum := BitVec 8

/-- Repeated state held sparsely: key and value pairs in strictly rising key order, with no entry
equal to the default that an unlisted key reads as. -/
abbrev Store (α : Type) := List (Nat × α)

/-- Bit `i` of a number read as a mask. -/
def maskBit (m : Nat) (i : Nat) : Bool := m.testBit i

/-- `n` rounded up to a multiple of `k`. -/
def roundUp (n k : Nat) : Nat := (n + k - 1) / k * k

end Sys2Proof
end

