-- ==== Sys2Proof/Config.lean ====
section
/-!
DEFINITION. What an implementation of the ONG-8480 fixes and the spec leaves open: free values with no
body, and the sizes that every device shares.
-/
namespace Sys2Proof

/-- A free 32-bit value: an answer the spec does not state (log 11). -/
opaque Config.freeWord : Nat → BitVec 32
/-- A free choice between two behaviours the spec allows, drawn by a counter of State (log 11). -/
opaque Config.freeBool : Nat → Bool
/-- The CXL port of a device, hub 0 or 1, that leads to its host windows (R432, log 11). -/
opaque Config.hostPort : Nat → Bool
/-- The CXL port of a device that leads to a pool shelf (R432, log 11). -/
opaque Config.shelfPort : Nat → Nat → Bool
/-- The hash of a line address that indexes a scope filter (R239, log 11). -/
opaque Config.scopeHash : Nat → Nat
/-- The hash of a line address that indexes a hint table (R252, log 11). -/
opaque Config.hintHash : Nat → Nat
/-- Where a node of a collective's tree is evaluated (R335): by algorithm, number of ranks, owner and node; the node's rank is the
value modulo the number of ranks (log 76). -/
opaque Config.collNode : Nat → Nat → Nat → Nat → Nat
/-- The SM3 digest of some bytes (R437, R438, log 12). -/
opaque Config.sm3 : List (BitVec 8) → BitVec 256
/-- The SM2 signature of a digest by a private key (R438, log 12). -/
opaque Config.sm2Sign : BitVec 256 → BitVec 256 → BitVec 512
/-- Whether an SM2 signature of a digest verifies against a public key: key, digest, signature (R437, log 12). -/
opaque Config.sm2Verify : BitVec 512 → BitVec 256 → BitVec 512 → Bool

/-- Devices per group (R11). -/
def Config.devsPerGroup : Nat := 32
/-- Compute dies per device (R9). -/
def Config.diesPerDev : Nat := 8
/-- Cores per compute die (R13). -/
def Config.coresPerDie : Nat := 48
/-- Bytes of a page (R192). -/
def Config.pageBytes : Nat := 65536

end Sys2Proof
end

