-- ==== Sys2Proof/Syntax.lean ====
section
/-!
DEFINITION. The abstract syntax of the Onagal ONG-8480: the operand shapes of its instruction words
(R62–R72 and the encoding table of each chapter), the messages its agents exchange, and the one
inductive of every step of its table of operations and events.
-/
namespace Sys2Proof

/-- Word forms of one operation (R62). -/
inductive Form where
  | w64 | w96 | w128
  deriving DecidableEq, Repr

/-- A guard: predicate number and negation (R64); p or q by the operation's class. -/
structure Guard where
  pred : PredNum
  neg  : Bool
  deriving DecidableEq, Repr

/-- A vector or uniform source with its full/empty mode: trap when empty, else wait (R45). -/
structure Src where
  reg  : RegNum
  trap : Bool
  deriving DecidableEq, Repr

/-- A source that the 96-bit form replaces with IMM32 (R66). -/
inductive SrcI where
  | reg (s : Src)
  | imm (w : Word)
  deriving DecidableEq, Repr

/-- Source of MOV: register, IMM32 or IMM64 (R134). -/
inductive MovSrc where
  | reg (s : Src)
  | i32 (w : Word)
  | i64 (w : DWord)
  deriving DecidableEq, Repr

/-- Immediate of KLI: IMM32 or IMM64 (R143). -/
inductive KImm where
  | i32 (w : Word)
  | i64 (w : DWord)
  deriving DecidableEq, Repr

/-- Integer types of R123. -/
inductive IntT where
  | i32 | n32 | i64 | n64
  deriving DecidableEq, Repr

/-- IMUL and IMAD product parts (R125). -/
inductive MulKind where
  | lo | hi | wide
  deriving DecidableEq, Repr

/-- Integer relations (R124). -/
inductive Rel where
  | eq | ne | lt | le | gt | ge
  deriving DecidableEq, Repr

/-- FCMP relations (R107). -/
inductive FRel where
  | eq | ne | lt | le | gt | ge | num | nan
  deriving DecidableEq, Repr

/-- Rounding modes (R101). -/
inductive Rm where
  | rne | rtz | rup | rdn
  deriving DecidableEq, Repr

/-- Integer types of CVTFI and CVTIF (R111). -/
inductive CvtT where
  | i8 | i16 | i32 | i64 | n8 | n16 | n32 | n64
  deriving DecidableEq, Repr

/-- Narrow formats of CVTFF (R111). -/
inductive NFmt where
  | f16 | bf16 | e4m3 | e5m2 | e2m1
  deriving DecidableEq, Repr

/-- Shared-exponent formats (R96). -/
inductive SxFmt where
  | sx2 | sx4 | sx7
  deriving DecidableEq, Repr

/-- Special values of MOVS, in index order (R58, R145). -/
inductive Special where
  | lane | depth | cursor | gang | ngangs | team | nteams | hallmark | role | part | core | die
  | dev | group | tenant | slot | amask | clk | time
  deriving DecidableEq, Repr

/-- SHFL modes (R166). -/
inductive ShflMode where
  | idx | up | down | xor
  deriving DecidableEq, Repr

/-- VOTE results (R167). -/
inductive VoteKind where
  | any | all | ballot
  deriving DecidableEq, Repr

/-- Operations of LRED and LSCAN (R163). -/
inductive RedOp where
  | add | minI | maxI | minN | maxN | and | or | xor | fadd | fmin | fmax
  deriving DecidableEq, Repr

/-- Drains of MOMD (R177); `.rstd` reads ε. -/
inductive MomdKind where
  | mean | var | svar | std
  | rstd (eps : SrcI)
  deriving DecidableEq, Repr

/-- Fields of MOMQ (R180). -/
inductive MomqField where
  | w | mean | m2 | status
  deriving DecidableEq, Repr

/-- Address operands (R184): vector pair, uniform pair, or scratchpad offset register. -/
inductive Base where
  | vpair (s : Src)
  | kpair (s : Src)
  | scr   (s : Src)
  deriving DecidableEq, Repr

/-- SCOPE codes (R68); `dflt` is code 0. -/
inductive Scope where
  | dflt | gang | team | die | dev | pod | fab | sys
  deriving DecidableEq, Repr

/-- ORD codes (R68). -/
inductive Order where
  | weak | rlx | acq | rel
  deriving DecidableEq, Repr

/-- POLOV codes (R68); `none` leaves the pointer's POLICY. -/
inductive PolOv where
  | none | normal | stream | noalloc | persist | uncached
  deriving DecidableEq, Repr

/-- Offset part of a memory operand by form: none, IMM32, or the kind E fields (R183). -/
inductive MOff where
  | none
  | imm (off : Word)
  | ext (off : Word) (scope : Scope) (ord : Order) (pol : PolOv)
  deriving DecidableEq, Repr

/-- Access types of LD and ST (R183). -/
inductive MemT where
  | n8 | i8 | n16 | i16 | b32 | b64 | b128
  deriving DecidableEq, Repr

/-- Operations of ATOM (R214). -/
inductive AtomOp where
  | add | and | or | xor | min | max | exch
  deriving DecidableEq, Repr

/-- Float types of atomic additions (R214). -/
inductive FaddT where
  | f32 | f16 | bf16
  deriving DecidableEq, Repr

/-- Operations of ARED: an integer operation other than exchange, or a float addition (R214). -/
inductive AredOp where
  | int  (op : AtomOp) (t : IntT)
  | fadd (t : FaddT)
  deriving DecidableEq, Repr

/-- Orders of FENCE (R214). -/
inductive FenceOrd where
  | ar | acq | rel
  deriving DecidableEq, Repr

/-- Copy formats (R281). -/
inductive CFmt where
  | sx2 | sx4 | sx7 | f32 | f16 | bf16 | e4m3 | e5m2 | e2m1 | raw
  deriving DecidableEq, Repr

/-- Stored or declared plane counts P = 2, 4, 7 (R278, R296). -/
inductive Planes where
  | p2 | p4 | p7
  deriving DecidableEq, Repr

/-- CPYQ queries other than `.clr` (R289). -/
inductive CpyQ where
  | busy | flt | addr | info | sbfree
  deriving DecidableEq, Repr

/-- COLLQ queries (R343). -/
inductive CollQ where
  | state | step | total | fault
  deriving DecidableEq, Repr

/-- LQRY queries (R357). -/
inductive Lqry where
  | state | placed | done | status
  deriving DecidableEq, Repr

/-- FLXQ selections (R387). -/
inductive FlxSel where
  | pref | walks | faults | passes | cfg
  deriving DecidableEq, Repr

/-- A token-carrying or token-requesting message (R246). `sector` is device index · 2^36 + PA / 64;
`dest` and `req` are holder numbers of R246 within the pod, 320 standing for the home memory. -/
structure TokMsg where
  sector : Nat
  dest   : Nat
  cast   : BitVec 8
  count  : Nat
  owner  : Bool
  dirty  : Bool
  req    : Nat
  sent   : Nat
  data   : BitVec 512
  deriving DecidableEq, Repr

/-- A clamp control message (R246): home unit, clamp number, sector, requester, kind, and the holder
it goes to or comes from. -/
structure ClampMsg where
  unit   : Nat
  num    : Nat
  sector : Nat
  req    : Nat
  write  : Bool
  peer   : Nat
  deriving DecidableEq, Repr

/-- Which clamp or recast control message is sent again (R465). -/
inductive CtlKind where
  | clmp | clact | cldea | cldone
  deriving DecidableEq, Repr

/-- What a loss report says of the owner token (R247). -/
inductive OwnerLoss where
  | absent | clean | dirty
  deriving DecidableEq, Repr

/-- A line fill on its way to a die's L2, and to a core's L1 under `.l1` (R210). -/
structure Fill where
  die     : Nat
  core    : Option Nat
  line    : Nat
  persist : Bool
  stream  : Bool
  priv    : Bool
  deriving DecidableEq, Repr

/-- What a remote store carries (R322). -/
inductive RData where
  | vec (d : BitVec 1024)
  | k32 (w : Word)
  | k64 (w : DWord)
  | sig (k : Bool)
  deriving DecidableEq, Repr

/-- A remote register store in flight (R322). -/
structure RStore where
  sender : Nat
  group  : Nat
  chan   : Nat
  stream : Nat
  seq    : Nat
  tenant : Nat
  hall   : Word
  tgang  : Nat
  reg    : Nat
  data   : RData
  rel    : Bool
  deriving DecidableEq, Repr

/-- Fate of a remote store as its acknowledgement reports it (R323). -/
inductive Fate where
  | applied | dead | xten | badwin | retry
  deriving DecidableEq, Repr

/-- A CHGIVE or CHSET on its way to the receiving team (R326, R405). -/
structure ChanMsg where
  sender : Nat
  group  : Nat
  dst    : RegNum
  tenant : Nat
  hall   : Word
  giver  : Word
  entry  : Nat
  image  : BitVec 128
  revoke : Bool
  force  : Bool
  deriving DecidableEq, Repr

/-- One step of a collective on its way between ranks (R335): a contribution to a chunk's owner, or
the owner's value to a rank. -/
structure CollStep where
  coll    : Nat
  src     : Nat
  dst     : Nat
  chunk   : Nat
  final   : Bool
  data    : List Byte
  deriving DecidableEq, Repr

/-- A firmware image (R437): its bytes, its version, and its SM2 signature with the vendor key that it is to verify against. -/
structure FwImage where
  body    : List (BitVec 8) := []
  version : Word := 0
  key     : BitVec 512 := 0
  sig     : BitVec 512 := 0
  deriving DecidableEq, Repr

/-- What a start finds outside the model (R434, R436, R437): the first of training, self-test and timer lock that fails, 0 for none;
the dies that pass self-test; the number that the connector gives, group over device; the number that each link brings back; and the
image that the host supplies. -/
structure StartOutcome where
  failStep : Nat
  dieOk    : BitVec 8
  ident    : Nat
  came     : List (Nat × Nat) := []
  image    : Option FwImage := none
  deriving DecidableEq, Repr

/-- One event of an agent with its contents: a message of R22 in flight, or the part that acts. -/
inductive Ev where
  -- events of the memory system (08, 09)
  | loadDataReturn (acc : Nat)
  | walkComplete (walk : Nat)
  | remoteWalkRequest (walk : Nat)
  | lineFillComplete (f : Fill)
  | tlbiRequest (die : Nat) (tenant : Nat) (range : Option (Nat × Nat)) (gang : Nat)
  | fabricTlbExpiry (die : Nat)
  | scopeFilterTimedPublish (core : Nat)
  -- token protocol (10)
  | trd (m : TokMsg)
  | twr (m : TokMsg)
  | tdat (m : TokMsg)
  | ttok (m : TokMsg)
  | tret (m : TokMsg)
  | lossReport (sector : Nat) (cast : BitVec 8) (o : OwnerLoss)
  | transientAttemptTimeout (die sector : Nat)
  | clampRaiseBound (die sector : Nat)
  | clmp (m : ClampMsg)
  | clmpRetry (die sector : Nat)
  | clampBatchSelect (unit : Nat)
  | clact (m : ClampMsg)
  | clack (m : ClampMsg) (dea : Bool)
  | cldone (m : ClampMsg)
  | cldea (m : ClampMsg)
  | controlMessageResend (k : CtlKind) (m : ClampMsg)
  | clampStallTimeout (unit : Nat)
  | recastBoundRelease (unit : Nat)
  | trec (m : TokMsg)
  | trca (m : TokMsg)
  | trecResend (unit : Nat)
  | recastAnswerTimeout (unit : Nat)
  | trdone (m : TokMsg)
  | trdack (m : TokMsg)
  | trdoneResend (unit : Nat)
  | recastFenceExpiry (holder sector : Nat)
  -- host, bias and pools (10, 18)
  | hostRead (hub sector : Nat)
  | hostReadForOwnership (hub sector : Nat)
  | hostWriteback (hub sector : Nat) (data : Option (BitVec 512))
  | birsp (hub sector : Nat) (data : Option (BitVec 512))
  | hostSilentTimeout (hub sector : Nat)
  | biasFlipComplete (dev page : Nat)
  | poolBackInvalidation (hub line : Nat)
  | shelfFailure (shelf : Nat)
  | poolCompletionTimeout (acc : Nat)
  | cxlLinkDown (hub : Nat)
  -- engines (11, 12)
  | copyTransferStart (xfer : Nat)
  | copyTransferRetire (xfer : Nat)
  | matrixInstructionStart (core : Nat)
  | matrixRetire (core : Nat)
  -- synchronisation and channels (13)
  | circleArrival (cohort circle gang phase : Nat)
  | phaseEndNotice (gang circle phase : Nat)
  | remoteStoreArrival (m : RStore)
  | remoteStoreRetry (m : RStore)
  | remoteStoreAck (gang chan stream : Nat) (f : Fate)
  | chgiveArrival (m : ChanMsg)
  | remoteAnswer (gang : Nat) (dst : RegNum) (v : Word)
  -- collectives (14)
  | collMatch (coll : Nat)
  | collMatchTimeout (team slot : Nat)
  | collStepArrival (m : CollStep)
  | permitReturn (team slot peer : Nat) (grant : Bool)
  | collAbort (team slot : Nat) (status cause rank : Nat)
  -- waits and timed sends (09, 15, 18)
  | tsndDue (xfer : Nat)
  | waitlnReread (gang : Nat)
  | waitlnTimeout (gang : Nat)
  | sleepExpiry (gang : Nat)
  | pendingForcedSwap (core part : Nat)
  -- launch and moving work (15)
  | cohortDependenceMet (cohort : Nat)
  | teamDispatch (cohort : Nat)
  | teamStart (team : Nat)
  | stealRequest (thief victim : Nat)
  | stealReply (thief : Nat) (teams : List Nat)
  | overloadMigration (team die : Nat)
  | teamInstall (team die : Nat)
  | preemptForPriority (team : Nat)
  | timeSliceExpiry (team : Nat)
  | fullSave (team : Nat)
  | regionRestart (team : Nat)
  | teamRestore (team : Nat)
  | tmigFallback (team : Nat)
  -- flux (16)
  | fluxPassEntry (gang : Nat)
  | fluxPassEnd (gang : Nat)
  -- fabric (18)
  | flitRetryExhausted (dev link : Nat) (msgs : List Nat)
  | linkRetrain (dev link : Nat)
  | congestionNotice (die dest : Nat)
  | rateRecovery (die entry : Nat)
  | wavelengthWindowEnd (dev pair wl errors : Nat)
  | wavelengthRetrained (dev pair wl : Nat)
  | clockStep (die : Nat)
  | relockEnd (die : Nat)
  | circuitRotationStart (dev : Nat)
  | circuitSlotBoundary (dev : Nat)
  | circuitStop (dev : Nat)
  | powerThrottleStep (dev pnow : Nat)
  -- containment, start-up and management (17, 19)
  | uncorrectableSectorError (sector : Nat)
  | dieInternalError (die : Nat)
  | coldStart (dev : Nat) (o : StartOutcome)
  | startControlCohort (dev tenant : Nat) (ptr : DWord)
  | writeTenantRegister (dev tenant idx : Nat) (v : DWord)
  | writeRoutingEntry (dev grp : Nat) (mask : DWord)
  | setDieClock (dev die mhz : Nat)
  | fabricGrant (dev tenant : Nat)
  | setPlimit (dev watts : Nat)
  | assayReport (dev : Nat) (nonce : BitVec 256) (addr : DWord)
  | warmStart (dev : Nat) (addr : DWord) (o : StartOutcome)
  | writePerDieCounter (dev die idx : Nat) (v : DWord)
  | fabricLinkUp (dev link : Nat)
  | unreportedMessageLoss (msg : Nat)
  | homeAccessRequest (acc : Nat)
  | storePerformed (acc : Nat)
  | slotTableWrite (dev slot : Nat) (desc : BitVec 128) (gang : Nat)
  | shelfLinkUp (shelf : Nat)
  deriving DecidableEq, Repr

/-- Every step of the machine: one constructor per row of the table of operations and events. The
first block is instruction words with their operands; the second is events of the other agents, whose contents
(an `Ev`) the state holds. -/
inductive Instr where
  -- control flow, 0x00–0x0F (R140)
  | nop (g : Guard) (form : Form)
  | bra (g : Guard) (off : Word)
  | brx (g : Guard) (t : Src)
  | call (g : Guard) (link : RegNum) (off : Word)
  | callx (g : Guard) (link : RegNum) (t : Src)
  | ret (g : Guard) (link : Src) (d : BitVec 6)
  | ifThen (inv : Bool) (p : PredNum) (off : Word)
  | elseDo (off : Word)
  | endIf
  | loop (off : Word)
  | brk (g : Guard) (d : BitVec 6)
  | cont (g : Guard) (d : BitVec 6)
  | endLoop (off : Word)
  | exit (g : Guard)
  | trap (g : Guard) (code : BitVec 7)
  | bpt (g : Guard)
  -- uniform, 0x10–0x17 (R140)
  | kmov (g : Guard) (b64 : Bool) (d : RegNum) (a : Src)
  | kli (g : Guard) (b64 : Bool) (d : RegNum) (v : KImm)
  | kadd (g : Guard) (b64 : Bool) (d : RegNum) (a : Src) (b : SrcI)
  | ksub (g : Guard) (b64 : Bool) (d : RegNum) (a : Src) (b : SrcI)
  | kmul (g : Guard) (b64 : Bool) (d : RegNum) (a : Src) (b : SrcI)
  | kand (g : Guard) (b64 : Bool) (d : RegNum) (a : Src) (b : SrcI)
  | kor (g : Guard) (b64 : Bool) (d : RegNum) (a : Src) (b : SrcI)
  | kxor (g : Guard) (b64 : Bool) (d : RegNum) (a : Src) (b : SrcI)
  | kshl (g : Guard) (b64 : Bool) (d : RegNum) (a : Src) (b : SrcI)
  | kshr (g : Guard) (b64 : Bool) (d : RegNum) (a : Src) (b : SrcI)
  | ksra (g : Guard) (b64 : Bool) (d : RegNum) (a : Src) (b : SrcI)
  | kmin (g : Guard) (b64 uns : Bool) (d : RegNum) (a : Src) (b : SrcI)
  | kmax (g : Guard) (b64 uns : Bool) (d : RegNum) (a : Src) (b : SrcI)
  | kcmp (g : Guard) (rel : Rel) (uns b64 : Bool) (q : PredNum) (a : Src) (b : SrcI)
  | ksel (g : Guard) (b64 : Bool) (d : RegNum) (a : Src) (b : SrcI) (c : PredNum)
  | vtok (g : Guard) (b64 : Bool) (d : RegNum) (a : Src)
  | kbc (g : Guard) (b64 : Bool) (d : RegNum) (a : Src)
  | movs (g : Guard) (uni : Bool) (d : RegNum) (v : Special)
  -- integer, 0x20–0x3C (R124)
  | iadd (g : Guard) (t : IntT) (sat : Bool) (d : RegNum) (a : Src) (b : SrcI)
  | isub (g : Guard) (t : IntT) (sat : Bool) (d : RegNum) (a : Src) (b : SrcI)
  | imul (g : Guard) (t : IntT) (k : MulKind) (d : RegNum) (a : Src) (b : SrcI)
  | imad (g : Guard) (t : IntT) (wide : Bool) (d : RegNum) (a : Src) (b : SrcI) (c : Src)
  | idiv (g : Guard) (t : IntT) (d : RegNum) (a : Src) (b : SrcI)
  | irem (g : Guard) (t : IntT) (d : RegNum) (a : Src) (b : SrcI)
  | imin (g : Guard) (t : IntT) (d : RegNum) (a : Src) (b : SrcI)
  | imax (g : Guard) (t : IntT) (d : RegNum) (a : Src) (b : SrcI)
  | iabs (g : Guard) (t : IntT) (sat : Bool) (d : RegNum) (a : Src)
  | ineg (g : Guard) (t : IntT) (sat : Bool) (d : RegNum) (a : Src)
  | isad (g : Guard) (t : IntT) (d : RegNum) (a : Src) (b : SrcI) (c : Src)
  | icmp (g : Guard) (rel : Rel) (t : IntT) (p : PredNum) (a : Src) (b : SrcI)
  | isel (g : Guard) (b64 : Bool) (d : RegNum) (a : Src) (b : SrcI) (c : PredNum)
  | and (g : Guard) (b64 : Bool) (d : RegNum) (a : Src) (b : SrcI)
  | or (g : Guard) (b64 : Bool) (d : RegNum) (a : Src) (b : SrcI)
  | xor (g : Guard) (b64 : Bool) (d : RegNum) (a : Src) (b : SrcI)
  | andn (g : Guard) (b64 : Bool) (d : RegNum) (a : Src) (b : SrcI)
  | orn (g : Guard) (b64 : Bool) (d : RegNum) (a : Src) (b : SrcI)
  | xnor (g : Guard) (b64 : Bool) (d : RegNum) (a : Src) (b : SrcI)
  | not (g : Guard) (b64 : Bool) (d : RegNum) (a : Src)
  | tern (g : Guard) (d : RegNum) (a b c : Src) (table : BitVec 8)
  | shl (g : Guard) (b64 : Bool) (d : RegNum) (a : Src) (n : SrcI)
  | shr (g : Guard) (b64 : Bool) (d : RegNum) (a : Src) (n : SrcI)
  | sra (g : Guard) (b64 : Bool) (d : RegNum) (a : Src) (n : SrcI)
  | rot (g : Guard) (right b64 : Bool) (d : RegNum) (a : Src) (n : SrcI)
  | fshl (g : Guard) (d : RegNum) (a b : Src) (n : SrcI)
  | fshr (g : Guard) (d : RegNum) (a b : Src) (n : SrcI)
  | popc (g : Guard) (b64 : Bool) (d : RegNum) (a : Src)
  | clz (g : Guard) (b64 : Bool) (d : RegNum) (a : Src)
  | ctz (g : Guard) (b64 : Bool) (d : RegNum) (a : Src)
  | brev (g : Guard) (b64 : Bool) (d : RegNum) (a : Src)
  | bfx (g : Guard) (uns : Bool) (d : RegNum) (a : Src) (ctl : SrcI)
  | bfi (g : Guard) (d : RegNum) (a : Src) (ctl : SrcI) (c : Src)
  | bmsk (g : Guard) (d : RegNum) (ctl : SrcI)
  | permb (g : Guard) (d : RegNum) (a b : Src) (sel : SrcI)
  | lea (g : Guard) (uns uni : Bool) (s : BitVec 3) (d : RegNum) (base : Src) (idx : SrcI)
  | padd (g : Guard) (x16 uns sat : Bool) (d : RegNum) (a : Src) (b : SrcI)
  | psub (g : Guard) (x16 uns sat : Bool) (d : RegNum) (a : Src) (b : SrcI)
  | pmul (g : Guard) (x16 uns sat : Bool) (d : RegNum) (a : Src) (b : SrcI)
  | pmin (g : Guard) (x16 uns : Bool) (d : RegNum) (a : Src) (b : SrcI)
  | pmax (g : Guard) (x16 uns : Bool) (d : RegNum) (a : Src) (b : SrcI)
  | pavg (g : Guard) (x16 uns : Bool) (d : RegNum) (a : Src) (b : SrcI)
  | pshl (g : Guard) (x16 : Bool) (d : RegNum) (a : Src) (n : SrcI)
  | pshr (g : Guard) (x16 : Bool) (d : RegNum) (a : Src) (n : SrcI)
  | psra (g : Guard) (x16 : Bool) (d : RegNum) (a : Src) (n : SrcI)
  | pcmp (g : Guard) (rel : Rel) (x16 uns : Bool) (d : RegNum) (a : Src) (b : SrcI)
  | drawc (g : Guard) (a : Src) (b : SrcI)
  | draw (g : Guard) (d : RegNum) (a : Src) (w : SrcI)
  | mov (g : Guard) (b64 : Bool) (d : RegNum) (a : MovSrc)
  -- floating point, 0x40–0x4F (R101)
  | fadd (g : Guard) (rm : Rm) (d : RegNum) (a : Src) (b : SrcI)
  | fsub (g : Guard) (rm : Rm) (d : RegNum) (a : Src) (b : SrcI)
  | fmul (g : Guard) (rm : Rm) (d : RegNum) (a : Src) (b : SrcI)
  | ffma (g : Guard) (rm : Rm) (d : RegNum) (a : Src) (b : SrcI) (c : Src)
  | fdiv (g : Guard) (rm : Rm) (d : RegNum) (a : Src) (b : SrcI)
  | fmin (g : Guard) (num : Bool) (d : RegNum) (a : Src) (b : SrcI)
  | fmax (g : Guard) (num : Bool) (d : RegNum) (a : Src) (b : SrcI)
  | fcmp (g : Guard) (rel : FRel) (u : Bool) (p : PredNum) (a : Src) (b : SrcI)
  | fclass (g : Guard) (d : RegNum) (a : Src)
  | frcp (g : Guard) (rm : Rm) (d : RegNum) (a : Src)
  | frsq (g : Guard) (d : RegNum) (a : Src)
  | fsqrt (g : Guard) (rm : Rm) (d : RegNum) (a : Src)
  | fexp2 (g : Guard) (d : RegNum) (a : Src)
  | flog2 (g : Guard) (d : RegNum) (a : Src)
  | fsin (g : Guard) (d : RegNum) (a : Src)
  | fcos (g : Guard) (d : RegNum) (a : Src)
  | ftanh (g : Guard) (d : RegNum) (a : Src)
  | xadd2 (g : Guard) (bf : Bool) (rm : Rm) (d : RegNum) (a : Src) (b : SrcI)
  | xmul2 (g : Guard) (bf : Bool) (rm : Rm) (d : RegNum) (a : Src) (b : SrcI)
  | xfma2 (g : Guard) (bf : Bool) (rm : Rm) (d : RegNum) (a : Src) (b : SrcI) (c : Src)
  | cvtfi (g : Guard) (t : CvtT) (rm : Rm) (d : RegNum) (a : Src)
  | cvtif (g : Guard) (t : CvtT) (rm : Rm) (d : RegNum) (a : Src)
  | cvtff (g : Guard) (f : NFmt) (rm : Rm) (sat : Bool) (d : RegNum) (a b : Src)
  | cvtffWide (g : Guard) (f : NFmt) (idx : BitVec 3) (d : RegNum) (a : Src)
  | cvtbk (g : Guard) (f : SxFmt) (rm : Rm) (sat : Bool) (d : RegNum) (a : Src)
  | cvtbkWide (g : Guard) (f : SxFmt) (d : RegNum) (a : Src)
  | fscale (g : Guard) (rm : Rm) (d : RegNum) (a : Src) (b : SrcI)
  | fround (g : Guard) (rm : Rm) (d : RegNum) (a : Src)
  | ffrac (g : Guard) (rm : Rm) (d : RegNum) (a : Src)
  -- cross-lane and moment, 0x50–0x5F (R163)
  | shfl (g : Guard) (mode : ShflMode) (c : BitVec 3) (d : RegNum) (a : Src) (b : SrcI) (p : PredNum)
  | vote (g : Guard) (k : VoteKind) (uni inv : Bool) (d : RegNum) (p : PredNum)
  | lred (g : Guard) (op : RedOp) (uni : Bool) (d : RegNum) (a : Src)
  | lscan (g : Guard) (op : RedOp) (excl : Bool) (d : RegNum) (a : Src)
  | lmatch (g : Guard) (all b64 : Bool) (d : RegNum) (a : Src)
  | momz (g : Guard) (d : MomNum)
  | momu (g : Guard) (d : MomNum) (a : Src)
  | momw (g : Guard) (d : MomNum) (a : Src) (b : SrcI)
  | momm (g : Guard) (d a b : MomNum)
  | momd (g : Guard) (k : MomdKind) (d : RegNum) (m : MomNum)
  | momn (g : Guard) (d : RegNum) (a : Src) (m : MomNum) (eps : SrcI)
  | momld (g : Guard) (d : MomNum) (base : Src) (off : Word)
  | momst (g : Guard) (base : Src) (m : MomNum) (off : Word)
  | momq (g : Guard) (f : MomqField) (uni : Bool) (d : RegNum) (m : MomNum)
  -- memory, 0x60–0x69 (R183)
  | ld (g : Guard) (t : MemT) (d : RegNum) (base : Base) (off : MOff) (probe : Option PredNum)
  | st (g : Guard) (t : MemT) (base : Base) (off : MOff) (b : Src)
  | ldk (g : Guard) (t : MemT) (d : RegNum) (base : Src) (off : MOff)
  | stk (g : Guard) (t : MemT) (base : Src) (off : MOff) (b : Src)
  | pft (g : Guard) (l1 : Bool) (base : Base) (off : MOff)
  | pgreq (g : Guard) (p : PredNum) (base : Base) (off : Option Word)
  | xlat (g : Guard) (pa : Bool) (d : RegNum) (base : Base) (off : Option Word)
  | cctlIinv (g : Guard) (base : Src) (len : Src) (off : Option Word)
  | cctlL1wb (g : Guard) (base : Src) (len : Src) (off : Option Word)
  | cctlL1inv (g : Guard) (base : Src) (len : Src) (off : Option Word)
  | cctlL2evict (g : Guard) (base : Src) (len : Src) (off : Option Word)
  | pin (g : Guard) (d : RegNum) (base : Src) (len : Src) (off : Option Word)
  | unpin (g : Guard) (d : RegNum) (base : Src) (len : Src) (off : Option Word)
  -- atomics, fences, line wait, 0x70–0x76 (R214)
  | atom (g : Guard) (op : AtomOp) (t : IntT) (d : RegNum) (base : Base) (off : MOff) (b : Src)
  | acas (g : Guard) (b64 : Bool) (d : RegNum) (base : Base) (off : MOff) (b c : Src)
  | afadd (g : Guard) (t : FaddT) (d : RegNum) (base : Base) (off : MOff) (b : Src)
  | ared (g : Guard) (op : AredOp) (base : Base) (off : MOff) (b : Src)
  | fence (g : Guard) (o : FenceOrd) (scope : Scope)
  | xfence (g : Guard)
  | waitln (g : Guard) (rel : Rel) (uns b64 : Bool) (p : PredNum) (base : Base) (b : Src) (off : Word)
      (tmo : BitVec 16) (scope : Scope) (ord : Order)
  -- coherence, 0x78–0x7B (R272)
  | cwb (g : Guard) (inv : Bool) (base : Base) (off : Option Word)
  | cpub (g : Guard) (base : Base) (off : Option Word)
  | tkq (g : Guard) (d : RegNum) (base : Base) (off : Option Word)
  | bias (g : Guard) (host : Bool) (d : RegNum) (base : Src) (n : Src) (off : Option Word)
  -- copy engine, 0x80–0x84 (R281)
  | cpy (g : Guard) (f : CFmt) (p : Planes) (tr : Bool) (rm : Rm) (sat : Bool) (grp : BitVec 4)
      (src dst geo : Src) (off : Word) (pol : PolOv)
  | cpyg (g : Guard) (f : CFmt) (rm : Rm) (sat : Bool) (grp : BitVec 4) (src dst geo : Src) (pol : PolOv)
  | cpys (g : Guard) (f : CFmt) (rm : Rm) (sat : Bool) (grp : BitVec 4) (src dst geo : Src) (off : Word)
      (pol : PolOv)
  | cpyw (g : Guard) (q : Bool) (d : RegNum) (mask : SrcI)
  | cpyq (g : Guard) (op : CpyQ) (d : RegNum) (a : SrcI)
  | cpyqClr (g : Guard) (d : RegNum) (a : SrcI)
  -- matrix, 0x88–0x8D (R293)
  | mma (g : Guard) (p : Planes) (a : TileNum) (pa pb : Src) (sp : Option Src)
  | mloop (g : Guard) (p : Planes) (a : TileNum) (pa pb : Src) (sp : Option Src) (q1 : BitVec 6)
      (incA incB : BitVec 16) (cnt1 : BitVec 16)
  | acz (g : Guard) (a : TileNum) (cnt1 : BitVec 6)
  | acld (g : Guard) (a : TileNum) (src : Src) (off : Word) (pitch : BitVec 16)
  | acdr (g : Guard) (a : TileNum) (v : Src) (mom : Option Src) (norm : Option Src) (z fresh nodata : Bool)
      (off : Word) (pitch : BitVec 16)
  | mwait (g : Guard) (d : RegNum) (n : SrcI)
  -- synchronisation and remote registers, 0x90–0x99, 0xA0–0xA5 (R312)
  | bar (g : Guard)
  | cbar (g : Guard) (c : SrcI)
  | arv (g : Guard) (d : RegNum) (circ : Option SrcI)
  | awt (g : Guard) (tok : Src) (circ : Option SrcI)
  | sput (g : Guard) (sel : SrcI)
  | sget (g : Guard) (sel : SrcI)
  | swait (g : Guard) (free : Bool) (sel : SrcI)
  | marke (g : Guard) (k : Bool) (first : RegNum) (cnt1 : BitVec 6) (gang : Option Src)
  | markf (g : Guard) (k : Bool) (first : RegNum) (cnt1 : BitVec 6) (gang : Option Src)
  | feq (g : Guard) (k : Bool) (d : RegNum) (first : RegNum) (cnt1 : BitVec 5)
  | rstv (g : Guard) (drop : Bool) (sel off : Src) (ext : Option (Word × Bool))
  | rstk (g : Guard) (drop b64 : Bool) (sel data : Src) (ext : Option Bool)
  | rsig (g : Guard) (drop k : Bool) (sel : Src) (ext : Option Bool)
  | chq (g : Guard) (ent : Bool) (d : RegNum) (ch : SrcI)
  | chqClr (g : Guard) (d : RegNum) (ch : SrcI)
  | chgive (g : Guard) (entry : BitVec 6) (perm : BitVec 3) (d : RegNum) (hall desc : Src)
  | chgiveRev (g : Guard) (entry : BitVec 6) (d : RegNum) (hall : Src)
  | hmqTeam (g : Guard) (d : RegNum) (a : SrcI)
  | hmqLive (g : Guard) (d : RegNum) (a : SrcI)
  -- collectives and remote copy, 0xA8–0xAC (R329)
  | coll (g : Guard) (d : RegNum) (ptr : Src) (off : Option Word)
  | collw (g : Guard) (q : Bool) (d : RegNum) (slot : SrcI)
  | collq (g : Guard) (op : CollQ) (d : RegNum) (slot : SrcI)
  | rcpy (g : Guard) (grp : BitVec 3) (src dst geo : Src) (off : Word) (pol : PolOv)
  | rcpyw (g : Guard) (q info : Bool) (d : RegNum) (mask : SrcI)
  -- launch and scheduling, 0xB0–0xB7 (R348)
  | launch (g : Guard) (d : RegNum) (ptr : Src) (off : Option Word)
  | lwait (g : Guard) (q : Bool) (d : RegNum) (h : Src)
  | lqry (g : Guard) (op : Lqry) (d : RegNum) (h : Src)
  | yield (g : Guard)
  | sleep (g : Guard) (n : SrcI)
  | rgn (g : Guard)
  | rgnx (g : Guard)
  | tmig (g : Guard) (d : RegNum) (n : SrcI)
  -- flux, 0xB8–0xB9 (R385)
  | flxcfg (g : Guard) (team : Bool) (d : RegNum) (n : SrcI)
  | flxq (g : Guard) (sel : FlxSel) (clr : Bool) (d : RegNum)
  -- system, 0xC0–0xCA (R397); pwstatReopen and elhdWrite are the MTS words of indexes 0x106 and 0x10D
  | sysc (g : Guard) (code : BitVec 7)
  | rte (g : Guard)
  | mfs (g : Guard) (b64 : Bool) (d : RegNum) (idx : BitVec 16)
  | mts (g : Guard) (b64 : Bool) (a : Src) (idx : BitVec 16)
  | pwstatReopen (g : Guard) (a : Src)
  | elhdWrite (g : Guard) (a : Src)
  | tlbiRange (g : Guard) (va : Src) (n : Src)
  | tlbiAll (g : Guard)
  | ctxsv (g : Guard) (d : RegNum) (h : Src)
  | ctxld (g : Guard) (d : RegNum) (h : Src)
  | intr (g : Guard) (d : RegNum) (v : SrcI)
  | halt (g : Guard) (d : RegNum) (h : Src)
  | prio (g : Guard) (d : RegNum) (h : Src) (p : SrcI)
  | chset (g : Guard) (entry : BitVec 6) (d : RegNum) (h img : Src)
  -- fabric and time, 0xD0–0xD5 (R425)
  | timeNow (g : Guard) (d : RegNum)
  | timeSkew (g : Guard) (d : RegNum)
  | cycClk (g : Guard) (d : RegNum)
  | cycFreq (g : Guard) (d : RegNum)
  | cycSteps (g : Guard) (d : RegNum)
  | tsnd (g : Guard) (d : RegNum) (grp : BitVec 3) (src dst t : Src) (len : Word) (pol : PolOv)
  | slotw (g : Guard) (ptr : Src) (slot : Src)
  | linkcSt (g : Guard) (d : RegNum) (n : SrcI)
  | linkcOn (g : Guard) (t : Src)
  | linkcOff (g : Guard)
  | linkcCst (g : Guard) (d : RegNum)
  | cnq (g : Guard) (d : RegNum) (i : SrcI)
  -- events of the memory system (08, 09)
  | loadDataReturn
  | walkComplete
  | remoteWalkRequest
  | lineFillComplete
  | tlbiRequest
  | fabricTlbExpiry
  | scopeFilterTimedPublish
  -- token protocol (10)
  | trd
  | twr
  | tdat
  | ttok
  | tret
  | lossReport
  | transientAttemptTimeout
  | clampRaiseBound
  | clmp
  | clmpRetry
  | clampBatchSelect
  | clact
  | clack
  | cldone
  | cldea
  | controlMessageResend
  | clampStallTimeout
  | recastBoundRelease
  | trec
  | trca
  | trecResend
  | recastAnswerTimeout
  | trdone
  | trdack
  | trdoneResend
  | recastFenceExpiry
  -- host, bias and pools (10, 18)
  | hostRead
  | hostReadForOwnership
  | hostWriteback
  | birsp
  | hostSilentTimeout
  | biasFlipComplete
  | poolBackInvalidation
  | shelfFailure
  | poolCompletionTimeout
  | cxlLinkDown
  -- engines (11, 12)
  | copyTransferStart
  | copyTransferRetire
  | matrixInstructionStart
  | matrixRetire
  -- synchronisation and channels (13)
  | circleArrival
  | phaseEndNotice
  | remoteStoreArrival
  | remoteStoreRetry
  | remoteStoreAck
  | chgiveArrival
  | remoteAnswer
  -- collectives (14)
  | collMatch
  | collMatchTimeout
  | collStepArrival
  | permitReturn
  | collAbort
  -- waits and timed sends (09, 15, 18)
  | tsndDue
  | waitlnReread
  | waitlnTimeout
  | sleepExpiry
  | pendingForcedSwap
  -- launch and moving work (15)
  | cohortDependenceMet
  | teamDispatch
  | teamStart
  | stealRequest
  | stealReply
  | overloadMigration
  | teamInstall
  | preemptForPriority
  | timeSliceExpiry
  | fullSave
  | regionRestart
  | teamRestore
  | tmigFallback
  -- flux (16)
  | fluxPassEntry
  | fluxPassEnd
  -- fabric (18)
  | flitRetryExhausted
  | linkRetrain
  | congestionNotice
  | rateRecovery
  | wavelengthWindowEnd
  | wavelengthRetrained
  | clockStep
  | relockEnd
  | circuitRotationStart
  | circuitSlotBoundary
  | circuitStop
  | powerThrottleStep
  -- containment, start-up and management (17, 19)
  | uncorrectableSectorError
  | dieInternalError
  | coldStart
  | startControlCohort
  | writeTenantRegister
  | writeRoutingEntry
  | setDieClock
  | fabricGrant
  | setPlimit
  | assayReport
  | warmStart
  | writePerDieCounter
  | fabricLinkUp
  | unreportedMessageLoss
  | homeAccessRequest
  | storePerformed
  | slotTableWrite
  | shelfLinkUp
  deriving DecidableEq, Repr

/-- The row of the table of operations and events that an event is a step of. -/
def Ev.instr : Ev → Instr
  | .loadDataReturn .. => .loadDataReturn
  | .walkComplete .. => .walkComplete
  | .remoteWalkRequest .. => .remoteWalkRequest
  | .lineFillComplete .. => .lineFillComplete
  | .tlbiRequest .. => .tlbiRequest
  | .fabricTlbExpiry .. => .fabricTlbExpiry
  | .scopeFilterTimedPublish .. => .scopeFilterTimedPublish
  | .trd .. => .trd
  | .twr .. => .twr
  | .tdat .. => .tdat
  | .ttok .. => .ttok
  | .tret .. => .tret
  | .lossReport .. => .lossReport
  | .transientAttemptTimeout .. => .transientAttemptTimeout
  | .clampRaiseBound .. => .clampRaiseBound
  | .clmp .. => .clmp
  | .clmpRetry .. => .clmpRetry
  | .clampBatchSelect .. => .clampBatchSelect
  | .clact .. => .clact
  | .clack .. => .clack
  | .cldone .. => .cldone
  | .cldea .. => .cldea
  | .controlMessageResend .. => .controlMessageResend
  | .clampStallTimeout .. => .clampStallTimeout
  | .recastBoundRelease .. => .recastBoundRelease
  | .trec .. => .trec
  | .trca .. => .trca
  | .trecResend .. => .trecResend
  | .recastAnswerTimeout .. => .recastAnswerTimeout
  | .trdone .. => .trdone
  | .trdack .. => .trdack
  | .trdoneResend .. => .trdoneResend
  | .recastFenceExpiry .. => .recastFenceExpiry
  | .hostRead .. => .hostRead
  | .hostReadForOwnership .. => .hostReadForOwnership
  | .hostWriteback .. => .hostWriteback
  | .birsp .. => .birsp
  | .hostSilentTimeout .. => .hostSilentTimeout
  | .biasFlipComplete .. => .biasFlipComplete
  | .poolBackInvalidation .. => .poolBackInvalidation
  | .shelfFailure .. => .shelfFailure
  | .poolCompletionTimeout .. => .poolCompletionTimeout
  | .cxlLinkDown .. => .cxlLinkDown
  | .copyTransferStart .. => .copyTransferStart
  | .copyTransferRetire .. => .copyTransferRetire
  | .matrixInstructionStart .. => .matrixInstructionStart
  | .matrixRetire .. => .matrixRetire
  | .circleArrival .. => .circleArrival
  | .phaseEndNotice .. => .phaseEndNotice
  | .remoteStoreArrival .. => .remoteStoreArrival
  | .remoteStoreRetry .. => .remoteStoreRetry
  | .remoteStoreAck .. => .remoteStoreAck
  | .chgiveArrival .. => .chgiveArrival
  | .remoteAnswer .. => .remoteAnswer
  | .collMatch .. => .collMatch
  | .collMatchTimeout .. => .collMatchTimeout
  | .collStepArrival .. => .collStepArrival
  | .permitReturn .. => .permitReturn
  | .collAbort .. => .collAbort
  | .tsndDue .. => .tsndDue
  | .waitlnReread .. => .waitlnReread
  | .waitlnTimeout .. => .waitlnTimeout
  | .sleepExpiry .. => .sleepExpiry
  | .pendingForcedSwap .. => .pendingForcedSwap
  | .cohortDependenceMet .. => .cohortDependenceMet
  | .teamDispatch .. => .teamDispatch
  | .teamStart .. => .teamStart
  | .stealRequest .. => .stealRequest
  | .stealReply .. => .stealReply
  | .overloadMigration .. => .overloadMigration
  | .teamInstall .. => .teamInstall
  | .preemptForPriority .. => .preemptForPriority
  | .timeSliceExpiry .. => .timeSliceExpiry
  | .fullSave .. => .fullSave
  | .regionRestart .. => .regionRestart
  | .teamRestore .. => .teamRestore
  | .tmigFallback .. => .tmigFallback
  | .fluxPassEntry .. => .fluxPassEntry
  | .fluxPassEnd .. => .fluxPassEnd
  | .flitRetryExhausted .. => .flitRetryExhausted
  | .linkRetrain .. => .linkRetrain
  | .congestionNotice .. => .congestionNotice
  | .rateRecovery .. => .rateRecovery
  | .wavelengthWindowEnd .. => .wavelengthWindowEnd
  | .wavelengthRetrained .. => .wavelengthRetrained
  | .clockStep .. => .clockStep
  | .relockEnd .. => .relockEnd
  | .circuitRotationStart .. => .circuitRotationStart
  | .circuitSlotBoundary .. => .circuitSlotBoundary
  | .circuitStop .. => .circuitStop
  | .powerThrottleStep .. => .powerThrottleStep
  | .uncorrectableSectorError .. => .uncorrectableSectorError
  | .dieInternalError .. => .dieInternalError
  | .coldStart .. => .coldStart
  | .startControlCohort .. => .startControlCohort
  | .writeTenantRegister .. => .writeTenantRegister
  | .writeRoutingEntry .. => .writeRoutingEntry
  | .setDieClock .. => .setDieClock
  | .fabricGrant .. => .fabricGrant
  | .setPlimit .. => .setPlimit
  | .assayReport .. => .assayReport
  | .warmStart .. => .warmStart
  | .writePerDieCounter .. => .writePerDieCounter
  | .fabricLinkUp .. => .fabricLinkUp
  | .unreportedMessageLoss .. => .unreportedMessageLoss
  | .homeAccessRequest .. => .homeAccessRequest
  | .storePerformed .. => .storePerformed
  | .slotTableWrite .. => .slotTableWrite
  | .shelfLinkUp .. => .shelfLinkUp

end Sys2Proof
end

