-- ==== Sys2Proof/Decode.lean ====
section
/-!
DEFINITION. Instruction words of chapter 03: the payload and extension fields (R62–R68), the field table of
every major opcode as its owning chapter gives it, the illegal-instruction causes of R74, the pairing rules
of R69–R71, the decoder and the encoder.
-/
namespace Sys2Proof

/-! ### Fields of a word -/

/-- The payload of one operation (R63). -/
structure Payload where
  resv : BitVec 2
  mod  : BitVec 6
  func : BitVec 7
  wc   : Bool
  sc   : BitVec 8
  wb   : Bool
  sb   : BitVec 8
  wa   : Bool
  sa   : BitVec 8
  dst  : BitVec 8
  pneg : Bool
  pred : BitVec 3
  opc  : BitVec 8
  deriving DecidableEq, Repr

/-- One operation with its form and what follows the payload: IMM32 in [31:0] under `w96`, the upper half of
the word under `w128`, 0 under `w64` (R62, R66). -/
structure Enc where
  form : Form
  pl   : Payload
  hi   : BitVec 64
  deriving DecidableEq, Repr

/-- IMM32 of a 96-bit word (R66). -/
def Enc.imm32 (e : Enc) : Word := e.hi.extractLsb' 0 32
/-- IMMA (R67). -/
def Enc.immA (e : Enc) : Word := e.hi.extractLsb' 32 32
/-- IMMB (R67). -/
def Enc.immB (e : Enc) : BitVec 16 := e.hi.extractLsb' 16 16
/-- Reserved bits [79:76] of a kind E word (R67). -/
def Enc.resvE (e : Enc) : BitVec 4 := e.hi.extractLsb' 12 4
/-- RESM (R67). -/
def Enc.resm (e : Enc) : BitVec 3 := e.hi.extractLsb' 9 3
/-- POLOV (R67). -/
def Enc.polov (e : Enc) : BitVec 4 := e.hi.extractLsb' 5 4
/-- ORD (R67). -/
def Enc.ord (e : Enc) : BitVec 2 := e.hi.extractLsb' 3 2
/-- SCOPE (R67). -/
def Enc.scope (e : Enc) : BitVec 3 := e.hi.extractLsb' 0 3

/-- The upper half of a kind E word from its fields (R67). -/
def extHi (immA : Word) (immB : BitVec 16) (resm : BitVec 3) (polov : BitVec 4) (ord : BitVec 2)
    (scope : BitVec 3) : BitVec 64 :=
  (immA ++ immB ++ (0 : BitVec 4) ++ resm ++ polov ++ ord ++ scope : BitVec 64)

/-- Bits [63:2] of a word read as a payload (R63). -/
def Payload.ofBits (w : BitVec 64) : Payload where
  resv := w.extractLsb' 62 2
  mod  := w.extractLsb' 56 6
  func := w.extractLsb' 49 7
  wc   := w.getLsbD 48
  sc   := w.extractLsb' 40 8
  wb   := w.getLsbD 39
  sb   := w.extractLsb' 31 8
  wa   := w.getLsbD 30
  sa   := w.extractLsb' 22 8
  dst  := w.extractLsb' 14 8
  pneg := w.getLsbD 13
  pred := w.extractLsb' 10 3
  opc  := w.extractLsb' 2 8

/-- The payload placed in bits [63:2], with `form` in [1:0] (R62, R63). -/
def Payload.toBits (p : Payload) (form : BitVec 2) : BitVec 64 :=
  (p.resv ++ p.mod ++ p.func ++ BitVec.ofBool p.wc ++ p.sc ++ BitVec.ofBool p.wb ++ p.sb ++
    BitVec.ofBool p.wa ++ p.sa ++ p.dst ++ BitVec.ofBool p.pneg ++ p.pred ++ p.opc ++ form : BitVec 64)

/-- Bits [1:0] of a form (R62). -/
def Form.bits : Form → BitVec 2
  | .w64 => 0
  | .w96 => 1
  | .w128 => 2

/-- Bytes of a form (R62). -/
def Form.bytes : Form → Nat
  | .w64 => 8
  | .w96 => 12
  | .w128 => 16

/-- The word of an operation, the first byte lowest (R3, R62). -/
def Enc.toBits (e : Enc) : BitVec 128 :=
  match e.form with
  | .w64 => (0 : BitVec 64) ++ e.pl.toBits 0
  | .w96 => (0 : BitVec 32) ++ e.imm32 ++ e.pl.toBits 1
  | .w128 => e.hi ++ e.pl.toBits 2

/-- The operation of a single word (R62); `none` for the paired form. -/
def Enc.ofBits (w : BitVec 128) : Option Enc :=
  let pl := Payload.ofBits (w.extractLsb' 0 64)
  match (w.extractLsb' 0 2).toNat with
  | 0 => some ⟨.w64, pl, 0⟩
  | 1 => some ⟨.w96, pl, (w.extractLsb' 64 32).setWidth 64⟩
  | 2 => some ⟨.w128, pl, w.extractLsb' 64 64⟩
  | _ => none

/-! ### The field table of each major opcode -/

/-- Guard classes (R64, R78). -/
inductive GClass where
  | lane | uniform | fixed
  deriving DecidableEq, Repr

/-- What a register field names, or the range of the immediate it holds (R65). -/
inductive FK where
  | zero
  | v | vp | vq
  | k | kp
  | k4 | k4s | k6
  | p | q | m
  | tile
  | idx (max : Nat)
  | vwin (n : Nat)
  | kwin (n : Nat)
  deriving DecidableEq, Repr

/-- Which extension fields a kind E word reads (R67). -/
structure ExtUse where
  immA  : Bool := false
  immB  : Bool := false
  scope : Bool := false
  ord   : Bool := false
  polov : Bool := false
  resm  : Bool := false
  deriving DecidableEq, Repr

/-- One row of the encoding tables, as it applies to one word: whether FUNC and MOD are defined, the forms,
the guard class, what each field names, whether the immediate lies in its range, the extension fields read,
and whether its scope and order are allowed. -/
structure Shape where
  fm    : Bool
  forms : List Form
  guard : GClass
  d     : FK := .zero
  a     : FK := .zero
  b     : FK := .zero
  c     : FK := .zero
  immOk : Bool := true
  ext   : ExtUse := {}
  ordOk : Bool := true
  deriving DecidableEq, Repr

/-- Forms 64 and 96. -/
def f69 : List Form := [.w64, .w96]
/-- Forms 64, 96 and 128. -/
def f691 : List Form := [.w64, .w96, .w128]

/-- A vector register, or a pair when `b`. -/
def vOr (b : Bool) : FK := if b then .vp else .v
/-- A uniform register, or an even pair when `b`. -/
def kOr (b : Bool) : FK := if b then .kp else .k
/-- The field that the 96-bit form replaces with IMM32 (R66). -/
def repl (form : Form) (x : FK) : FK := if form = .w96 then .zero else x

/-- Address operand of modes 0, 1 and 2 (R184). -/
def baseK : Nat → FK
  | 0 => .vp
  | 1 => .kp
  | _ => .v

/-- Data operand of an LD or ST type (R183). -/
def dataK : Nat → FK
  | 5 => .vp
  | 6 => .vq
  | _ => .v

/-- ORD and SCOPE of a load or store: weak only with SCOPE 0, and never the order `no` (R186). -/
def memOrdOk (e : Enc) (no : Nat) : Bool :=
  e.ord.toNat ≠ no && (e.ord ≠ 0 || e.scope = 0)

/-- Opcodes 0x00 to 0x17 (R140). -/
def shapeControl (e : Enc) : Option Shape :=
  let f := e.pl.func.toNat
  let m := e.pl.mod.toNat
  let z := f = 0 && m = 0
  let off := e.imm32.extractLsb' 0 2 = 0
  match e.pl.opc.toNat with
  | 0x00 => some { fm := z, forms := f691, guard := .lane, immOk := e.hi = 0 }
  | 0x01 => some { fm := z, forms := [.w96], guard := .uniform, immOk := off }
  | 0x02 => some { fm := z, forms := [.w64], guard := .uniform, a := .kp }
  | 0x03 => some { fm := z, forms := [.w96], guard := .lane, d := .kp, immOk := off }
  | 0x04 => some { fm := z, forms := [.w64], guard := .lane, d := .kp, a := .vp }
  | 0x05 => some { fm := f = 0 && m ≤ 62, forms := [.w64], guard := .lane, a := .kp }
  | 0x06 => some { fm := f ≤ 1 && m = 0, forms := [.w96], guard := .fixed, a := .p, immOk := off }
  | 0x07 => some { fm := z, forms := [.w96], guard := .fixed, immOk := off }
  | 0x08 => some { fm := z, forms := [.w64], guard := .fixed }
  | 0x09 => some { fm := z, forms := [.w96], guard := .fixed, immOk := off }
  | 0x0A => some { fm := f = 0 && m ≤ 61, forms := [.w64], guard := .lane }
  | 0x0B => some { fm := f = 0 && m ≤ 62, forms := [.w64], guard := .lane }
  | 0x0C => some { fm := z, forms := [.w96], guard := .fixed, immOk := off }
  | 0x0D => some { fm := z, forms := [.w64], guard := .lane }
  | 0x0E => some { fm := m = 0, forms := [.w64], guard := .lane }
  | 0x0F => some { fm := z, forms := [.w64], guard := .lane }
  | 0x10 => some { fm := f ≤ 1 && m = 0, forms := [.w64], guard := .uniform, d := kOr (f = 1), a := kOr (f = 1) }
  | 0x11 => some { fm := f ≤ 1 && m = 0, forms := if f = 1 then [.w96, .w128] else [.w96], guard := .uniform,
                   d := kOr (f = 1) }
  | 0x12 =>
    let op := f % 16
    let b64 := f / 16 % 2 = 1
    let shift := 6 ≤ op && op ≤ 8
    some { fm := op ≤ 10 && f < 64 && (f / 32 = 0 || 9 ≤ op) && m = 0, forms := f69, guard := .uniform,
           d := kOr b64, a := kOr b64, b := repl e.form (if shift then .k else kOr b64) }
  | 0x13 =>
    let b64 := f / 16 % 2 = 1
    some { fm := f % 8 ≤ 5 && f < 32 && m = 0, forms := f69, guard := .uniform, d := .q, a := kOr b64,
           b := repl e.form (kOr b64) }
  | 0x14 => some { fm := f ≤ 1 && m = 0, forms := f69, guard := .uniform, d := kOr (f = 1), a := kOr (f = 1),
                   b := repl e.form (kOr (f = 1)), c := .q }
  | 0x15 => some { fm := f ≤ 1 && m = 0, forms := [.w64], guard := .lane, d := kOr (f = 1), a := vOr (f = 1) }
  | 0x16 => some { fm := f ≤ 1 && m = 0, forms := [.w64], guard := .lane, d := vOr (f = 1), a := kOr (f = 1) }
  | 0x17 =>
    let i := e.pl.sa.toNat
    some { fm := f ≤ 1 && m = 0, forms := [.w64], guard := if f = 0 then .lane else .uniform,
           d := if f = 0 then vOr (17 ≤ i) else kOr (17 ≤ i), a := .idx 18, immOk := f = 0 || 3 ≤ i }
  | _ => none

/-- Opcodes 0x20 to 0x3C (R124). -/
def shapeInteger (e : Enc) : Option Shape :=
  let f := e.pl.func.toNat
  let m := e.pl.mod.toNat
  let w := vOr (2 ≤ f % 4)
  let wide := f / 4 % 4 = 2
  let b64 := f / 2 % 2 = 1
  match e.pl.opc.toNat with
  | 0x20 | 0x21 => some { fm := f ≤ 3 && m ≤ 1, forms := f69, guard := .lane, d := w, a := w, b := repl e.form w }
  | 0x22 => some { fm := f ≤ 11 && !(wide && 2 ≤ f % 4) && m = 0, forms := f69, guard := .lane,
                   d := if wide then .vp else w, a := w, b := repl e.form w }
  | 0x23 => some { fm := (f ≤ 3 || (f / 4 = 2 && f % 4 ≤ 1)) && m = 0, forms := f69, guard := .lane,
                   d := if wide then .vp else w, a := w, b := repl e.form w, c := if wide then .vp else w }
  | 0x24 | 0x25 => some { fm := f ≤ 3 && m = 0, forms := f69, guard := .lane, d := w, a := w, b := repl e.form w }
  | 0x26 => some { fm := f ≤ 7 && m = 0, forms := f69, guard := .lane, d := w, a := w, b := repl e.form w }
  | 0x27 => some { fm := f ≤ 7 && m ≤ 1 && (4 ≤ f || f % 2 = 0), forms := [.w64], guard := .lane, d := w, a := w }
  | 0x28 => some { fm := f ≤ 1 && m = 0, forms := f69, guard := .lane, d := .v, a := .v, b := repl e.form .v, c := .v }
  | 0x29 => some { fm := f / 4 ≤ 5 && m = 0, forms := f69, guard := .lane, d := .p, a := w, b := repl e.form w }
  | 0x2A => some { fm := (f = 0 || f = 2) && m = 0, forms := f69, guard := .lane, d := vOr b64, a := vOr b64,
                   b := repl e.form (vOr b64), c := .p }
  | 0x2B =>
    let l64 := vOr (f / 8 = 1)
    some { fm := f ≤ 15 && f % 8 ≤ 6 && m = 0, forms := if f % 8 = 6 then [.w64] else f69, guard := .lane,
           d := l64, a := l64, b := if f % 8 = 6 then .zero else repl e.form l64 }
  | 0x2C => some { fm := f = 0 && m = 0 && (e.form ≠ .w96 || e.imm32.toNat ≤ 255), forms := [.w96], guard := .lane,
                   d := .v, a := .v, b := .v, c := .v }
  | 0x2D | 0x2E | 0x2F => some { fm := (f = 0 || f = 2) && m = 0, forms := f69, guard := .lane, d := vOr b64,
                                 a := vOr b64, b := repl e.form .v }
  | 0x30 => some { fm := f ≤ 3 && m = 0, forms := f69, guard := .lane, d := vOr b64, a := vOr b64,
                   b := repl e.form .v }
  | 0x31 => some { fm := f ≤ 1 && m = 0, forms := f69, guard := .lane, d := .v, a := .v, b := .v,
                   c := repl e.form .v }
  | 0x32 => some { fm := f ≤ 7 && m = 0, forms := [.w64], guard := .lane, d := vOr (f = 7), a := vOr (4 ≤ f) }
  | 0x33 => some { fm := f ≤ 1 && m = 0, forms := f69, guard := .lane, d := .v, a := .v, b := repl e.form .v }
  | 0x34 => some { fm := f = 0 && m = 0, forms := f69, guard := .lane, d := .v, a := .v, b := repl e.form .v,
                   c := .v }
  | 0x35 => some { fm := f = 0 && m = 0, forms := f69, guard := .lane, d := .v, b := repl e.form .v }
  | 0x36 => some { fm := f = 0 && m = 0, forms := f69, guard := .lane, d := .v, a := .v, b := .v,
                   c := repl e.form .v }
  | 0x37 => some { fm := f ≤ 3 && m ≤ 7, forms := f69, guard := .lane, d := .vp, a := if b64 then .kp else .vp,
                   b := repl e.form .v }
  | 0x38 => some { fm := f < 32 && f % 8 ≤ 5 && (m = 0 || (m = 1 && f % 8 ≤ 2)), forms := f69, guard := .lane,
                   d := .v, a := .v, b := repl e.form .v }
  | 0x39 => some { fm := f % 4 ≤ 2 && (f / 4 = 0 || f / 4 = 2) && m = 0, forms := f69, guard := .lane,
                   d := .v, a := .v, b := repl e.form .v }
  | 0x3A => some { fm := f < 32 && f % 8 ≤ 5 && m = 0, forms := f69, guard := .lane,
                   d := .v, a := .v, b := repl e.form .v }
  | 0x3B => some { fm := f ≤ 1 && m = 0, forms := f69, guard := .lane, d := if f = 0 then .v else .zero, a := .vp,
                   b := repl e.form .v }
  | 0x3C => some { fm := f ≤ 1 && m = 0, forms := if f = 1 then f691 else f69, guard := .lane, d := vOr (f = 1),
                   a := if e.form = .w64 then vOr (f = 1) else .zero }
  | _ => none

/-- Opcodes 0x40 to 0x5F (R101, R107, R111, R116, R163). -/
def shapeFloat (e : Enc) : Option Shape :=
  let f := e.pl.func.toNat
  let m := e.pl.mod.toNat
  match e.pl.opc.toNat with
  | 0x40 | 0x41 | 0x42 | 0x48 | 0x4E =>
    some { fm := f = 0 && m ≤ 3, forms := f69, guard := .lane, d := .v, a := .v, b := repl e.form .v }
  | 0x43 => some { fm := f = 0 && m ≤ 3, forms := f69, guard := .lane, d := .v, a := .v, b := repl e.form .v,
                   c := .v }
  | 0x44 => some { fm := f ≤ 3 && m = 0, forms := f69, guard := .lane, d := .v, a := .v, b := repl e.form .v }
  | 0x45 => some { fm := f ≤ 13 && m = 0, forms := f69, guard := .lane, d := .p, a := .v,
                   b := repl e.form .v }
  | 0x46 => some { fm := f = 0 && m = 0, forms := [.w64], guard := .lane, d := .v, a := .v }
  | 0x47 => some { fm := f ≤ 7 && (m = 0 || (m ≤ 3 && (f = 0 || f = 2))), forms := [.w64], guard := .lane,
                   d := .v, a := .v }
  | 0x49 | 0x4A => some { fm := f ≤ 1 && m ≤ 3, forms := f69, guard := .lane, d := .v, a := .v,
                          b := repl e.form .v }
  | 0x4B => some { fm := f ≤ 1 && m ≤ 3, forms := f69, guard := .lane, d := .v, a := .v, b := repl e.form .v,
                   c := .v }
  | 0x4C =>
    let t64 := f % 4 = 3
    let idx := m / 8
    match f / 32 with
    | 0 => some { fm := f ≤ 7 && m ≤ 3, forms := [.w64], guard := .lane, d := vOr t64, a := .v }
    | 1 => some { fm := f - 32 ≤ 7 && m ≤ 3, forms := [.w64], guard := .lane, d := .v, a := vOr t64 }
    | 2 =>
      if f / 8 % 2 = 0 then
        some { fm := f - 64 ≤ 4 && m ≤ 7, forms := [.w64], guard := .lane, d := .v, a := .v, b := .v }
      else
        some { fm := f - 72 ≤ 4 && m % 8 = 0 &&
                 (if f - 72 ≤ 1 then idx ≤ 1 else if f - 72 ≤ 3 then idx ≤ 3 else true),
               forms := [.w64], guard := .lane, d := .v, a := .v }
    | _ => some { fm := false, forms := [.w64], guard := .lane }
  | 0x4D => some { fm := f ≤ 7 && f % 4 ≤ 2 && (if f < 4 then m ≤ 7 else m = 0), forms := [.w64],
                   guard := .lane, d := .v, a := .v }
  | 0x4F => some { fm := f ≤ 1 && m ≤ 3, forms := [.w64], guard := .lane, d := .v, a := .v }
  | 0x50 => some { fm := f ≤ 3 && m ≤ 5, forms := f69, guard := .lane, d := .v, a := .v, b := repl e.form .v,
                   c := .p }
  | 0x51 =>
    let uni := f / 4 % 2 = 1
    let d := if f % 4 = 2 then (if uni then FK.k else FK.v) else (if uni then FK.q else FK.p)
    some { fm := f ≤ 15 && f % 4 ≤ 2 && m = 0, forms := [.w64], guard := .lane, d := d, a := .p }
  | 0x52 => some { fm := f < 32 && f % 16 ≤ 10 && m = 0, forms := [.w64], guard := .lane,
                   d := if f / 16 = 1 then .k else .v, a := .v }
  | 0x53 => some { fm := f < 32 && f % 16 ≤ 10 && m = 0, forms := [.w64], guard := .lane, d := .v, a := .v }
  | 0x54 => some { fm := f ≤ 3 && m = 0, forms := [.w64], guard := .lane, d := if f % 2 = 1 then .p else .v,
                   a := vOr (2 ≤ f) }
  | 0x58 => some { fm := f = 0 && m = 0, forms := [.w64], guard := .lane, d := .m }
  | 0x59 => some { fm := f = 0 && m = 0, forms := [.w64], guard := .lane, d := .m, a := .v }
  | 0x5A => some { fm := f = 0 && m = 0, forms := f69, guard := .lane, d := .m, a := .v, b := repl e.form .v }
  | 0x5B => some { fm := f = 0 && m = 0, forms := [.w64], guard := .lane, d := .m, a := .m, b := .m }
  | 0x5C => some { fm := f ≤ 4 && m = 0, forms := if f = 4 then f69 else [.w64], guard := .lane, d := .v, a := .m,
                   b := if f = 4 then repl e.form .v else .zero }
  | 0x5D => some { fm := f = 0 && m = 0, forms := f69, guard := .lane, d := .v, a := .v, b := .m,
                   c := repl e.form .v }
  | 0x5E => some { fm := f ≤ 1 && m = 0, forms := [.w96], guard := .lane, d := if f = 0 then .m else .zero,
                   a := .kp, b := if f = 0 then .zero else .m }
  | 0x5F => some { fm := f ≤ 7 && m = 0, forms := [.w64], guard := .lane, d := if 4 ≤ f then .k else .v, a := .m }
  | _ => none

/-- Extension use of a memory access (R183). -/
def memExt (resm : Bool) : ExtUse := { immA := true, scope := true, ord := true, polov := true, resm := resm }
/-- Extension use of an atomic (R214). -/
def atomExt : ExtUse := { immA := true, scope := true, ord := true }

/-- Opcodes 0x60 to 0x7B (R183, R186, R214, R216, R272). Type code 2 of AFADD is `.bf16`, as its row of the field table and its
syntax have it, and cause 4 is raised for code 3 alone, although the text after the table names codes 2 and 3 (DEDUCED, log 68). -/
def shapeMemory (e : Enc) : Option Shape :=
  let f := e.pl.func.toNat
  let m := e.pl.mod.toNat
  let z := m = 0
  let t := f % 16
  let mode := f / 16
  let amode := f / 32
  let x := e.form = .w128
  match e.pl.opc.toNat with
  | 0x60 => some { fm := t ≤ 6 && mode ≤ 2 && z, forms := f691, guard := .lane, d := dataK t, a := baseK mode,
                   c := if x && e.resm = 1 then .p else .zero, ext := memExt true, ordOk := memOrdOk e 3 }
  | 0x61 => some { fm := (t = 0 || t = 2 || (4 ≤ t && t ≤ 6)) && mode ≤ 2 && z, forms := f691, guard := .lane,
                   a := baseK mode, b := dataK t, ext := memExt false, ordOk := memOrdOk e 2 }
  | 0x62 => some { fm := f ≤ 5 && z, forms := f691, guard := .lane, d := kOr (f = 5), a := .kp,
                   ext := memExt false, ordOk := memOrdOk e 3 }
  | 0x63 => some { fm := (f = 0 || f = 2 || f = 4 || f = 5) && z, forms := f691, guard := .lane, a := .kp,
                   b := kOr (f = 5), ext := memExt false, ordOk := memOrdOk e 2 }
  | 0x64 => some { fm := t ≤ 1 && mode ≤ 2 && z, forms := f691, guard := .lane, a := baseK mode,
                   ext := { immA := true, polov := true } }
  | 0x65 => some { fm := t = 0 && mode ≤ 1 && z, forms := f69, guard := .lane, d := .p, a := baseK mode }
  | 0x66 => some { fm := t ≤ 1 && mode ≤ 1 && z, forms := f69, guard := .lane, d := vOr (t = 1), a := baseK mode }
  | 0x67 => some { fm := f ≤ 3 && z, forms := f69, guard := .lane, a := .kp, b := .k }
  | 0x68 | 0x69 => some { fm := f = 0 && z, forms := f69, guard := .lane, d := .k, a := .kp, b := .k }
  | 0x70 =>
    let w := vOr (2 ≤ f / 8 % 4)
    some { fm := f % 8 ≤ 6 && amode ≤ 2 && z, forms := f691, guard := .lane, d := w, a := baseK amode, b := w,
           ext := atomExt }
  | 0x71 =>
    let w := vOr (f / 8 % 4 = 1)
    some { fm := f % 8 = 0 && f / 8 % 4 ≤ 1 && amode ≤ 2 && z, forms := f691, guard := .lane, d := w,
           a := baseK amode, b := w, c := w, ext := atomExt }
  | 0x72 => some { fm := f % 8 = 0 && f / 8 % 4 ≤ 2 && amode ≤ 2 && z, forms := f691, guard := .lane, d := .v,
                   a := baseK amode, b := .v, ext := atomExt }
  | 0x73 => some { fm := f % 8 ≤ 6 && (f % 8 ≠ 6 || f / 8 % 4 ≤ 2) && amode ≤ 2 && z, forms := f691,
                   guard := .lane, a := baseK amode, b := vOr (f % 8 ≠ 6 && 2 ≤ f / 8 % 4), ext := atomExt,
                   ordOk := e.ord ≠ 2 }
  | 0x74 => some { fm := f = 0 && m % 8 ≠ 0 && m / 8 ≤ 2, forms := [.w64], guard := .uniform }
  | 0x75 => some { fm := f = 0 && z, forms := [.w64], guard := .uniform }
  | 0x76 => some { fm := f % 8 ≤ 5 && amode ≤ 2 && z, forms := [.w128], guard := .lane, d := .p, a := baseK amode,
                   b := vOr (f / 16 % 2 = 1), ext := { immA := true, immB := true, scope := true, ord := true },
                   ordOk := e.ord ≠ 3 }
  | 0x78 => some { fm := t ≤ 1 && mode ≤ 2 && z, forms := f69, guard := .lane, a := baseK mode }
  | 0x79 => some { fm := t = 0 && mode ≤ 2 && z, forms := f69, guard := .lane, a := baseK mode }
  | 0x7A => some { fm := t = 0 && mode ≤ 2 && z, forms := f69, guard := .lane, d := .v, a := baseK mode }
  | 0x7B => some { fm := f ≤ 1 && z, forms := f69, guard := .uniform, d := .k, a := .kp, b := .k }
  | _ => none

/-- Opcodes 0x80 to 0x8D (R281, R293). -/
def shapeEngine (e : Enc) : Option Shape :=
  let f := e.pl.func.toNat
  let m := e.pl.mod.toNat
  let fmt := f % 16
  let immA : ExtUse := { immA := true, immB := true }
  let grp := e.immB.toNat ≤ 15
  match e.pl.opc.toNat with
  | 0x80 =>
    let p := f / 16 % 4
    let tr := 64 ≤ f
    some { fm := fmt ≤ 9 && p ≤ 2 && m ≤ 7 && (2 < fmt || fmt ≤ p) && (fmt ≤ 2 || fmt = 9 || p = 2) &&
             (fmt ≠ 9 || p = 0) && !(tr && (fmt ≤ 2 || fmt = 9)) && (m = 0 || (3 ≤ fmt && fmt ≤ 8)),
           forms := [.w128], guard := .uniform, a := .kp, b := .kp, c := .kp, immOk := grp,
           ext := { immA := true, immB := true, polov := true } }
  | 0x81 => some { fm := 3 ≤ f && f ≤ 8 && m ≤ 7, forms := [.w128], guard := .uniform, a := .k6, b := .kp, c := .kp,
                   immOk := grp, ext := { immB := true, polov := true } }
  | 0x82 => some { fm := f ≤ 9 && m ≤ 7 && (m = 0 || (f ≠ 3 && f ≠ 9)), forms := [.w128], guard := .uniform,
                   a := .kp, b := .kp, c := .kp, immOk := grp,
                   ext := { immA := true, immB := true, polov := true } }
  | 0x83 => some { fm := f ≤ 1 && m = 0, forms := f69, guard := .uniform, d := .k, a := repl e.form .k,
                   immOk := e.form ≠ .w96 || e.imm32.toNat ≤ 0xFFFF }
  | 0x84 => some { fm := f ≤ 5 && m = 0, forms := f69, guard := .uniform, d := kOr (f = 2), a := repl e.form .k,
                   immOk := e.form ≠ .w96 || e.imm32.toNat ≤ 15 }
  | 0x88 => some { fm := f ≤ 7 && f % 4 ≤ 2 && m = 0, forms := [.w64], guard := .uniform, d := .tile, a := .kp,
                   b := .kp, c := if 4 ≤ f then .kp else .zero }
  | 0x89 => some { fm := f ≤ 7 && f % 4 ≤ 2, forms := [.w128], guard := .uniform, d := .tile, a := .kp, b := .kp,
                   c := if 4 ≤ f then .kp else .zero, ext := immA }
  | 0x8A => some { fm := f ≤ 63 && m = 0, forms := [.w64], guard := .uniform, d := .tile }
  | 0x8B =>
    let mom := f % 2 = 1
    let norm := f / 2 % 2 = 1
    some { fm := f ≤ 31 && m = 0 && (mom || (!norm && f / 8 = 0)) && !(norm && 16 ≤ f), forms := [.w128],
           guard := .uniform, d := .tile, a := .kp, b := if mom then .kp else .zero,
           c := if norm then .k else .zero, ext := immA }
  | 0x8C => some { fm := f = 0 && m = 0, forms := [.w128], guard := .uniform, d := .tile, a := .kp, ext := immA }
  | 0x8D => some { fm := f = 0 && m = 0, forms := f69, guard := .uniform, d := .k, a := repl e.form .k }
  | _ => none

/-- An immediate selector of a stage ring has no reserved bit set (R312, R317): bits [31:13] and [7:5]
are zero. -/
def selOk (w : Word) : Bool := w &&& 0xFFFFE0E0 = 0

/-- Opcodes 0x90 to 0xB9 (R312, R329, R348, R385). -/
def shapeSync (e : Enc) : Option Shape :=
  let f := e.pl.func.toNat
  let m := e.pl.mod.toNat
  let z := f = 0 && m = 0
  let i96 := e.form = .w96
  let circ := f = 1
  let f1 := f ≤ 1 && m = 0
  let remOrd : ExtUse := { scope := true, ord := true }
  let remOk := e.scope = 0 && (e.ord = 0 || e.ord = 3)
  match e.pl.opc.toNat with
  | 0x90 => some { fm := z, forms := [.w64], guard := .uniform }
  | 0x91 => some { fm := z, forms := f69, guard := .uniform, a := repl e.form .k, immOk := !i96 || e.imm32.toNat ≤ 255 }
  | 0x92 => some { fm := f1, forms := if circ then f69 else [.w64], guard := .uniform, d := .k,
                   a := if circ then repl e.form .k else .zero, immOk := !i96 || e.imm32.toNat ≤ 255 }
  | 0x93 => some { fm := f1, forms := if circ then f69 else [.w64], guard := .uniform, a := .k,
                   b := if circ then repl e.form .k else .zero, immOk := !i96 || e.imm32.toNat ≤ 255 }
  | 0x94 | 0x95 => some { fm := z, forms := f69, guard := .uniform, a := repl e.form .k,
                          immOk := !i96 || selOk e.imm32 }
  | 0x96 => some { fm := f1, forms := f69, guard := .uniform, a := repl e.form .k, immOk := !i96 || selOk e.imm32 }
  | 0x97 | 0x98 =>
    let g := 2 ≤ f
    some { fm := f ≤ 3, forms := [.w64], guard := .uniform,
           d := if f % 2 = 1 then .kwin (m + 1) else .vwin (m + 1), a := if g then .k else .zero }
  | 0x99 => some { fm := f ≤ 1 && m ≤ 31, forms := [.w64], guard := .uniform, d := .k,
                   a := if f = 1 then .kwin (m + 1) else .vwin (m + 1) }
  | 0xA0 => some { fm := f1, forms := [.w64, .w128], guard := .uniform, a := .k, b := .k,
                   ext := { remOrd with immA := true }, ordOk := remOk }
  | 0xA1 => some { fm := f ≤ 3 && m = 0, forms := [.w64, .w128], guard := .uniform, a := .k, b := kOr (2 ≤ f),
                   ext := remOrd, ordOk := remOk }
  | 0xA2 => some { fm := f ≤ 3 && m = 0, forms := [.w64, .w128], guard := .uniform, a := .k,
                   ext := remOrd, ordOk := remOk }
  | 0xA3 => some { fm := f ≤ 2 && m = 0, forms := f69, guard := .uniform, d := if f = 1 then .k4 else .k,
                   a := repl e.form .k }
  | 0xA4 =>
    let rev := 64 ≤ f
    some { fm := m ≤ 7, forms := [.w64], guard := .uniform, d := .k, a := .k, b := if rev then .zero else .k,
           immOk := !rev || m = 0 }
  | 0xA5 => some { fm := f1, forms := f69, guard := .uniform, d := .k, a := repl e.form .k }
  | 0xA8 => some { fm := z, forms := f69, guard := .uniform, d := .k, a := .kp }
  | 0xA9 => some { fm := f1, forms := f69, guard := .uniform, d := .k, a := repl e.form .k,
                   immOk := !i96 || e.imm32.toNat ≤ 3 }
  | 0xAA => some { fm := f ≤ 3 && m = 0, forms := f69, guard := .uniform, d := .k, a := repl e.form .k,
                   immOk := !i96 || e.imm32.toNat ≤ 3 }
  | 0xAB => some { fm := z, forms := [.w128], guard := .uniform, a := .kp, b := .kp, c := .kp,
                   immOk := e.immB.toNat ≤ 7, ext := { immA := true, immB := true, polov := true } }
  | 0xAC => some { fm := f ≤ 3 && m = 0, forms := f69, guard := .uniform, d := .k, a := repl e.form .k,
                   immOk := !i96 || e.imm32.toNat ≤ (if 2 ≤ f then 7 else 0xFF) }
  | 0xB0 => some { fm := z, forms := [.w64, .w128], guard := .uniform, d := .k, a := .kp, ext := { immA := true } }
  | 0xB1 => some { fm := f1, forms := [.w64], guard := .uniform, d := .k, a := .k }
  | 0xB2 => some { fm := f ≤ 3 && m = 0, forms := [.w64], guard := .uniform, d := .k, a := .k }
  | 0xB3 | 0xB5 | 0xB6 => some { fm := z, forms := [.w64], guard := .uniform }
  | 0xB4 => some { fm := z, forms := f69, guard := .uniform, a := repl e.form .k }
  | 0xB7 => some { fm := z, forms := f69, guard := .uniform, d := .k, a := repl e.form .k }
  | 0xB8 => some { fm := f1, forms := f69, guard := .uniform, d := .k, a := repl e.form .k,
                   immOk := !i96 || e.imm32 = 0 || (16 ≤ e.imm32.toNat && e.imm32.toNat ≤ 512) }
  | 0xB9 => some { fm := f ≤ 15 && f % 8 ≤ 4 && f ≠ 12 && m = 0, forms := [.w64], guard := .uniform, d := .k }
  | _ => none

/-- Whether index `i` names a register of R400, and whether that register is 64 bits wide. -/
def ctlWidth (i : Nat) : Option Bool :=
  if i = 0x000 || i = 0x001 then some false
  else if i ≤ 0x004 then some true
  else if i < 0x100 then none
  else if i ≤ 0x110 then
    some (i ≤ 0x105 || i = 0x107 || i = 0x109 || i = 0x10C)
  else if 0x200 ≤ i && i ≤ 0x203 then some true
  else none

/-- Opcodes 0xC0 to 0xD5 (R397, R425). -/
def shapeSystem (e : Enc) : Option Shape :=
  let f := e.pl.func.toNat
  let m := e.pl.mod.toNat
  let z := f = 0 && m = 0
  let i96 := e.form = .w96
  let f1 := f ≤ 1 && m = 0
  let ctl := e.form ≠ .w96 || (e.imm32.toNat ≤ 0xFFFF && ctlWidth e.imm32.toNat == some (f == 1))
  match e.pl.opc.toNat with
  | 0xC0 => some { fm := m = 0, forms := [.w64], guard := .uniform }
  | 0xC1 => some { fm := z, forms := [.w64], guard := .uniform }
  | 0xC2 => some { fm := f1, forms := [.w96], guard := .uniform, d := kOr (f = 1), immOk := ctl }
  | 0xC3 => some { fm := f1, forms := [.w96], guard := .uniform, a := kOr (f = 1), immOk := ctl }
  | 0xC4 => some { fm := f1, forms := [.w64], guard := .uniform, a := if f = 0 then .kp else .zero,
                   b := if f = 0 then .k else .zero }
  | 0xC5 | 0xC6 | 0xC8 => some { fm := z, forms := [.w64], guard := .uniform, d := .k, a := .k }
  | 0xC7 => some { fm := z, forms := f69, guard := .uniform, d := .k, a := repl e.form .k }
  | 0xC9 => some { fm := z, forms := f69, guard := .uniform, d := .k, a := .k, b := repl e.form .k }
  | 0xCA => some { fm := f ≤ 63 && m = 0, forms := [.w64], guard := .uniform, d := .k, a := .k, b := .k4s }
  | 0xD0 => some { fm := f1, forms := [.w64], guard := .uniform, d := kOr (f = 0) }
  | 0xD1 => some { fm := f ≤ 2 && m = 0, forms := [.w64], guard := .uniform, d := kOr (f = 0) }
  | 0xD2 => some { fm := z, forms := [.w128], guard := .uniform, d := .k, a := .kp, b := .kp, c := .kp,
                   immOk := e.immB.toNat ≤ 7 && 16 ≤ e.immA.toNat && e.immA.toNat ≤ 2 ^ 24 && e.immA.toNat % 16 = 0,
                   ext := { immA := true, immB := true, polov := true } }
  | 0xD3 => some { fm := z, forms := [.w64], guard := .uniform, a := .kp, b := .k }
  | 0xD4 => some { fm := f ≤ 3 && m = 0, forms := if f = 0 then f69 else [.w64], guard := .uniform,
                   d := if f = 0 || f = 3 then .k else .zero,
                   a := if f = 0 then repl e.form .k else if f = 1 then .kp else .zero,
                   immOk := !i96 || e.imm32.toNat ≤ 255 }
  | 0xD5 => some { fm := z, forms := f69, guard := .uniform, d := .k, a := repl e.form .k,
                   immOk := !i96 || e.imm32.toNat ≤ 63 }
  | _ => none

/-- The row of the encoding tables that covers a word; `none` for a reserved major opcode (R76). -/
def shape (e : Enc) : Option Shape :=
  let o := e.pl.opc.toNat
  if o < 0x20 then shapeControl e
  else if o < 0x40 then shapeInteger e
  else if o < 0x60 then shapeFloat e
  else if o < 0x80 then shapeMemory e
  else if o < 0x90 then shapeEngine e
  else if o < 0xC0 then shapeSync e
  else shapeSystem e

/-- Whether the 128-bit form of a major opcode is of kind E (R66). The rule fixes the kind by the operation; a reserved opcode
within the range has none, and is taken as kind E here, so that its non-zero bits [79:76] are cause 2 and not cause 3 (DEDUCED,
log 61). -/
def kindE (opc : Nat) : Bool :=
  (0x60 ≤ opc && opc < 0xB8) || opc = 0xD2

/-! ### Legality, R74 -/

/-- Cause 6 in a register field: an unused field or mode bit set, or a value out of range (R65). -/
def FK.range (x : FK) (n : Nat) (mode : Bool) : Bool :=
  match x with
  | .zero => n = 0 && !mode
  | .v | .vp | .vq | .k | .kp => true
  | .k4 => n % 4 = 0 && !mode
  | .k4s => n % 4 = 0 && n < 124
  | .k6 => n ≤ 120
  | .p | .q => n ≤ 7 && !mode
  | .m => n ≤ 15 && !mode
  | .tile => !mode
  | .idx mx => n ≤ mx && !mode
  | .vwin c => n + c ≤ 256 && !mode
  | .kwin c => n + c ≤ 128 && !mode

/-- Cause 8: an odd register where a 64-bit uniform operand stands (R35). -/
def FK.even (x : FK) (n : Nat) : Bool :=
  match x with
  | .kp | .k6 => n % 2 = 0
  | _ => true

/-- Cause 6 in the extension fields: one that the instruction does not read is non-zero (R67). -/
def extZero (u : ExtUse) (e : Enc) : Bool :=
  (u.immA || e.immA = 0) && (u.immB || e.immB = 0) && (u.scope || e.scope = 0) && (u.ord || e.ord = 0) &&
  (u.polov || e.polov = 0) && (u.resm || e.resm = 0)

/-- Whether the word carries extension fields. -/
def Enc.hasExt (e : Enc) : Bool := e.form = .w128 && kindE e.pl.opc.toNat

/-- The lowest illegal-instruction cause of 2 to 9 that an operation meets (R74). -/
def illegalCause (e : Enc) : Option Nat :=
  if e.pl.resv ≠ 0 || (e.hasExt && e.resvE ≠ 0) then some 2
  else match shape e with
  | none => some 3
  | some s =>
    if !s.fm then some 4
    else if !s.forms.contains e.form then some 5
    else if !(s.d.range e.pl.dst.toNat false && s.a.range e.pl.sa.toNat e.pl.wa &&
              s.b.range e.pl.sb.toNat e.pl.wb && s.c.range e.pl.sc.toNat e.pl.wc && s.immOk &&
              (!e.hasExt || extZero s.ext e)) then some 6
    else if s.guard = .fixed && !(e.pl.pred = 7 && !e.pl.pneg) then some 7
    else if !(s.d.even e.pl.dst.toNat && s.a.even e.pl.sa.toNat && s.b.even e.pl.sb.toNat &&
              s.c.even e.pl.sc.toNat) then some 8
    else if e.hasExt && (!s.ordOk || 5 < e.polov.toNat || 1 < e.resm.toNat) then some 9
    else none

/-! ### Codes of the operand names -/

def IntT.code : IntT → Nat
  | .i32 => 0 | .n32 => 1 | .i64 => 2 | .n64 => 3
def IntT.ofCode : Nat → IntT
  | 0 => .i32 | 1 => .n32 | 2 => .i64 | _ => .n64
def MulKind.code : MulKind → Nat
  | .lo => 0 | .hi => 1 | .wide => 2
def MulKind.ofCode : Nat → MulKind
  | 0 => .lo | 1 => .hi | _ => .wide
def Rel.code : Rel → Nat
  | .eq => 0 | .ne => 1 | .lt => 2 | .le => 3 | .gt => 4 | .ge => 5
def Rel.ofCode : Nat → Rel
  | 0 => .eq | 1 => .ne | 2 => .lt | 3 => .le | 4 => .gt | _ => .ge
def FRel.code : FRel → Nat
  | .eq => 0 | .ne => 1 | .lt => 2 | .le => 3 | .gt => 4 | .ge => 5 | .num => 6 | .nan => 7
def FRel.ofCode : Nat → FRel
  | 0 => .eq | 1 => .ne | 2 => .lt | 3 => .le | 4 => .gt | 5 => .ge | 6 => .num | _ => .nan
def Rm.code : Rm → Nat
  | .rne => 0 | .rtz => 1 | .rup => 2 | .rdn => 3
def Rm.ofCode : Nat → Rm
  | 0 => .rne | 1 => .rtz | 2 => .rup | _ => .rdn
def CvtT.code : CvtT → Nat
  | .i8 => 0 | .i16 => 1 | .i32 => 2 | .i64 => 3 | .n8 => 4 | .n16 => 5 | .n32 => 6 | .n64 => 7
def CvtT.ofCode : Nat → CvtT
  | 0 => .i8 | 1 => .i16 | 2 => .i32 | 3 => .i64 | 4 => .n8 | 5 => .n16 | 6 => .n32 | _ => .n64
def NFmt.code : NFmt → Nat
  | .f16 => 0 | .bf16 => 1 | .e4m3 => 2 | .e5m2 => 3 | .e2m1 => 4
def NFmt.ofCode : Nat → NFmt
  | 0 => .f16 | 1 => .bf16 | 2 => .e4m3 | 3 => .e5m2 | _ => .e2m1
def SxFmt.code : SxFmt → Nat
  | .sx2 => 0 | .sx4 => 1 | .sx7 => 2
def SxFmt.ofCode : Nat → SxFmt
  | 0 => .sx2 | 1 => .sx4 | _ => .sx7
def Special.code : Special → Nat
  | .lane => 0 | .depth => 1 | .cursor => 2 | .gang => 3 | .ngangs => 4 | .team => 5 | .nteams => 6
  | .hallmark => 7 | .role => 8 | .part => 9 | .core => 10 | .die => 11 | .dev => 12 | .group => 13
  | .tenant => 14 | .slot => 15 | .amask => 16 | .clk => 17 | .time => 18
def Special.ofCode : Nat → Special
  | 0 => .lane | 1 => .depth | 2 => .cursor | 3 => .gang | 4 => .ngangs | 5 => .team | 6 => .nteams
  | 7 => .hallmark | 8 => .role | 9 => .part | 10 => .core | 11 => .die | 12 => .dev | 13 => .group
  | 14 => .tenant | 15 => .slot | 16 => .amask | 17 => .clk | _ => .time
def ShflMode.code : ShflMode → Nat
  | .idx => 0 | .up => 1 | .down => 2 | .xor => 3
def ShflMode.ofCode : Nat → ShflMode
  | 0 => .idx | 1 => .up | 2 => .down | _ => .xor
def VoteKind.code : VoteKind → Nat
  | .any => 0 | .all => 1 | .ballot => 2
def VoteKind.ofCode : Nat → VoteKind
  | 0 => .any | 1 => .all | _ => .ballot
def RedOp.code : RedOp → Nat
  | .add => 0 | .minI => 1 | .maxI => 2 | .minN => 3 | .maxN => 4 | .and => 5 | .or => 6 | .xor => 7
  | .fadd => 8 | .fmin => 9 | .fmax => 10
def RedOp.ofCode : Nat → RedOp
  | 0 => .add | 1 => .minI | 2 => .maxI | 3 => .minN | 4 => .maxN | 5 => .and | 6 => .or | 7 => .xor
  | 8 => .fadd | 9 => .fmin | _ => .fmax
def MomqField.code : MomqField → Nat
  | .w => 0 | .mean => 1 | .m2 => 2 | .status => 3
def MomqField.ofCode : Nat → MomqField
  | 0 => .w | 1 => .mean | 2 => .m2 | _ => .status
def Scope.code : Scope → Nat
  | .dflt => 0 | .gang => 1 | .team => 2 | .die => 3 | .dev => 4 | .pod => 5 | .fab => 6 | .sys => 7
def Scope.ofCode : Nat → Scope
  | 0 => .dflt | 1 => .gang | 2 => .team | 3 => .die | 4 => .dev | 5 => .pod | 6 => .fab | _ => .sys
def Order.code : Order → Nat
  | .weak => 0 | .rlx => 1 | .acq => 2 | .rel => 3
def Order.ofCode : Nat → Order
  | 0 => .weak | 1 => .rlx | 2 => .acq | _ => .rel
def PolOv.code : PolOv → Nat
  | .none => 0 | .normal => 1 | .stream => 2 | .noalloc => 3 | .persist => 4 | .uncached => 5
def PolOv.ofCode : Nat → PolOv
  | 0 => .none | 1 => .normal | 2 => .stream | 3 => .noalloc | 4 => .persist | _ => .uncached
def MemT.code : MemT → Nat
  | .n8 => 0 | .i8 => 1 | .n16 => 2 | .i16 => 3 | .b32 => 4 | .b64 => 5 | .b128 => 6
def MemT.ofCode : Nat → MemT
  | 0 => .n8 | 1 => .i8 | 2 => .n16 | 3 => .i16 | 4 => .b32 | 5 => .b64 | _ => .b128
def AtomOp.code : AtomOp → Nat
  | .add => 0 | .and => 1 | .or => 2 | .xor => 3 | .min => 4 | .max => 5 | .exch => 6
def AtomOp.ofCode : Nat → AtomOp
  | 0 => .add | 1 => .and | 2 => .or | 3 => .xor | 4 => .min | 5 => .max | _ => .exch
def FaddT.code : FaddT → Nat
  | .f32 => 0 | .f16 => 1 | .bf16 => 2
def FaddT.ofCode : Nat → FaddT
  | 0 => .f32 | 1 => .f16 | _ => .bf16
def FenceOrd.code : FenceOrd → Nat
  | .ar => 0 | .acq => 1 | .rel => 2
def FenceOrd.ofCode : Nat → FenceOrd
  | 0 => .ar | 1 => .acq | _ => .rel
def CFmt.code : CFmt → Nat
  | .sx2 => 0 | .sx4 => 1 | .sx7 => 2 | .f32 => 3 | .f16 => 4 | .bf16 => 5 | .e4m3 => 6 | .e5m2 => 7
  | .e2m1 => 8 | .raw => 9
def CFmt.ofCode : Nat → CFmt
  | 0 => .sx2 | 1 => .sx4 | 2 => .sx7 | 3 => .f32 | 4 => .f16 | 5 => .bf16 | 6 => .e4m3 | 7 => .e5m2
  | 8 => .e2m1 | _ => .raw
def Planes.code : Planes → Nat
  | .p2 => 0 | .p4 => 1 | .p7 => 2
def Planes.ofCode : Nat → Planes
  | 0 => .p2 | 1 => .p4 | _ => .p7
def CpyQ.code : CpyQ → Nat
  | .busy => 0 | .flt => 1 | .addr => 2 | .info => 3 | .sbfree => 5
def CpyQ.ofCode : Nat → CpyQ
  | 0 => .busy | 1 => .flt | 2 => .addr | 3 => .info | _ => .sbfree
def CollQ.code : CollQ → Nat
  | .state => 0 | .step => 1 | .total => 2 | .fault => 3
def CollQ.ofCode : Nat → CollQ
  | 0 => .state | 1 => .step | 2 => .total | _ => .fault
def Lqry.code : Lqry → Nat
  | .state => 0 | .placed => 1 | .done => 2 | .status => 3
def Lqry.ofCode : Nat → Lqry
  | 0 => .state | 1 => .placed | 2 => .done | _ => .status
def FlxSel.code : FlxSel → Nat
  | .pref => 0 | .walks => 1 | .faults => 2 | .passes => 3 | .cfg => 4
def FlxSel.ofCode : Nat → FlxSel
  | 0 => .pref | 1 => .walks | 2 => .faults | 3 => .passes | _ => .cfg

/-! ### The encoder -/

/-- A register field with its mode bit. -/
abbrev Fld := BitVec 8 × Bool
/-- An unused field. -/
def f0 : Fld := (0, false)
/-- A source register with its mode bit (R45). -/
def Src.fld (s : Src) : Fld := (s.reg, s.trap)
/-- A field that holds a small number. -/
def numF {w : Nat} (n : BitVec w) : Fld := (n.setWidth 8, false)

/-- A payload from its fields (R63). -/
def mkPl (opc func mod : Nat) (g : Guard) (d : BitVec 8) (a b c : Fld) : Payload :=
  { resv := 0, mod := BitVec.ofNat 6 mod, func := BitVec.ofNat 7 func, wc := c.2, sc := c.1, wb := b.2,
    sb := b.1, wa := a.2, sa := a.1, dst := d, pneg := g.neg, pred := g.pred, opc := BitVec.ofNat 8 opc }

/-- The default guard of an operation of fixed guard class (R64). -/
def gFix : Guard := ⟨7, false⟩

/-- A 64-bit word. -/
def enc64 (opc func mod : Nat) (g : Guard) (d : BitVec 8) (a b c : Fld) : Enc :=
  ⟨.w64, mkPl opc func mod g d a b c, 0⟩
/-- A 96-bit word. -/
def enc96 (opc func mod : Nat) (g : Guard) (d : BitVec 8) (a b c : Fld) (imm : Word) : Enc :=
  ⟨.w96, mkPl opc func mod g d a b c, imm.setWidth 64⟩
/-- A 128-bit word. -/
def enc128 (opc func mod : Nat) (g : Guard) (d : BitVec 8) (a b c : Fld) (hi : BitVec 64) : Enc :=
  ⟨.w128, mkPl opc func mod g d a b c, hi⟩
/-- IMM32 replaces SA in the 96-bit form. -/
def encA (opc func mod : Nat) (g : Guard) (d : BitVec 8) (a : SrcI) (b c : Fld) : Enc :=
  match a with
  | .reg s => enc64 opc func mod g d s.fld b c
  | .imm w => enc96 opc func mod g d f0 b c w
/-- IMM32 replaces SB in the 96-bit form. -/
def encB (opc func mod : Nat) (g : Guard) (d : BitVec 8) (a : Fld) (b : SrcI) (c : Fld) : Enc :=
  match b with
  | .reg s => enc64 opc func mod g d a s.fld c
  | .imm w => enc96 opc func mod g d a f0 c w
/-- IMM32 replaces SC in the 96-bit form. -/
def encC (opc func mod : Nat) (g : Guard) (d : BitVec 8) (a b : Fld) (c : SrcI) : Enc :=
  match c with
  | .reg s => enc64 opc func mod g d a b s.fld
  | .imm w => enc96 opc func mod g d a b f0 w
/-- A word with an optional IMM32 offset that replaces no field. -/
def encO (opc func mod : Nat) (g : Guard) (d : BitVec 8) (a b c : Fld) (off : Option Word) : Enc :=
  match off with
  | none => enc64 opc func mod g d a b c
  | some w => enc96 opc func mod g d a b c w
/-- A memory operand in its form (R183); `resm` is the RESM code. -/
def encM (opc func : Nat) (g : Guard) (d : BitVec 8) (a b c : Fld) (off : MOff) (resm : BitVec 3) : Enc :=
  match off with
  | .none => enc64 opc func 0 g d a b c
  | .imm w => enc96 opc func 0 g d a b c w
  | .ext w sc o p => enc128 opc func 0 g d a b c
      (extHi w 0 resm (BitVec.ofNat 4 p.code) (BitVec.ofNat 2 o.code) (BitVec.ofNat 3 sc.code))

/-- Address mode code of R184. -/
def Base.mode : Base → Nat
  | .vpair _ => 0
  | .kpair _ => 1
  | .scr _ => 2
/-- The address register. -/
def Base.src : Base → Src
  | .vpair s => s
  | .kpair s => s
  | .scr s => s
/-- The address operand of a mode code. -/
def Base.ofMode : Nat → Src → Base
  | 0, s => .vpair s
  | 1, s => .kpair s
  | _, s => .scr s

/-- One bit of a function code. -/
def bt (b : Bool) (n : Nat) : Nat := if b then n else 0
/-- A predicate number in an 8-bit field. -/
def pf (p : PredNum) : BitVec 8 := p.setWidth 8

/-- A register, ORD = 3 (`.rel`) or weak, of a remote store's 128-bit form (R312). -/
def relHi (off : Word) (rel : Bool) : BitVec 64 := extHi off 0 0 0 (if rel then 3 else 0) 0

/-- The word of control, uniform and integer instructions (R140, R124). -/
def encodeScalar : Instr → Option Enc
  | .nop g form => some ⟨form, mkPl 0x00 0 0 g 0 f0 f0 f0, 0⟩
  | .bra g off => some (enc96 0x01 0 0 g 0 f0 f0 f0 off)
  | .brx g t => some (enc64 0x02 0 0 g 0 t.fld f0 f0)
  | .call g l off => some (enc96 0x03 0 0 g l f0 f0 f0 off)
  | .callx g l t => some (enc64 0x04 0 0 g l t.fld f0 f0)
  | .ret g l d => some (enc64 0x05 0 d.toNat g 0 l.fld f0 f0)
  | .ifThen inv p off => some (enc96 0x06 (bt inv 1) 0 gFix 0 (numF p) f0 f0 off)
  | .elseDo off => some (enc96 0x07 0 0 gFix 0 f0 f0 f0 off)
  | .endIf => some (enc64 0x08 0 0 gFix 0 f0 f0 f0)
  | .loop off => some (enc96 0x09 0 0 gFix 0 f0 f0 f0 off)
  | .brk g d => some (enc64 0x0A 0 d.toNat g 0 f0 f0 f0)
  | .cont g d => some (enc64 0x0B 0 d.toNat g 0 f0 f0 f0)
  | .endLoop off => some (enc96 0x0C 0 0 gFix 0 f0 f0 f0 off)
  | .exit g => some (enc64 0x0D 0 0 g 0 f0 f0 f0)
  | .trap g code => some (enc64 0x0E code.toNat 0 g 0 f0 f0 f0)
  | .bpt g => some (enc64 0x0F 0 0 g 0 f0 f0 f0)
  | .kmov g b64 d a => some (enc64 0x10 (bt b64 1) 0 g d a.fld f0 f0)
  | .kli g b64 d (.i32 w) => some (enc96 0x11 (bt b64 1) 0 g d f0 f0 f0 w)
  | .kli g b64 d (.i64 w) => some (enc128 0x11 (bt b64 1) 0 g d f0 f0 f0 w)
  | .kadd g b64 d a b => some (encB 0x12 (0 + bt b64 16) 0 g d a.fld b f0)
  | .ksub g b64 d a b => some (encB 0x12 (1 + bt b64 16) 0 g d a.fld b f0)
  | .kmul g b64 d a b => some (encB 0x12 (2 + bt b64 16) 0 g d a.fld b f0)
  | .kand g b64 d a b => some (encB 0x12 (3 + bt b64 16) 0 g d a.fld b f0)
  | .kor g b64 d a b => some (encB 0x12 (4 + bt b64 16) 0 g d a.fld b f0)
  | .kxor g b64 d a b => some (encB 0x12 (5 + bt b64 16) 0 g d a.fld b f0)
  | .kshl g b64 d a b => some (encB 0x12 (6 + bt b64 16) 0 g d a.fld b f0)
  | .kshr g b64 d a b => some (encB 0x12 (7 + bt b64 16) 0 g d a.fld b f0)
  | .ksra g b64 d a b => some (encB 0x12 (8 + bt b64 16) 0 g d a.fld b f0)
  | .kmin g b64 uns d a b => some (encB 0x12 (9 + bt b64 16 + bt uns 32) 0 g d a.fld b f0)
  | .kmax g b64 uns d a b => some (encB 0x12 (10 + bt b64 16 + bt uns 32) 0 g d a.fld b f0)
  | .kcmp g rel uns b64 q a b => some (encB 0x13 (rel.code + bt uns 8 + bt b64 16) 0 g (pf q) a.fld b f0)
  | .ksel g b64 d a b c => some (encB 0x14 (bt b64 1) 0 g d a.fld b (numF c))
  | .vtok g b64 d a => some (enc64 0x15 (bt b64 1) 0 g d a.fld f0 f0)
  | .kbc g b64 d a => some (enc64 0x16 (bt b64 1) 0 g d a.fld f0 f0)
  | .movs g uni d v => some (enc64 0x17 (bt uni 1) 0 g d (BitVec.ofNat 8 v.code, false) f0 f0)
  | .iadd g t sat d a b => some (encB 0x20 t.code (bt sat 1) g d a.fld b f0)
  | .isub g t sat d a b => some (encB 0x21 t.code (bt sat 1) g d a.fld b f0)
  | .imul g t k d a b => some (encB 0x22 (t.code + 4 * k.code) 0 g d a.fld b f0)
  | .imad g t wide d a b c => some (encB 0x23 (t.code + bt wide 8) 0 g d a.fld b c.fld)
  | .idiv g t d a b => some (encB 0x24 t.code 0 g d a.fld b f0)
  | .irem g t d a b => some (encB 0x25 t.code 0 g d a.fld b f0)
  | .imin g t d a b => some (encB 0x26 t.code 0 g d a.fld b f0)
  | .imax g t d a b => some (encB 0x26 (4 + t.code) 0 g d a.fld b f0)
  | .iabs g t sat d a => some (enc64 0x27 t.code (bt sat 1) g d a.fld f0 f0)
  | .ineg g t sat d a => some (enc64 0x27 (4 + t.code) (bt sat 1) g d a.fld f0 f0)
  | .isad g t d a b c => some (encB 0x28 t.code 0 g d a.fld b c.fld)
  | .icmp g rel t p a b => some (encB 0x29 (t.code + 4 * rel.code) 0 g (pf p) a.fld b f0)
  | .isel g b64 d a b c => some (encB 0x2A (bt b64 2) 0 g d a.fld b (numF c))
  | .and g b64 d a b => some (encB 0x2B (0 + bt b64 8) 0 g d a.fld b f0)
  | .or g b64 d a b => some (encB 0x2B (1 + bt b64 8) 0 g d a.fld b f0)
  | .xor g b64 d a b => some (encB 0x2B (2 + bt b64 8) 0 g d a.fld b f0)
  | .andn g b64 d a b => some (encB 0x2B (3 + bt b64 8) 0 g d a.fld b f0)
  | .orn g b64 d a b => some (encB 0x2B (4 + bt b64 8) 0 g d a.fld b f0)
  | .xnor g b64 d a b => some (encB 0x2B (5 + bt b64 8) 0 g d a.fld b f0)
  | .not g b64 d a => some (enc64 0x2B (6 + bt b64 8) 0 g d a.fld f0 f0)
  | .tern g d a b c table => some (enc96 0x2C 0 0 g d a.fld b.fld c.fld (table.setWidth 32))
  | .shl g b64 d a n => some (encB 0x2D (bt b64 2) 0 g d a.fld n f0)
  | .shr g b64 d a n => some (encB 0x2E (bt b64 2) 0 g d a.fld n f0)
  | .sra g b64 d a n => some (encB 0x2F (bt b64 2) 0 g d a.fld n f0)
  | .rot g right b64 d a n => some (encB 0x30 (bt right 1 + bt b64 2) 0 g d a.fld n f0)
  | .fshl g d a b n => some (encC 0x31 0 0 g d a.fld b.fld n)
  | .fshr g d a b n => some (encC 0x31 1 0 g d a.fld b.fld n)
  | .popc g b64 d a => some (enc64 0x32 (0 + bt b64 4) 0 g d a.fld f0 f0)
  | .clz g b64 d a => some (enc64 0x32 (1 + bt b64 4) 0 g d a.fld f0 f0)
  | .ctz g b64 d a => some (enc64 0x32 (2 + bt b64 4) 0 g d a.fld f0 f0)
  | .brev g b64 d a => some (enc64 0x32 (3 + bt b64 4) 0 g d a.fld f0 f0)
  | .bfx g uns d a ctl => some (encB 0x33 (bt uns 1) 0 g d a.fld ctl f0)
  | .bfi g d a ctl c => some (encB 0x34 0 0 g d a.fld ctl c.fld)
  | .bmsk g d ctl => some (encB 0x35 0 0 g d f0 ctl f0)
  | .permb g d a b sel => some (encC 0x36 0 0 g d a.fld b.fld sel)
  | .lea g uns uni s d base idx => some (encB 0x37 (bt uns 1 + bt uni 2) s.toNat g d base.fld idx f0)
  | .padd g x16 uns sat d a b => some (encB 0x38 (0 + bt x16 8 + bt uns 16) (bt sat 1) g d a.fld b f0)
  | .psub g x16 uns sat d a b => some (encB 0x38 (1 + bt x16 8 + bt uns 16) (bt sat 1) g d a.fld b f0)
  | .pmul g x16 uns sat d a b => some (encB 0x38 (2 + bt x16 8 + bt uns 16) (bt sat 1) g d a.fld b f0)
  | .pmin g x16 uns d a b => some (encB 0x38 (3 + bt x16 8 + bt uns 16) 0 g d a.fld b f0)
  | .pmax g x16 uns d a b => some (encB 0x38 (4 + bt x16 8 + bt uns 16) 0 g d a.fld b f0)
  | .pavg g x16 uns d a b => some (encB 0x38 (5 + bt x16 8 + bt uns 16) 0 g d a.fld b f0)
  | .pshl g x16 d a n => some (encB 0x39 (0 + bt x16 8) 0 g d a.fld n f0)
  | .pshr g x16 d a n => some (encB 0x39 (1 + bt x16 8) 0 g d a.fld n f0)
  | .psra g x16 d a n => some (encB 0x39 (2 + bt x16 8) 0 g d a.fld n f0)
  | .pcmp g rel x16 uns d a b => some (encB 0x3A (rel.code + bt x16 8 + bt uns 16) 0 g d a.fld b f0)
  | .drawc g a b => some (encB 0x3B 1 0 g 0 a.fld b f0)
  | .draw g d a w => some (encB 0x3B 0 0 g d a.fld w f0)
  | .mov g b64 d (.reg a) => some (enc64 0x3C (bt b64 1) 0 g d a.fld f0 f0)
  | .mov g b64 d (.i32 w) => some (enc96 0x3C (bt b64 1) 0 g d f0 f0 f0 w)
  | .mov g b64 d (.i64 w) => some (enc128 0x3C (bt b64 1) 0 g d f0 f0 f0 w)
  | _ => none

/-- The word of floating-point, cross-lane and moment instructions (R101, R163). -/
def encodeFloat : Instr → Option Enc
  | .fadd g rm d a b => some (encB 0x40 0 rm.code g d a.fld b f0)
  | .fsub g rm d a b => some (encB 0x41 0 rm.code g d a.fld b f0)
  | .fmul g rm d a b => some (encB 0x42 0 rm.code g d a.fld b f0)
  | .ffma g rm d a b c => some (encB 0x43 0 rm.code g d a.fld b c.fld)
  | .fdiv g rm d a b => some (encB 0x48 0 rm.code g d a.fld b f0)
  | .fmin g num d a b => some (encB 0x44 (0 + bt num 2) 0 g d a.fld b f0)
  | .fmax g num d a b => some (encB 0x44 (1 + bt num 2) 0 g d a.fld b f0)
  | .fcmp g rel u p a b => some (encB 0x45 (rel.code + bt u 8) 0 g (pf p) a.fld b f0)
  | .fclass g d a => some (enc64 0x46 0 0 g d a.fld f0 f0)
  | .frcp g rm d a => some (enc64 0x47 0 rm.code g d a.fld f0 f0)
  | .frsq g d a => some (enc64 0x47 1 0 g d a.fld f0 f0)
  | .fsqrt g rm d a => some (enc64 0x47 2 rm.code g d a.fld f0 f0)
  | .fexp2 g d a => some (enc64 0x47 3 0 g d a.fld f0 f0)
  | .flog2 g d a => some (enc64 0x47 4 0 g d a.fld f0 f0)
  | .fsin g d a => some (enc64 0x47 5 0 g d a.fld f0 f0)
  | .fcos g d a => some (enc64 0x47 6 0 g d a.fld f0 f0)
  | .ftanh g d a => some (enc64 0x47 7 0 g d a.fld f0 f0)
  | .xadd2 g bf rm d a b => some (encB 0x49 (bt bf 1) rm.code g d a.fld b f0)
  | .xmul2 g bf rm d a b => some (encB 0x4A (bt bf 1) rm.code g d a.fld b f0)
  | .xfma2 g bf rm d a b c => some (encB 0x4B (bt bf 1) rm.code g d a.fld b c.fld)
  | .cvtfi g t rm d a => some (enc64 0x4C t.code rm.code g d a.fld f0 f0)
  | .cvtif g t rm d a => some (enc64 0x4C (32 + t.code) rm.code g d a.fld f0 f0)
  | .cvtff g f rm sat d a b => some (enc64 0x4C (64 + f.code) (rm.code + bt sat 4) g d a.fld b.fld f0)
  | .cvtffWide g f idx d a => some (enc64 0x4C (72 + f.code) (8 * idx.toNat) g d a.fld f0 f0)
  | .cvtbk g f rm sat d a => some (enc64 0x4D f.code (rm.code + bt sat 4) g d a.fld f0 f0)
  | .cvtbkWide g f d a => some (enc64 0x4D (4 + f.code) 0 g d a.fld f0 f0)
  | .fscale g rm d a b => some (encB 0x4E 0 rm.code g d a.fld b f0)
  | .fround g rm d a => some (enc64 0x4F 0 rm.code g d a.fld f0 f0)
  | .ffrac g rm d a => some (enc64 0x4F 1 rm.code g d a.fld f0 f0)
  | .shfl g mode c d a b p => some (encB 0x50 mode.code c.toNat g d a.fld b (numF p))
  | .vote g k uni inv d p => some (enc64 0x51 (k.code + bt uni 4 + bt inv 8) 0 g d (numF p) f0 f0)
  | .lred g op uni d a => some (enc64 0x52 (op.code + bt uni 16) 0 g d a.fld f0 f0)
  | .lscan g op excl d a => some (enc64 0x53 (op.code + bt excl 16) 0 g d a.fld f0 f0)
  | .lmatch g all b64 d a => some (enc64 0x54 (bt all 1 + bt b64 2) 0 g d a.fld f0 f0)
  | .momz g d => some (enc64 0x58 0 0 g (d.setWidth 8) f0 f0 f0)
  | .momu g d a => some (enc64 0x59 0 0 g (d.setWidth 8) a.fld f0 f0)
  | .momw g d a b => some (encB 0x5A 0 0 g (d.setWidth 8) a.fld b f0)
  | .momm g d a b => some (enc64 0x5B 0 0 g (d.setWidth 8) (numF a) (numF b) f0)
  | .momd g .mean d m => some (enc64 0x5C 0 0 g d (numF m) f0 f0)
  | .momd g .var d m => some (enc64 0x5C 1 0 g d (numF m) f0 f0)
  | .momd g .svar d m => some (enc64 0x5C 2 0 g d (numF m) f0 f0)
  | .momd g .std d m => some (enc64 0x5C 3 0 g d (numF m) f0 f0)
  | .momd g (.rstd eps) d m => some (encB 0x5C 4 0 g d (numF m) eps f0)
  | .momn g d a m eps => some (encC 0x5D 0 0 g d a.fld (numF m) eps)
  | .momld g d base off => some (enc96 0x5E 0 0 g (d.setWidth 8) base.fld f0 f0 off)
  | .momst g base m off => some (enc96 0x5E 1 0 g 0 base.fld (numF m) f0 off)
  | .momq g f uni d m => some (enc64 0x5F (f.code + bt uni 4) 0 g d (numF m) f0 f0)
  | _ => none

/-- FUNC of ARED: op and type codes (R214). -/
def AredOp.func : AredOp → Nat
  | .int op t => op.code + 8 * t.code
  | .fadd t => 6 + 8 * t.code
/-- ARED's operation from its op and type codes. -/
def AredOp.ofFunc (f : Nat) : AredOp :=
  if f % 8 = 6 then .fadd (FaddT.ofCode (f / 8 % 4)) else .int (AtomOp.ofCode (f % 8)) (IntT.ofCode (f / 8 % 4))

/-- The word of memory, atomic, coherence, copy and matrix instructions (R183, R214, R272, R281, R293). -/
def encodeMemory : Instr → Option Enc
  | .ld g t d base off none => some (encM 0x60 (t.code + 16 * base.mode) g d base.src.fld f0 f0 off 0)
  | .ld g t d base off (some p) => some (encM 0x60 (t.code + 16 * base.mode) g d base.src.fld f0 (numF p) off 1)
  | .st g t base off b => some (encM 0x61 (t.code + 16 * base.mode) g 0 base.src.fld b.fld f0 off 0)
  | .ldk g t d base off => some (encM 0x62 t.code g d base.fld f0 f0 off 0)
  | .stk g t base off b => some (encM 0x63 t.code g 0 base.fld b.fld f0 off 0)
  | .pft g l1 base off => some (encM 0x64 (bt l1 1 + 16 * base.mode) g 0 base.src.fld f0 f0 off 0)
  | .pgreq g p base off => some (encO 0x65 (16 * base.mode) 0 g (pf p) base.src.fld f0 f0 off)
  | .xlat g pa d base off => some (encO 0x66 (bt pa 1 + 16 * base.mode) 0 g d base.src.fld f0 f0 off)
  | .cctlIinv g base len off => some (encO 0x67 0 0 g 0 base.fld len.fld f0 off)
  | .cctlL1wb g base len off => some (encO 0x67 1 0 g 0 base.fld len.fld f0 off)
  | .cctlL1inv g base len off => some (encO 0x67 2 0 g 0 base.fld len.fld f0 off)
  | .cctlL2evict g base len off => some (encO 0x67 3 0 g 0 base.fld len.fld f0 off)
  | .pin g d base len off => some (encO 0x68 0 0 g d base.fld len.fld f0 off)
  | .unpin g d base len off => some (encO 0x69 0 0 g d base.fld len.fld f0 off)
  | .atom g op t d base off b =>
      some (encM 0x70 (op.code + 8 * t.code + 32 * base.mode) g d base.src.fld b.fld f0 off 0)
  | .acas g b64 d base off b c => some (encM 0x71 (bt b64 8 + 32 * base.mode) g d base.src.fld b.fld c.fld off 0)
  | .afadd g t d base off b => some (encM 0x72 (8 * t.code + 32 * base.mode) g d base.src.fld b.fld f0 off 0)
  | .ared g op base off b => some (encM 0x73 (op.func + 32 * base.mode) g 0 base.src.fld b.fld f0 off 0)
  | .fence g o s => some (enc64 0x74 0 (s.code + 8 * o.code) g 0 f0 f0 f0)
  | .xfence g => some (enc64 0x75 0 0 g 0 f0 f0 f0)
  | .waitln g rel uns b64 p base b off tmo s o =>
      some (enc128 0x76 (rel.code + bt uns 8 + bt b64 16 + 32 * base.mode) 0 g (pf p) base.src.fld b.fld f0
        (extHi off tmo 0 0 (BitVec.ofNat 2 o.code) (BitVec.ofNat 3 s.code)))
  | .cwb g inv base off => some (encO 0x78 (bt inv 1 + 16 * base.mode) 0 g 0 base.src.fld f0 f0 off)
  | .cpub g base off => some (encO 0x79 (16 * base.mode) 0 g 0 base.src.fld f0 f0 off)
  | .tkq g d base off => some (encO 0x7A (16 * base.mode) 0 g d base.src.fld f0 f0 off)
  | .bias g host d base n off => some (encO 0x7B (bt host 1) 0 g d base.fld n.fld f0 off)
  | .cpy g f p tr rm sat grp src dst geo off pol =>
      some (enc128 0x80 (f.code + 16 * p.code + bt tr 64) (rm.code + bt sat 4) g 0 src.fld dst.fld geo.fld
        (extHi off (grp.setWidth 16) 0 (BitVec.ofNat 4 pol.code) 0 0))
  | .cpyg g f rm sat grp src dst geo pol =>
      some (enc128 0x81 f.code (rm.code + bt sat 4) g 0 src.fld dst.fld geo.fld
        (extHi 0 (grp.setWidth 16) 0 (BitVec.ofNat 4 pol.code) 0 0))
  | .cpys g f rm sat grp src dst geo off pol =>
      some (enc128 0x82 f.code (rm.code + bt sat 4) g 0 src.fld dst.fld geo.fld
        (extHi off (grp.setWidth 16) 0 (BitVec.ofNat 4 pol.code) 0 0))
  | .cpyw g q d mask => some (encA 0x83 (bt q 1) 0 g d mask f0 f0)
  | .cpyq g op d a => some (encA 0x84 op.code 0 g d a f0 f0)
  | .cpyqClr g d a => some (encA 0x84 4 0 g d a f0 f0)
  | .mma g p a pa pb none => some (enc64 0x88 p.code 0 g a pa.fld pb.fld f0)
  | .mma g p a pa pb (some sp) => some (enc64 0x88 (p.code + 4) 0 g a pa.fld pb.fld sp.fld)
  | .mloop g p a pa pb none q1 ia ib cnt =>
      some (enc128 0x89 p.code q1.toNat g a pa.fld pb.fld f0 (extHi (ib ++ ia) cnt 0 0 0 0))
  | .mloop g p a pa pb (some sp) q1 ia ib cnt =>
      some (enc128 0x89 (p.code + 4) q1.toNat g a pa.fld pb.fld sp.fld (extHi (ib ++ ia) cnt 0 0 0 0))
  | .acz g a cnt1 => some (enc64 0x8A cnt1.toNat 0 g a f0 f0 f0)
  | .acld g a src off pitch => some (enc128 0x8C 0 0 g a src.fld f0 f0 (extHi off pitch 0 0 0 0))
  | .acdr g a v mom norm z fresh nodata off pitch =>
      some (enc128 0x8B (bt mom.isSome 1 + bt norm.isSome 2 + bt z 4 + bt fresh 8 + bt nodata 16) 0 g a v.fld
        (match mom with | some s => s.fld | none => f0) (match norm with | some s => s.fld | none => f0)
        (extHi off pitch 0 0 0 0))
  | .mwait g d n => some (encA 0x8D 0 0 g d n f0 f0)
  | _ => none

/-- The word of synchronisation, collective, launch, flux, system and fabric instructions (R312, R329, R348,
R385, R397, R425). -/
def encodeSystem : Instr → Option Enc
  | .bar g => some (enc64 0x90 0 0 g 0 f0 f0 f0)
  | .cbar g c => some (encA 0x91 0 0 g 0 c f0 f0)
  | .arv g d none => some (enc64 0x92 0 0 g d f0 f0 f0)
  | .arv g d (some c) => some (encA 0x92 1 0 g d c f0 f0)
  | .awt g tok none => some (enc64 0x93 0 0 g 0 tok.fld f0 f0)
  | .awt g tok (some c) => some (encB 0x93 1 0 g 0 tok.fld c f0)
  | .sput g sel => some (encA 0x94 0 0 g 0 sel f0 f0)
  | .sget g sel => some (encA 0x95 0 0 g 0 sel f0 f0)
  | .swait g free sel => some (encA 0x96 (bt free 1) 0 g 0 sel f0 f0)
  | .marke g k r cnt1 none => some (enc64 0x97 (bt k 1) cnt1.toNat g r f0 f0 f0)
  | .marke g k r cnt1 (some s) => some (enc64 0x97 (bt k 1 + 2) cnt1.toNat g r s.fld f0 f0)
  | .markf g k r cnt1 none => some (enc64 0x98 (bt k 1) cnt1.toNat g r f0 f0 f0)
  | .markf g k r cnt1 (some s) => some (enc64 0x98 (bt k 1 + 2) cnt1.toNat g r s.fld f0 f0)
  | .feq g k d r cnt1 => some (enc64 0x99 (bt k 1) cnt1.toNat g d (r, false) f0 f0)
  | .rstv g drop sel off none => some (enc64 0xA0 (bt drop 1) 0 g 0 sel.fld off.fld f0)
  | .rstv g drop sel off (some (w, rel)) => some (enc128 0xA0 (bt drop 1) 0 g 0 sel.fld off.fld f0 (relHi w rel))
  | .rstk g drop b64 sel data none => some (enc64 0xA1 (bt drop 1 + bt b64 2) 0 g 0 sel.fld data.fld f0)
  | .rstk g drop b64 sel data (some rel) =>
      some (enc128 0xA1 (bt drop 1 + bt b64 2) 0 g 0 sel.fld data.fld f0 (relHi 0 rel))
  | .rsig g drop k sel none => some (enc64 0xA2 (bt drop 1 + bt k 2) 0 g 0 sel.fld f0 f0)
  | .rsig g drop k sel (some rel) => some (enc128 0xA2 (bt drop 1 + bt k 2) 0 g 0 sel.fld f0 f0 (relHi 0 rel))
  | .chq g ent d ch => some (encA 0xA3 (bt ent 1) 0 g d ch f0 f0)
  | .chqClr g d ch => some (encA 0xA3 2 0 g d ch f0 f0)
  | .chgive g entry perm d hall desc => some (enc64 0xA4 entry.toNat perm.toNat g d hall.fld desc.fld f0)
  | .chgiveRev g entry d hall => some (enc64 0xA4 (entry.toNat + 64) 0 g d hall.fld f0 f0)
  | .hmqTeam g d a => some (encA 0xA5 0 0 g d a f0 f0)
  | .hmqLive g d a => some (encA 0xA5 1 0 g d a f0 f0)
  | .coll g d ptr off => some (encO 0xA8 0 0 g d ptr.fld f0 f0 off)
  | .collw g q d slot => some (encA 0xA9 (bt q 1) 0 g d slot f0 f0)
  | .collq g op d slot => some (encA 0xAA op.code 0 g d slot f0 f0)
  | .rcpy g grp src dst geo off pol =>
      some (enc128 0xAB 0 0 g 0 src.fld dst.fld geo.fld (extHi off (grp.setWidth 16) 0 (BitVec.ofNat 4 pol.code) 0 0))
  | .rcpyw g q info d mask => some (encA 0xAC (bt q 1 + bt info 2) 0 g d mask f0 f0)
  | .launch g d ptr none => some (enc64 0xB0 0 0 g d ptr.fld f0 f0)
  | .launch g d ptr (some off) => some (enc128 0xB0 0 0 g d ptr.fld f0 f0 (extHi off 0 0 0 0 0))
  | .lwait g q d h => some (enc64 0xB1 (bt q 1) 0 g d h.fld f0 f0)
  | .lqry g op d h => some (enc64 0xB2 op.code 0 g d h.fld f0 f0)
  | .yield g => some (enc64 0xB3 0 0 g 0 f0 f0 f0)
  | .sleep g n => some (encA 0xB4 0 0 g 0 n f0 f0)
  | .rgn g => some (enc64 0xB5 0 0 g 0 f0 f0 f0)
  | .rgnx g => some (enc64 0xB6 0 0 g 0 f0 f0 f0)
  | .tmig g d n => some (encA 0xB7 0 0 g d n f0 f0)
  | .flxcfg g team d n => some (encA 0xB8 (bt team 1) 0 g d n f0 f0)
  | .flxq g sel clr d => some (enc64 0xB9 (sel.code + bt clr 8) 0 g d f0 f0 f0)
  | .sysc g code => some (enc64 0xC0 code.toNat 0 g 0 f0 f0 f0)
  | .rte g => some (enc64 0xC1 0 0 g 0 f0 f0 f0)
  | .mfs g b64 d idx => some (enc96 0xC2 (bt b64 1) 0 g d f0 f0 f0 (idx.setWidth 32))
  | .mts g b64 a idx => some (enc96 0xC3 (bt b64 1) 0 g 0 a.fld f0 f0 (idx.setWidth 32))
  | .pwstatReopen g a => some (enc96 0xC3 0 0 g 0 a.fld f0 f0 0x106)
  | .elhdWrite g a => some (enc96 0xC3 0 0 g 0 a.fld f0 f0 0x10D)
  | .tlbiRange g va n => some (enc64 0xC4 0 0 g 0 va.fld n.fld f0)
  | .tlbiAll g => some (enc64 0xC4 1 0 g 0 f0 f0 f0)
  | .ctxsv g d h => some (enc64 0xC5 0 0 g d h.fld f0 f0)
  | .ctxld g d h => some (enc64 0xC6 0 0 g d h.fld f0 f0)
  | .intr g d v => some (encA 0xC7 0 0 g d v f0 f0)
  | .halt g d h => some (enc64 0xC8 0 0 g d h.fld f0 f0)
  | .prio g d h p => some (encB 0xC9 0 0 g d h.fld p f0)
  | .chset g entry d h img => some (enc64 0xCA entry.toNat 0 g d h.fld img.fld f0)
  | .timeNow g d => some (enc64 0xD0 0 0 g d f0 f0 f0)
  | .timeSkew g d => some (enc64 0xD0 1 0 g d f0 f0 f0)
  | .cycClk g d => some (enc64 0xD1 0 0 g d f0 f0 f0)
  | .cycFreq g d => some (enc64 0xD1 1 0 g d f0 f0 f0)
  | .cycSteps g d => some (enc64 0xD1 2 0 g d f0 f0 f0)
  | .tsnd g d grp src dst t len pol =>
      some (enc128 0xD2 0 0 g d src.fld dst.fld t.fld (extHi len (grp.setWidth 16) 0 (BitVec.ofNat 4 pol.code) 0 0))
  | .slotw g ptr slot => some (enc64 0xD3 0 0 g 0 ptr.fld slot.fld f0)
  | .linkcSt g d n => some (encA 0xD4 0 0 g d n f0 f0)
  | .linkcOn g t => some (enc64 0xD4 1 0 g 0 t.fld f0 f0)
  | .linkcOff g => some (enc64 0xD4 2 0 g 0 f0 f0 f0)
  | .linkcCst g d => some (enc64 0xD4 3 0 g d f0 f0 f0)
  | .cnq g d i => some (encA 0xD5 0 0 g d i f0 f0)
  | _ => none

/-- The word of an instruction; `none` for a step that is an event and has no word. -/
def encode (i : Instr) : Option Enc :=
  (encodeScalar i).or ((encodeFloat i).or ((encodeMemory i).or (encodeSystem i)))

/-! ### Building the instruction of a legal word -/

def Enc.g (e : Enc) : Guard := ⟨e.pl.pred, e.pl.pneg⟩
def Enc.f (e : Enc) : Nat := e.pl.func.toNat
def Enc.m (e : Enc) : Nat := e.pl.mod.toNat
def Enc.srcA (e : Enc) : Src := ⟨e.pl.sa, e.pl.wa⟩
def Enc.srcB (e : Enc) : Src := ⟨e.pl.sb, e.pl.wb⟩
def Enc.srcC (e : Enc) : Src := ⟨e.pl.sc, e.pl.wc⟩
/-- The source that IMM32 replaces in the 96-bit form. -/
def Enc.orImm (e : Enc) (s : Src) : SrcI := if e.form = .w96 then .imm e.imm32 else .reg s
def Enc.ia (e : Enc) : SrcI := e.orImm e.srcA
def Enc.ib (e : Enc) : SrcI := e.orImm e.srcB
def Enc.ic (e : Enc) : SrcI := e.orImm e.srcC
def Enc.pd (e : Enc) : PredNum := e.pl.dst.setWidth 3
def Enc.pa (e : Enc) : PredNum := e.pl.sa.setWidth 3
def Enc.pc (e : Enc) : PredNum := e.pl.sc.setWidth 3
def Enc.md (e : Enc) : MomNum := e.pl.dst.setWidth 4
def Enc.ma (e : Enc) : MomNum := e.pl.sa.setWidth 4
def Enc.mb (e : Enc) : MomNum := e.pl.sb.setWidth 4
/-- Bit `n` of FUNC. -/
def Enc.fb (e : Enc) (n : Nat) : Bool := e.pl.func.getLsbD n
/-- The optional IMM32 offset. -/
def Enc.oOff (e : Enc) : Option Word := if e.form = .w96 then some e.imm32 else none
/-- The offset part of a memory operand. -/
def Enc.mOff (e : Enc) : MOff :=
  match e.form with
  | .w64 => .none
  | .w96 => .imm e.imm32
  | .w128 => .ext e.immA (Scope.ofCode e.scope.toNat) (Order.ofCode e.ord.toNat) (PolOv.ofCode e.polov.toNat)

/-- Opcodes 0x00 to 0x17. -/
def buildControl (e : Enc) : Option Instr :=
  let g := e.g
  let d := e.pl.dst
  match e.pl.opc.toNat with
  | 0x00 => some (.nop g e.form)
  | 0x01 => some (.bra g e.imm32)
  | 0x02 => some (.brx g e.srcA)
  | 0x03 => some (.call g d e.imm32)
  | 0x04 => some (.callx g d e.srcA)
  | 0x05 => some (.ret g e.srcA e.pl.mod)
  | 0x06 => some (.ifThen (e.fb 0) e.pa e.imm32)
  | 0x07 => some (.elseDo e.imm32)
  | 0x08 => some .endIf
  | 0x09 => some (.loop e.imm32)
  | 0x0A => some (.brk g e.pl.mod)
  | 0x0B => some (.cont g e.pl.mod)
  | 0x0C => some (.endLoop e.imm32)
  | 0x0D => some (.exit g)
  | 0x0E => some (.trap g e.pl.func)
  | 0x0F => some (.bpt g)
  | 0x10 => some (.kmov g (e.fb 0) d e.srcA)
  | 0x11 => some (.kli g (e.fb 0) d (if e.form = .w96 then .i32 e.imm32 else .i64 e.hi))
  | 0x12 =>
    let b := e.fb 4
    match e.f % 16 with
    | 0 => some (.kadd g b d e.srcA e.ib)
    | 1 => some (.ksub g b d e.srcA e.ib)
    | 2 => some (.kmul g b d e.srcA e.ib)
    | 3 => some (.kand g b d e.srcA e.ib)
    | 4 => some (.kor g b d e.srcA e.ib)
    | 5 => some (.kxor g b d e.srcA e.ib)
    | 6 => some (.kshl g b d e.srcA e.ib)
    | 7 => some (.kshr g b d e.srcA e.ib)
    | 8 => some (.ksra g b d e.srcA e.ib)
    | 9 => some (.kmin g b (e.fb 5) d e.srcA e.ib)
    | _ => some (.kmax g b (e.fb 5) d e.srcA e.ib)
  | 0x13 => some (.kcmp g (Rel.ofCode (e.f % 8)) (e.fb 3) (e.fb 4) e.pd e.srcA e.ib)
  | 0x14 => some (.ksel g (e.fb 0) d e.srcA e.ib e.pc)
  | 0x15 => some (.vtok g (e.fb 0) d e.srcA)
  | 0x16 => some (.kbc g (e.fb 0) d e.srcA)
  | 0x17 => some (.movs g (e.fb 0) d (Special.ofCode e.pl.sa.toNat))
  | _ => none

/-- Opcodes 0x20 to 0x3C. -/
def buildInteger (e : Enc) : Option Instr :=
  let g := e.g
  let d := e.pl.dst
  let t := IntT.ofCode (e.f % 4)
  let sat := e.pl.mod.getLsbD 0
  match e.pl.opc.toNat with
  | 0x20 => some (.iadd g t sat d e.srcA e.ib)
  | 0x21 => some (.isub g t sat d e.srcA e.ib)
  | 0x22 => some (.imul g t (MulKind.ofCode (e.f / 4)) d e.srcA e.ib)
  | 0x23 => some (.imad g t (e.fb 3) d e.srcA e.ib e.srcC)
  | 0x24 => some (.idiv g t d e.srcA e.ib)
  | 0x25 => some (.irem g t d e.srcA e.ib)
  | 0x26 => if e.fb 2 then some (.imax g t d e.srcA e.ib) else some (.imin g t d e.srcA e.ib)
  | 0x27 => if e.fb 2 then some (.ineg g t sat d e.srcA) else some (.iabs g t sat d e.srcA)
  | 0x28 => some (.isad g t d e.srcA e.ib e.srcC)
  | 0x29 => some (.icmp g (Rel.ofCode (e.f / 4)) t e.pd e.srcA e.ib)
  | 0x2A => some (.isel g (e.fb 1) d e.srcA e.ib e.pc)
  | 0x2B =>
    let b := e.fb 3
    match e.f % 8 with
    | 0 => some (.and g b d e.srcA e.ib)
    | 1 => some (.or g b d e.srcA e.ib)
    | 2 => some (.xor g b d e.srcA e.ib)
    | 3 => some (.andn g b d e.srcA e.ib)
    | 4 => some (.orn g b d e.srcA e.ib)
    | 5 => some (.xnor g b d e.srcA e.ib)
    | _ => some (.not g b d e.srcA)
  | 0x2C => some (.tern g d e.srcA e.srcB e.srcC (e.imm32.extractLsb' 0 8))
  | 0x2D => some (.shl g (e.fb 1) d e.srcA e.ib)
  | 0x2E => some (.shr g (e.fb 1) d e.srcA e.ib)
  | 0x2F => some (.sra g (e.fb 1) d e.srcA e.ib)
  | 0x30 => some (.rot g (e.fb 0) (e.fb 1) d e.srcA e.ib)
  | 0x31 => if e.fb 0 then some (.fshr g d e.srcA e.srcB e.ic) else some (.fshl g d e.srcA e.srcB e.ic)
  | 0x32 =>
    let b := e.fb 2
    match e.f % 4 with
    | 0 => some (.popc g b d e.srcA)
    | 1 => some (.clz g b d e.srcA)
    | 2 => some (.ctz g b d e.srcA)
    | _ => some (.brev g b d e.srcA)
  | 0x33 => some (.bfx g (e.fb 0) d e.srcA e.ib)
  | 0x34 => some (.bfi g d e.srcA e.ib e.srcC)
  | 0x35 => some (.bmsk g d e.ib)
  | 0x36 => some (.permb g d e.srcA e.srcB e.ic)
  | 0x37 => some (.lea g (e.fb 0) (e.fb 1) (e.pl.mod.extractLsb' 0 3) d e.srcA e.ib)
  | 0x38 =>
    let x := e.fb 3
    let u := e.fb 4
    match e.f % 8 with
    | 0 => some (.padd g x u sat d e.srcA e.ib)
    | 1 => some (.psub g x u sat d e.srcA e.ib)
    | 2 => some (.pmul g x u sat d e.srcA e.ib)
    | 3 => some (.pmin g x u d e.srcA e.ib)
    | 4 => some (.pmax g x u d e.srcA e.ib)
    | _ => some (.pavg g x u d e.srcA e.ib)
  | 0x39 =>
    let x := e.fb 3
    match e.f % 4 with
    | 0 => some (.pshl g x d e.srcA e.ib)
    | 1 => some (.pshr g x d e.srcA e.ib)
    | _ => some (.psra g x d e.srcA e.ib)
  | 0x3A => some (.pcmp g (Rel.ofCode (e.f % 8)) (e.fb 3) (e.fb 4) d e.srcA e.ib)
  | 0x3B => if e.fb 0 then some (.drawc g e.srcA e.ib) else some (.draw g d e.srcA e.ib)
  | 0x3C => some (.mov g (e.fb 0) d
      (match e.form with | .w64 => .reg e.srcA | .w96 => .i32 e.imm32 | .w128 => .i64 e.hi))
  | _ => none

/-- Opcodes 0x40 to 0x5F. -/
def buildFloat (e : Enc) : Option Instr :=
  let g := e.g
  let d := e.pl.dst
  let rm := Rm.ofCode (e.m % 4)
  match e.pl.opc.toNat with
  | 0x40 => some (.fadd g rm d e.srcA e.ib)
  | 0x41 => some (.fsub g rm d e.srcA e.ib)
  | 0x42 => some (.fmul g rm d e.srcA e.ib)
  | 0x43 => some (.ffma g rm d e.srcA e.ib e.srcC)
  | 0x44 => if e.fb 0 then some (.fmax g (e.fb 1) d e.srcA e.ib) else some (.fmin g (e.fb 1) d e.srcA e.ib)
  | 0x45 => some (.fcmp g (FRel.ofCode (e.f % 8)) (e.fb 3) e.pd e.srcA e.ib)
  | 0x46 => some (.fclass g d e.srcA)
  | 0x47 =>
    match e.f with
    | 0 => some (.frcp g rm d e.srcA)
    | 1 => some (.frsq g d e.srcA)
    | 2 => some (.fsqrt g rm d e.srcA)
    | 3 => some (.fexp2 g d e.srcA)
    | 4 => some (.flog2 g d e.srcA)
    | 5 => some (.fsin g d e.srcA)
    | 6 => some (.fcos g d e.srcA)
    | _ => some (.ftanh g d e.srcA)
  | 0x48 => some (.fdiv g rm d e.srcA e.ib)
  | 0x49 => some (.xadd2 g (e.fb 0) rm d e.srcA e.ib)
  | 0x4A => some (.xmul2 g (e.fb 0) rm d e.srcA e.ib)
  | 0x4B => some (.xfma2 g (e.fb 0) rm d e.srcA e.ib e.srcC)
  | 0x4C =>
    match e.f / 32 with
    | 0 => some (.cvtfi g (CvtT.ofCode (e.f % 8)) rm d e.srcA)
    | 1 => some (.cvtif g (CvtT.ofCode (e.f % 8)) rm d e.srcA)
    | _ =>
      if e.fb 3 then some (.cvtffWide g (NFmt.ofCode (e.f % 8)) (e.pl.mod.extractLsb' 3 3) d e.srcA)
      else some (.cvtff g (NFmt.ofCode (e.f % 8)) rm (e.pl.mod.getLsbD 2) d e.srcA e.srcB)
  | 0x4D =>
    if e.fb 2 then some (.cvtbkWide g (SxFmt.ofCode (e.f % 4)) d e.srcA)
    else some (.cvtbk g (SxFmt.ofCode (e.f % 4)) rm (e.pl.mod.getLsbD 2) d e.srcA)
  | 0x4E => some (.fscale g rm d e.srcA e.ib)
  | 0x4F => if e.fb 0 then some (.ffrac g rm d e.srcA) else some (.fround g rm d e.srcA)
  | 0x50 => some (.shfl g (ShflMode.ofCode (e.f % 4)) (e.pl.mod.extractLsb' 0 3) d e.srcA e.ib e.pc)
  | 0x51 => some (.vote g (VoteKind.ofCode (e.f % 4)) (e.fb 2) (e.fb 3) d e.pa)
  | 0x52 => some (.lred g (RedOp.ofCode (e.f % 16)) (e.fb 4) d e.srcA)
  | 0x53 => some (.lscan g (RedOp.ofCode (e.f % 16)) (e.fb 4) d e.srcA)
  | 0x54 => some (.lmatch g (e.fb 0) (e.fb 1) d e.srcA)
  | 0x58 => some (.momz g e.md)
  | 0x59 => some (.momu g e.md e.srcA)
  | 0x5A => some (.momw g e.md e.srcA e.ib)
  | 0x5B => some (.momm g e.md e.ma e.mb)
  | 0x5C =>
    let k : MomdKind := match e.f with
      | 0 => .mean
      | 1 => .var
      | 2 => .svar
      | 3 => .std
      | _ => .rstd e.ib
    some (.momd g k d e.ma)
  | 0x5D => some (.momn g d e.srcA e.mb e.ic)
  | 0x5E => if e.fb 0 then some (.momst g e.srcA e.mb e.imm32) else some (.momld g e.md e.srcA e.imm32)
  | 0x5F => some (.momq g (MomqField.ofCode (e.f % 4)) (e.fb 2) d e.ma)
  | _ => none

/-- Opcodes 0x60 to 0x8D. -/
def buildMemory (e : Enc) : Option Instr :=
  let g := e.g
  let d := e.pl.dst
  let base := Base.ofMode (e.f / 16) e.srcA
  let abase := Base.ofMode (e.f / 32) e.srcA
  let rm := Rm.ofCode (e.m % 4)
  let sat := e.pl.mod.getLsbD 2
  let pol := PolOv.ofCode e.polov.toNat
  let sp := if e.fb 2 then some e.srcC else none
  match e.pl.opc.toNat with
  | 0x60 => some (.ld g (MemT.ofCode (e.f % 16)) d base e.mOff
      (if e.form = .w128 && e.resm = 1 then some e.pc else none))
  | 0x61 => some (.st g (MemT.ofCode (e.f % 16)) base e.mOff e.srcB)
  | 0x62 => some (.ldk g (MemT.ofCode e.f) d e.srcA e.mOff)
  | 0x63 => some (.stk g (MemT.ofCode e.f) e.srcA e.mOff e.srcB)
  | 0x64 => some (.pft g (e.fb 0) base e.mOff)
  | 0x65 => some (.pgreq g e.pd base e.oOff)
  | 0x66 => some (.xlat g (e.fb 0) d base e.oOff)
  | 0x67 =>
    match e.f with
    | 0 => some (.cctlIinv g e.srcA e.srcB e.oOff)
    | 1 => some (.cctlL1wb g e.srcA e.srcB e.oOff)
    | 2 => some (.cctlL1inv g e.srcA e.srcB e.oOff)
    | _ => some (.cctlL2evict g e.srcA e.srcB e.oOff)
  | 0x68 => some (.pin g d e.srcA e.srcB e.oOff)
  | 0x69 => some (.unpin g d e.srcA e.srcB e.oOff)
  | 0x70 => some (.atom g (AtomOp.ofCode (e.f % 8)) (IntT.ofCode (e.f / 8 % 4)) d abase e.mOff e.srcB)
  | 0x71 => some (.acas g (e.fb 3) d abase e.mOff e.srcB e.srcC)
  | 0x72 => some (.afadd g (FaddT.ofCode (e.f / 8 % 4)) d abase e.mOff e.srcB)
  | 0x73 => some (.ared g (AredOp.ofFunc (e.f % 32)) abase e.mOff e.srcB)
  | 0x74 => some (.fence g (FenceOrd.ofCode (e.m / 8)) (Scope.ofCode (e.m % 8)))
  | 0x75 => some (.xfence g)
  | 0x76 => some (.waitln g (Rel.ofCode (e.f % 8)) (e.fb 3) (e.fb 4) e.pd abase e.srcB e.immA e.immB
      (Scope.ofCode e.scope.toNat) (Order.ofCode e.ord.toNat))
  | 0x78 => some (.cwb g (e.fb 0) base e.oOff)
  | 0x79 => some (.cpub g base e.oOff)
  | 0x7A => some (.tkq g d base e.oOff)
  | 0x7B => some (.bias g (e.fb 0) d e.srcA e.srcB e.oOff)
  | 0x80 => some (.cpy g (CFmt.ofCode (e.f % 16)) (Planes.ofCode (e.f / 16 % 4)) (e.fb 6) rm sat
      (e.immB.setWidth 4) e.srcA e.srcB e.srcC e.immA pol)
  | 0x81 => some (.cpyg g (CFmt.ofCode e.f) rm sat (e.immB.setWidth 4) e.srcA e.srcB e.srcC pol)
  | 0x82 => some (.cpys g (CFmt.ofCode e.f) rm sat (e.immB.setWidth 4) e.srcA e.srcB e.srcC e.immA pol)
  | 0x83 => some (.cpyw g (e.fb 0) d e.ia)
  | 0x84 => if e.f = 4 then some (.cpyqClr g d e.ia) else some (.cpyq g (CpyQ.ofCode e.f) d e.ia)
  | 0x88 => some (.mma g (Planes.ofCode (e.f % 4)) d e.srcA e.srcB sp)
  | 0x89 => some (.mloop g (Planes.ofCode (e.f % 4)) d e.srcA e.srcB sp e.pl.mod
      (e.immA.extractLsb' 0 16) (e.immA.extractLsb' 16 16) e.immB)
  | 0x8A => some (.acz g d (e.pl.func.setWidth 6))
  | 0x8B => some (.acdr g d e.srcA (if e.fb 0 then some e.srcB else none) (if e.fb 1 then some e.srcC else none)
      (e.fb 2) (e.fb 3) (e.fb 4) e.immA e.immB)
  | 0x8C => some (.acld g d e.srcA e.immA e.immB)
  | 0x8D => some (.mwait g d e.ia)
  | _ => none

/-- Opcodes 0x90 to 0xD5. -/
def buildSystem (e : Enc) : Option Instr :=
  let g := e.g
  let d := e.pl.dst
  let pol := PolOv.ofCode e.polov.toNat
  let grp : BitVec 3 := e.immB.setWidth 3
  let rel := e.ord = 3
  let og := if e.fb 1 then some e.srcA else none
  match e.pl.opc.toNat with
  | 0x90 => some (.bar g)
  | 0x91 => some (.cbar g e.ia)
  | 0x92 => some (.arv g d (if e.fb 0 then some e.ia else none))
  | 0x93 => some (.awt g e.srcA (if e.fb 0 then some e.ib else none))
  | 0x94 => some (.sput g e.ia)
  | 0x95 => some (.sget g e.ia)
  | 0x96 => some (.swait g (e.fb 0) e.ia)
  | 0x97 => some (.marke g (e.fb 0) d e.pl.mod og)
  | 0x98 => some (.markf g (e.fb 0) d e.pl.mod og)
  | 0x99 => some (.feq g (e.fb 0) d e.pl.sa (e.pl.mod.setWidth 5))
  | 0xA0 => some (.rstv g (e.fb 0) e.srcA e.srcB (if e.form = .w128 then some (e.immA, rel) else none))
  | 0xA1 => some (.rstk g (e.fb 0) (e.fb 1) e.srcA e.srcB (if e.form = .w128 then some rel else none))
  | 0xA2 => some (.rsig g (e.fb 0) (e.fb 1) e.srcA (if e.form = .w128 then some rel else none))
  | 0xA3 => if e.f = 2 then some (.chqClr g d e.ia) else some (.chq g (e.fb 0) d e.ia)
  | 0xA4 =>
    if e.fb 6 then some (.chgiveRev g (e.pl.func.setWidth 6) d e.srcA)
    else some (.chgive g (e.pl.func.setWidth 6) (e.pl.mod.setWidth 3) d e.srcA e.srcB)
  | 0xA5 => if e.fb 0 then some (.hmqLive g d e.ia) else some (.hmqTeam g d e.ia)
  | 0xA8 => some (.coll g d e.srcA e.oOff)
  | 0xA9 => some (.collw g (e.fb 0) d e.ia)
  | 0xAA => some (.collq g (CollQ.ofCode e.f) d e.ia)
  | 0xAB => some (.rcpy g grp e.srcA e.srcB e.srcC e.immA pol)
  | 0xAC => some (.rcpyw g (e.fb 0) (e.fb 1) d e.ia)
  | 0xB0 => some (.launch g d e.srcA (if e.form = .w128 then some e.immA else none))
  | 0xB1 => some (.lwait g (e.fb 0) d e.srcA)
  | 0xB2 => some (.lqry g (Lqry.ofCode e.f) d e.srcA)
  | 0xB3 => some (.yield g)
  | 0xB4 => some (.sleep g e.ia)
  | 0xB5 => some (.rgn g)
  | 0xB6 => some (.rgnx g)
  | 0xB7 => some (.tmig g d e.ia)
  | 0xB8 => some (.flxcfg g (e.fb 0) d e.ia)
  | 0xB9 => some (.flxq g (FlxSel.ofCode (e.f % 8)) (e.fb 3) d)
  | 0xC0 => some (.sysc g e.pl.func)
  | 0xC1 => some (.rte g)
  | 0xC2 => some (.mfs g (e.fb 0) d (e.imm32.setWidth 16))
  | 0xC3 =>
    if e.imm32 = 0x106 then some (.pwstatReopen g e.srcA)
    else if e.imm32 = 0x10D then some (.elhdWrite g e.srcA)
    else some (.mts g (e.fb 0) e.srcA (e.imm32.setWidth 16))
  | 0xC4 => if e.fb 0 then some (.tlbiAll g) else some (.tlbiRange g e.srcA e.srcB)
  | 0xC5 => some (.ctxsv g d e.srcA)
  | 0xC6 => some (.ctxld g d e.srcA)
  | 0xC7 => some (.intr g d e.ia)
  | 0xC8 => some (.halt g d e.srcA)
  | 0xC9 => some (.prio g d e.srcA e.ib)
  | 0xCA => some (.chset g (e.pl.func.setWidth 6) d e.srcA e.srcB)
  | 0xD0 => if e.fb 0 then some (.timeSkew g d) else some (.timeNow g d)
  | 0xD1 =>
    match e.f with
    | 0 => some (.cycClk g d)
    | 1 => some (.cycFreq g d)
    | _ => some (.cycSteps g d)
  | 0xD2 => some (.tsnd g d grp e.srcA e.srcB e.srcC e.immA pol)
  | 0xD3 => some (.slotw g e.srcA e.srcB)
  | 0xD4 =>
    match e.f with
    | 0 => some (.linkcSt g d e.ia)
    | 1 => some (.linkcOn g e.srcA)
    | 2 => some (.linkcOff g)
    | _ => some (.linkcCst g d)
  | 0xD5 => some (.cnq g d e.ia)
  | _ => none

/-- The instruction of a legal word. -/
def build (e : Enc) : Option Instr :=
  let o := e.pl.opc.toNat
  if o < 0x20 then buildControl e
  else if o < 0x40 then buildInteger e
  else if o < 0x60 then buildFloat e
  else if o < 0x90 then buildMemory e
  else buildSystem e

/-- Outcome of decoding one operation: the instruction, or the illegal-instruction cause (R74). -/
inductive DecOp where
  | op (i : Instr)
  | bad (cause : Nat)
  deriving DecidableEq, Repr

/-- One operation decoded (R74). -/
def decodeOp (e : Enc) : DecOp :=
  match illegalCause e with
  | some c => .bad c
  | none =>
    match build e with
    | some i => .op i
    | none => .bad 3

/-! ### Operands as register lists, and the pairing rules -/

/-- A register that a word names. -/
inductive RegRef where
  | v (n : Nat)
  | k (n : Nat)
  | p (n : Nat)
  | q (n : Nat)
  | m (n : Nat)
  deriving DecidableEq, Repr

/-- `n` consecutive numbers from `r`. -/
def upFrom (r n : Nat) : List Nat := (List.range n).map (r + ·)

/-- The registers that a field of kind `x` and number `n` names (R63). -/
def FK.refs (x : FK) (n : Nat) : List RegRef :=
  match x with
  | .zero | .idx _ | .tile => []
  | .v => [.v n]
  | .vp => (upFrom n 2).map .v
  | .vq => (upFrom n 4).map .v
  | .k => [.k n]
  | .kp => (upFrom n 2).map .k
  | .k4 | .k4s => (upFrom n 4).map .k
  | .k6 => (upFrom n 6).map .k
  | .p => [.p n]
  | .q => [.q n]
  | .m => [.m n]
  | .vwin c => (upFrom n c).map .v
  | .kwin c => (upFrom n c).map .k

/-- Whether a field of this kind is read as a vector or uniform source under R45. -/
def FK.isSource : FK → Bool
  | .v | .vp | .vq | .k | .kp | .k4 | .k4s | .k6 => true
  | _ => false

/-- A fixed register of R31, which counts as no destination in a pair (R71). -/
def RegRef.fixed : RegRef → Bool
  | .v n => n = 255
  | .k n => n = 127
  | .p n => n = 7
  | .q n => n = 7
  | .m _ => false

/-- Registers that a multi-register vector operand reaches: a number past 255 wraps onto nothing (R31). -/
def RegRef.real : RegRef → Bool
  | .v n => n ≤ 255
  | _ => true

/-- Pairing class (R70). -/
inductive PairClass where
  | heavy | light | never
  deriving DecidableEq, Repr

/-- The pairing class of an operation (R70). -/
def pairClass (p : Payload) : PairClass :=
  let o := p.opc.toNat
  if 0x10 ≤ o && o ≤ 0x17 then .light
  else if 0x22 ≤ o && o ≤ 0x25 then .heavy
  else if o = 0x38 then (if p.func.toNat % 8 = 2 then .heavy else .light)
  else if (0x20 ≤ o && o ≤ 0x3A) || o = 0x3C then .light
  else if (0x40 ≤ o && o ≤ 0x4F) || (0x58 ≤ o && o ≤ 0x5D) || o = 0x5F then .heavy
  else .never

/-- The destinations of one half that count for pairing: the fixed registers count in no rule, though rule 4 of R71 exempts only p7 and
q7 by name (DESIGN CHOICE, log 87). -/
def pairDests (e : Enc) (s : Shape) : List RegRef :=
  (s.d.refs e.pl.dst.toNat).filter fun r => !r.fixed && r.real

/-- The registers named by the source fields and by the guard of one half. -/
def pairSources (e : Enc) (s : Shape) : List RegRef :=
  s.a.refs e.pl.sa.toNat ++ s.b.refs e.pl.sb.toNat ++ s.c.refs e.pl.sc.toNat ++
  [match s.guard with
   | .uniform => .q e.pl.pred.toNat
   | _ => .p e.pl.pred.toNat]

/-- The vector reads of one half, v255 not counted (R71 rule 5). -/
def pairReads (e : Enc) (s : Shape) : List Nat :=
  (s.a.refs e.pl.sa.toNat ++ s.b.refs e.pl.sb.toNat ++ s.c.refs e.pl.sc.toNat).filterMap fun r =>
    match r with
    | .v n => if n < 255 then some n else none
    | _ => none

/-- Whether two legal halves obey R70 and R71. -/
def pairOk (a b : Enc) : Bool :=
  match shape a, shape b with
  | some sa, some sb =>
    let ca := pairClass a.pl
    let cb := pairClass b.pl
    let da := pairDests a sa
    let db := pairDests b sb
    let rd := pairReads a sa ++ pairReads b sb
    ca ≠ .never && cb ≠ .never && !(ca = .heavy && cb = .heavy) &&
    !(da.any db.contains) && !(da.any (pairSources b sb).contains) &&
    rd.length ≤ 4 && (List.range 4).all fun bank => (rd.filter (· % 4 = bank)).length ≤ 2
  | _, _ => false

/-- A decoded word: one operation, a pair, an illegal word with its cause, or a pairing fault. -/
inductive Decoded where
  | one (i : Instr) (len : Nat)
  | two (a b : Instr)
  | illegal (cause : Nat)
  | pairing
  deriving DecidableEq, Repr

/-- The word at block offset `off` (R62, R69, R73, R74). -/
def decodeWord (w : BitVec 128) (off : Nat) : Decoded :=
  match Enc.ofBits w with
  | some e =>
    if 32 < off + e.form.bytes then .illegal 1
    else match decodeOp e with
      | .op i => .one i e.form.bytes
      | .bad c => .illegal c
  | none =>
    if 32 < off + 16 then .illegal 1
    else
      let hiBits := w.extractLsb' 64 64
      let a : Enc := ⟨.w64, Payload.ofBits (w.extractLsb' 0 64), 0⟩
      let b : Enc := ⟨.w64, Payload.ofBits hiBits, 0⟩
      if hiBits.extractLsb' 0 2 ≠ 0 then .illegal 2
      else match decodeOp a, decodeOp b with
        | .op i, .op j => if pairOk a b then .two i j else .pairing
        | .bad c, .bad c' => .illegal (min c c')
        | .bad c, _ => .illegal c
        | _, .bad c => .illegal c

/-- The encodings of a word's operations, one or two, and its length. -/
def wordEncs (w : BitVec 128) : List Enc × Nat :=
  match Enc.ofBits w with
  | some e => ([e], e.form.bytes)
  | none => ([⟨.w64, Payload.ofBits (w.extractLsb' 0 64), 0⟩, ⟨.w64, Payload.ofBits (w.extractLsb' 64 64), 0⟩], 16)

/-- The instruction the decoder reads from a word laid at the start of a block. -/
def decodeTableWord (nbits w : Nat) : Option Instr :=
  match decodeWord (BitVec.ofNat 128 (w % 2 ^ nbits)) 0 with
  | .one i _ => some i
  | _ => none

end Sys2Proof
end

