-- ==== Sys2Proof/Machine/Store.lean ====
section
/-!
DEFINITION. Operations on sparse stores: read with a default, write in canonical form (keys strictly rising,
no entry equal to the default), and their well-formedness.
-/
namespace Sys2Proof
universe u

/-- The value at key `k`; `d` when nothing is listed. -/
def Store.get {α : Type} (d : α) : Store α → Nat → α
  | [], _ => d
  | (k, v) :: rest, x => if k = x then v else Store.get d rest x

/-- The entry at `k`, if one is listed. -/
def Store.find {α : Type} : Store α → Nat → Option α
  | [], _ => none
  | (k, v) :: rest, x => if k = x then some v else Store.find rest x

/-- Removes what is listed at `x`. -/
def Store.erase {α : Type} : Store α → Nat → Store α
  | [], _ => []
  | (k, v) :: rest, x => if k = x then Store.erase rest x else (k, v) :: Store.erase rest x

/-- Lists `v` at `x`, keys kept in rising order. -/
def Store.insert {α : Type} : Store α → Nat → α → Store α
  | [], x, v => [(x, v)]
  | (k, w) :: rest, x, v =>
    if x < k then (x, v) :: (k, w) :: rest
    else if x = k then (x, v) :: rest
    else (k, w) :: Store.insert rest x v

/-- Writes `v` at `x` in canonical form: writing the default removes the entry. -/
def Store.set {α : Type} [DecidableEq α] (d : α) (m : Store α) (x : Nat) (v : α) : Store α :=
  if v = d then Store.erase m x else Store.insert m x v

/-- Every key is above `lo`, keys rise strictly, and no entry equals the default. -/
def Store.wfFrom {α : Type} [DecidableEq α] (d : α) : Option Nat → Store α → Bool
  | _, [] => true
  | none, (k, v) :: rest => v ≠ d && Store.wfFrom d (some k) rest
  | some lo, (k, v) :: rest => lo < k && v ≠ d && Store.wfFrom d (some k) rest

/-- The canonical form: keys strictly rising and no entry equal to the default. -/
def Store.wf {α : Type} [DecidableEq α] (d : α) (m : Store α) : Bool := Store.wfFrom d none m

/-- Applies `f` to the value at `x`. -/
def Store.upd {α : Type} [DecidableEq α] (d : α) (m : Store α) (x : Nat) (f : α → α) : Store α :=
  Store.set d m x (f (Store.get d m x))

/-- `n` bytes from address `a`, the lowest first; an unlisted byte reads 0 (log 1). -/
def readBytes (m : Store Byte) (a n : Nat) : List Byte :=
  (List.range n).map fun i => Store.get 0 m (a + i)

/-- Writes bytes from address `a` upward. -/
def writeBytes (m : Store Byte) (a : Nat) : List Byte → Store Byte
  | [] => m
  | b :: rest => writeBytes (Store.set 0 m a b) (a + 1) rest

/-- Little-endian value of bytes (R3). -/
def ofBytes : List Byte → Nat
  | [] => 0
  | b :: rest => b.toNat + 256 * ofBytes rest

/-- The `n` low bytes of a number, little-endian (R3). -/
def toBytes : Nat → Nat → List Byte
  | 0, _ => []
  | n + 1, v => BitVec.ofNat 8 v :: toBytes n (v / 256)

end Sys2Proof
end

