-- ==== Sys2Proof/Machine/State.lean ====
section
/-!
DEFINITION. The state of the whole fabric: gangs, teams and cohorts, cores, dies, hubs and devices, memory and
its metadata, token holdings and home units, engines, messages in flight, tenants and management. Every field
is plain data. INVENTORY.md lists each with the rule that names it and its reset value.
-/
namespace Sys2Proof.Machine

/-! ### Gangs (02, 06, 15, 16, 17) -/

/-- Roles (R27). -/
inductive Role where
  | gen | copy | mtx | vec | link
  deriving DecidableEq, Repr

/-- A PC slot (R40). `kind` is 0 none, 1 fault split, 2 parked call group. -/
structure PcSlot where
  pc    : DWord := 0
  lmask : BitVec 32 := 0
  valid : Bool := false
  kind  : BitVec 2 := 0
  creg  : BitVec 8 := 0
  deriving DecidableEq, Repr

/-- A trap record (R393, R400). -/
structure TrapRec where
  active : Bool := false
  code   : BitVec 8 := 0
  cause  : BitVec 8 := 0
  lmask  : BitVec 32 := 0
  pc     : DWord := 0
  addr   : DWord := 0
  res    : DWord := 0
  deriving DecidableEq, Repr

/-- The empty triple of R37: W 0, MEAN the empty-set NaN, M2 0, EMPTY 1. -/
def emptyTriple : BitVec 128 := 0x00000001000000007FC00E0000000000

/-- The registers of one gang (R30), which a flux pass shadows whole (R377). Vector registers are keyed
32 · register + lane; lane predicates hold one mask per predicate. -/
structure Regs where
  pri    : PcSlot := { valid := true, lmask := 0xFFFFFFFF }
  sec    : PcSlot := {}
  depth  : Store Nat := []
  vregs  : Store Word := []
  kregs  : Store Word := []
  preds  : Store (BitVec 32) := []
  qpreds : BitVec 8 := 0
  moms   : Store (BitVec 128) := []
  vfull  : BitVec 256 := BitVec.allOnes 256
  kfull  : BitVec 128 := BitVec.allOnes 128
  wins   : Store DWord := []
  curs   : Store Nat := []
  deriving DecidableEq, Repr

/-- A copy or remote group: transfers in flight and its fault record (R287, R346). -/
structure Group where
  inflight : Nat := 0
  nflt  : Nat := 0
  row   : Nat := 0
  kind  : Nat := 0
  side  : Nat := 0
  cause : Nat := 0
  addr  : DWord := 0
  deriving DecidableEq, Repr

/-- An entry of the flux buffer (R377). -/
inductive FluxEnt where
  | v (n : Nat) | vp (n : Nat) | k (n : Nat) | kp (n : Nat) | m (n : Nat)
  deriving DecidableEq, Repr

/-- A flux pass in progress: the context and buffer as shadow registers, their poison bits, the entries taken,
the words issued, the blocked word and the loads it waits on, every load of the gang in flight at entry, and what the load just
before the blocked word will write while that load still waits for its walk (R375–R382). -/
structure Flux where
  ctx     : Regs
  vpois   : Store (BitVec 32) := []
  kpois   : BitVec 128 := 0
  mpois   : BitVec 16 := 0
  ppois   : Store (BitVec 32) := []
  qpois   : BitVec 8 := 0
  entries : List FluxEnt := []
  words   : Nat := 0
  budget  : Nat := 0
  block   : DWord := 0
  waitOn  : List Nat := []
  loads   : List Nat := []
  held    : List RegRef := []
  ending  : Bool := false
  deriving DecidableEq, Repr

/-- What a gang waits for (R361). -/
inductive Wait where
  | ready | source | interlock | walk | queue | board | drain | channel | answer | acks
  | sleep (till : Nat)
  | watch (since till : Nat)
  | recheck (since : Nat)
  deriving DecidableEq, Repr

/-- Where a byte lies. -/
inductive Loc where
  | dram (dev pa : Nat)
  | priv (dev pa : Nat)
  | scr (off : Nat)
  | host (addr : Nat)
  | pool (addr : Nat)
  deriving DecidableEq, Repr

/-- The last look of a WAITLN in a slot: when it was, what it read in the scratchpad and under tokens of its die, each with size and
value, and of how many sectors that it waits to read the data had come (R224). -/
structure WaitLook where
  sec   : Bool
  at_   : Nat
  words : List (Loc × Nat × Nat)
  came  : Nat
  deriving DecidableEq, Repr

/-- A barrier wait in progress: the circle, `none` for the team barrier, and the phase joined (R316). -/
structure BarWait where
  circle : Option Nat
  phase  : Nat
  deriving DecidableEq, Repr

/-- Pool poison pending on a register: the lanes and the faulting address (R270). -/
structure PoolPois where
  reg   : RegRef
  lanes : BitVec 32
  addr  : DWord
  deriving DecidableEq, Repr

/-- One gang. `wait` and `wait2` are what its primary and secondary slots wait for (R156); `relArm` is set by a FENCE that
releases, until the next strong store or atomic, and says whether its scope is wider than the L1's reach (R226); `walked` lists
the pages that the word at hand has had walked (R211), `eye` the sectors that it reads at their home or in a slice, with the
data that has come there for it (R256, R262), `walkMhz` the clock at which its first walk was sent (R376), `looks` the last
looks of its WAITLNs, and `acks` counts the acknowledgements that TLBI or SLOTW waits for (R404, R428). -/
structure Gang where
  team     : Nat
  idx      : Nat
  role     : Role := .gen
  core     : Nat := 0
  part     : Nat := 0
  rslot    : Nat := 0
  resident : Bool := false
  regs     : Regs := {}
  tr0      : TrapRec := {}
  tr1      : TrapRec := {}
  rgnOpen  : Bool := false
  rgnPc    : DWord := 0
  rgnMask  : BitVec 32 := 0
  cgrps    : Store Group := []
  rgrps    : Store Group := []
  fluxBudget : Word := 0
  fluxPref   : Word := 0
  fluxWalks  : Word := 0
  fluxFaults : Word := 0
  fluxPasses : Word := 0
  flux     : Option Flux := none
  fluxDone : List DWord := []
  out      : Store Nat := []
  bar      : Option BarWait := none
  wait     : Wait := .ready
  wait2    : Wait := .ready
  relArm   : Option Bool := none
  walked   : List (Nat × Nat) := []
  eye      : List (Nat × Option (BitVec 512)) := []
  acks     : Nat := 0
  walkMhz  : Nat := 0
  looks    : List WaitLook := []
  owed     : List (Nat × RegRef) := []
  long     : List Nat := []
  pois     : List PoolPois := []
  active   : Bool := true
  movedAt  : Nat := 0
  eligAt   : Nat := 0
  issuedAt : Nat := 0
  lwait    : Option Nat := none
  lres     : Option Nat := none
  deriving DecidableEq, Repr

/-! ### Teams and cohorts (13, 14, 15) -/

/-- Team states (R367). -/
inductive TeamSt where
  | waiting | resident | stopping | saved | restart | migrating | exited
  deriving DecidableEq, Repr

/-- Marks of a channel entry (R325). -/
structure ChMark where
  dead    : Bool := false
  xten    : Bool := false
  badwin  : Bool := false
  retries : Nat := 0
  epoch   : Nat := 0
  deriving DecidableEq, Repr

/-- A stream record at the target: the stream, the next sequence to take up, and the sequences refused for retry and
not yet taken up (R323). -/
structure Stream where
  stream  : Nat
  next    : Nat := 0
  refused : List Nat := []
  deriving DecidableEq, Repr

/-- Collective slot states (R340). -/
inductive CollSt where
  | free | matching | run | done | error
  deriving DecidableEq, Repr

/-- The parameter block of a collective (R331). -/
structure CollBlock where
  op      : Nat := 0
  fn      : Nat := 0
  ty      : Nat := 0
  alg     : Nat := 0
  ndet    : Bool := false
  rset    : Bool := false
  circle  : Nat := 0
  permit  : Nat := 0
  root    : Nat := 0
  nrank   : Nat := 0
  count   : Nat := 0
  tag     : Nat := 0
  send    : DWord := 0
  recv    : DWord := 0
  rtab    : DWord := 0
  stage   : Nat := 0
  stagesz : Nat := 0
  hring   : Nat := 0
  tmo     : Nat := 0
  deriving DecidableEq, Repr

/-- What a rank takes in (R335, R337): the operands of a node of a chunk's tree, which it evaluates, or a chunk of RECV from a rank,
under its number. The tree is 2^32 · block + chunk, and the node 2^24 · level + index, a leaf's index being its rank. -/
inductive CollJob where
  | node (tree k : Nat)
  | recv (num src : Nat)
  deriving DecidableEq, Repr

/-- A part of the staging area in use (R335, R339, R342): what it is for, its unit or, under FN = 4, its pair of units, which is also
the ring slot; the operands that lie there; whether the value is whole; and FREEPH before the hand-off that is under way. -/
structure CollPart where
  job   : CollJob
  unit  : Nat
  left  : Bool := false
  right : Bool := false
  whole : Bool := false
  hand  : Option Bool := none
  deriving DecidableEq, Repr

/-- One collective slot of a team (R340, R342): `opened` counts the work taken in that has a staging unit, `nextOut` the work sent,
`step` the steps that their receivers have consumed; `held` counts, by peer, the permits of that peer that are not used yet, and
`granted` those granted to it whose unit is not consumed yet (R335). -/
structure CollSlot where
  state   : CollSt := .free
  gang    : Nat := 0
  block   : CollBlock := {}
  raw     : List Byte := []
  ranks   : List Word := []
  me      : Nat := 0
  since   : Nat := 0
  coll    : Nat := 0
  step    : Nat := 0
  total   : Nat := 0
  nextOut : Nat := 0
  gotten  : List Nat := []
  held    : Store Nat := []
  granted : Store Nat := []
  opened  : Nat := 0
  parts   : List CollPart := []
  moved   : Bool := false
  status  : Nat := 0
  fcause  : Nat := 0
  frank   : Nat := 0
  deriving DecidableEq, Repr

/-- An aborted collective that some rank has not posted yet (R341): its TAG, its ranks as cohort and team index, none when the rank
table of the team `has` could not be read, how many of the same TAG and ranks wait before it, the ranks whose slots are in ERROR for it,
and what they find there. -/
structure LateColl where
  tag    : Nat
  who    : List (Nat × Nat)
  has    : Nat × Nat
  ord    : Nat
  met    : List (Nat × Nat)
  status : Nat
  fcause : Nat
  frank  : Nat
  deriving DecidableEq, Repr

/-- The remainder of an MLOOP stopped at a promotion (R310). -/
structure MloopRem where
  count : Nat
  tile  : Nat
  func  : Nat
  q1    : Nat
  gang  : Nat
  pa    : DWord
  pb    : DWord
  inc   : Word
  seed  : Word
  g0    : Word
  deriving DecidableEq, Repr

/-- A TMIG in progress (R366): gang, destination register, target die (8 for any, 9 once the team is to go back), its bound, and
the die that the team came from. -/
structure Tmig where
  gang   : Nat
  dst    : RegNum
  target : Nat
  till   : Nat
  origin : Nat
  deriving DecidableEq, Repr

/-- One team. `die` is the die index 8 · device + die; `cores` its member cores in order; `stopAt` when it last began to stop;
`tileMap` the accumulator tiles of member core 0 that its own tiles lie on (R52). -/
structure Team where
  cohort  : Nat
  tidx    : Nat
  hall    : Word := 0
  slotKey : Nat := 0
  state   : TeamSt := .waiting
  die     : Nat := 0
  cores   : List Nat := []
  tileMap : List Nat := []
  startQ  : Nat := 0
  stolen  : Bool := false
  held    : Bool := false
  since   : Nat := 0
  stopAt  : Nat := 0
  startAt : Nat := 0
  tiles   : Store Word := []
  scratch : Store Byte := []
  chans   : Store (BitVec 128) := []
  marks   : Store ChMark := []
  tphase  : Nat := 0
  tarr    : List Nat := []
  ringFull : Store Word := []
  ringFree : Store Word := []
  streams : List Stream := []
  inbox   : List RStore := []
  fwdQ    : List RStore := []
  sent    : Store Nat := []
  colls   : Store CollSlot := []
  mrem    : Option MloopRem := none
  tmig    : Option Tmig := none
  ctxsv   : List (Nat × RegNum) := []
  halts   : List (Nat × RegNum) := []
  fullReq : Bool := false
  ending  : Option (Nat × Nat × Nat × Nat) := none
  deriving DecidableEq, Repr

/-- Cohort states (R354). -/
inductive CohSt where
  | depwait | dispatch | run | done | error | cancelled
  deriving DecidableEq, Repr

/-- A launch record (R350). Sizes are in the units of the machine: bytes, cores, gangs, registers · 8. -/
structure LaunchRec where
  entry    : DWord := 0
  nteams   : Nat := 1
  gangs    : Nat := 1
  ncores   : Nat := 1
  share    : Nat := 0
  pword    : Word := 0
  vbud     : Nat := 4
  kbud     : Nat := 2
  tiles    : Nat := 0
  prio     : Nat := 0
  autoreap : Bool := false
  cosched  : Bool := false
  diemask  : BitVec 8 := 1
  chome    : Nat := 0
  nmem     : Nat := 0
  dep0     : Word := 0
  dep1     : Word := 0
  donep    : DWord := 0
  privb    : DWord := 0
  privsz   : Nat := 0
  aux      : DWord := 0
  kpre     : List Word := []
  raw8     : List Byte := []
  deriving DecidableEq, Repr

/-- A circle member record (R351); `team` is `none` for every team. -/
structure Member where
  team   : Option Nat
  circle : Nat
  gang   : Nat
  deriving DecidableEq, Repr

/-- A circle barrier (R314): phase and the gangs (team index, gang) that have arrived. -/
structure CircBar where
  phase : Nat := 0
  arr   : List (Nat × Nat) := []
  deriving DecidableEq, Repr

/-- One cohort (R350–R358): `depFail` once a cohort it depends on has failed (R354). -/
structure Cohort where
  tenant  : Nat
  dev     : Nat
  control : Bool := false
  lr      : LaunchRec := {}
  roles   : List Role := []
  inV     : BitVec 256 := 0
  inK     : BitVec 128 := 0
  members : List Member := []
  state   : CohSt := .depwait
  placed  : Nat := 0
  started : Nat := 0
  exited  : Nat := 0
  trapped : Bool := false
  depFail : Bool := false
  order   : Nat := 0
  circs   : Store CircBar := []
  deriving DecidableEq, Repr

/-- A team slot of a die (R321). -/
structure TeamSlot where
  gen   : Nat := 1
  freed : Nat := 0
  team  : Option Nat := none
  deriving DecidableEq, Repr

/-- A cohort slot of a die (R354). -/
structure CohortSlot where
  gen    : Nat := 1
  freed  : Nat := 0
  cohort : Option Cohort := none
  deriving DecidableEq, Repr

/-! ### Memory system (01, 08, 09, 10) -/

/-- Sector metadata (R19). -/
structure SMeta where
  cast  : BitVec 8 := 0
  pois  : Bool := false
  eccsp : BitVec 7 := 0
  deriving DecidableEq, Repr

/-- A holder's tokens of one sector (R243); `bare` while a write requester has tokens and awaits the owner's data
(R247). -/
structure Hold where
  count : Nat := 0
  owner : Bool := false
  dirty : Bool := false
  cast  : BitVec 8 := 0
  data  : BitVec 512 := 0
  bare  : Bool := false
  deriving DecidableEq, Repr

/-- A recast fence entry (R260): the new cast, and when it is freed once TRDONE has come. -/
structure Fence where
  cast : BitVec 8
  till : Option Nat
  deriving DecidableEq, Repr

/-- A clamp table entry of a holder (R255): the last clamp of the home unit that it has seen, and whether it still
stands. -/
structure ClampEnt where
  num    : Nat
  live   : Bool
  write  : Bool
  sector : Nat
  req    : Nat
  deriving DecidableEq, Repr

/-- A queued clamp (R253). -/
structure ClampReq where
  sector : Nat
  req    : Nat
  write  : Bool
  deriving DecidableEq, Repr

/-- The clamp being served (R255, R256): its number, request, activation time, the holders that have answered
CLACT or CLDEA, whether CLDONE has come, and whether CLDEA has been sent. -/
structure ActClamp where
  num    : Nat
  req    : ClampReq
  at_    : Nat
  acks   : List Nat := []
  done   : Bool := false
  dea    : Bool := false
  deriving DecidableEq, Repr

/-- A recast in progress (R259). -/
structure Recast where
  sector  : Nat
  old     : BitVec 8
  first   : Nat
  lastTx  : Nat
  answers : List Nat := []
  tokens  : Nat := 0
  owner   : Bool := false
  dirty   : Bool := false
  data    : BitVec 512 := 0
  clean   : Bool := false
  acks    : List Nat := []
  deriving DecidableEq, Repr

/-- States of a home unit for one sector (R257). -/
inductive HomeSt where
  | idle | active | deact | recast | flip
  deriving DecidableEq, Repr

/-- An event held back by a bound or a state (R257, R258). -/
structure HeldLoss where
  sector : Nat
  cast   : BitVec 8
  owner  : OwnerLoss
  deriving DecidableEq, Repr

/-- A home unit (R242, R257). -/
structure HomeUnit where
  queue   : List ClampReq := []
  batch   : List ClampReq := []
  active  : Option ActClamp := none
  recast  : Option Recast := none
  done    : Option Recast := none
  relAt   : Nat := 0
  held    : List HeldLoss := []
  next    : Nat := 0
  deriving DecidableEq, Repr

/-- An unsatisfied token request of a holder (R251). -/
structure Miss where
  holder  : Nat
  sector  : Nat
  write   : Bool
  attempt : Nat
  first   : Nat
  sent    : Nat
  far     : Bool
  clamped : Bool
  flux    : Bool
  deriving DecidableEq, Repr

/-- An L2 line of a die: age, persist mark and pin (R201–R206). -/
structure L2Line where
  age     : Int := 0
  persist : Bool := false
  pin     : Option Nat := none
  deriving DecidableEq, Repr

/-- An L1 sector of a core: bytes, which are valid, which are dirty, when first dirtied, and whether the line
is private to a lane, when it was last filled, and the recency of its line (R201, R239, R240). Of its dirty bytes it keeps the policy
they were last stored under (R201), whether one ST wrote all 64 (R190), whether their publication waits for tokens (R239), and the
teams that stored them, each with the first pointer (R412). -/
structure L1Sec where
  data  : BitVec 512 := 0
  valid : BitVec 64 := 0
  dirty : BitVec 64 := 0
  since : Nat := 0
  priv  : Bool := false
  fillAt : Nat := 0
  age   : Int := 0
  pol   : Nat := 0
  whole : Bool := false
  asked : Bool := false
  writers : List (Nat × DWord) := []
  deriving DecidableEq, Repr

/-- A TLB entry (R194): tenant, device whose tables it came from, 1 MiB group number, PFN of page 0 of the
group, validity mask, W, X, when installed, and whether it serves fabric pointers of another group. -/
structure Tlb where
  tenant : Nat
  dev    : Nat
  group  : Nat
  pfn0   : Int
  mask   : BitVec 16
  w      : Bool
  x      : Bool
  at_    : Nat := 0
  fab    : Bool := false
  deriving DecidableEq, Repr

/-- What a walk ends in (R193): the leaf's group as one entry, or the page-fault cause of R287 with bits [3:0] of the leaf
entry, 0 when the walk did not read one. -/
inductive WalkRes where
  | ok (e : Tlb)
  | flt (cause leaf : Nat)
  deriving DecidableEq, Repr

/-- A walk in flight or finished and not yet seen by its waiters (R195); `ans` is the outcome on its way back from
another device (R196). -/
structure Walk where
  id      : Nat
  die     : Nat
  tenant  : Nat
  dev     : Nat
  page    : Nat
  fab     : Bool
  remote  : Bool
  waiters : List Nat
  res     : Option WalkRes
  ans     : Option WalkRes := none
  deriving DecidableEq, Repr

/-- Where an access is performed (R186, R201, R218). -/
inductive Place where
  | l1 | slice | home | host | pool
  deriving DecidableEq, Repr

/-- The operation of an access on its old bytes. -/
inductive AccOp where
  | load (sext : Bool)
  | store
  | int (op : AtomOp) (t : IntT)
  | fadd (t : FaddT)
  | cas
  deriving DecidableEq, Repr

/-- One lane's part of an access: location, bytes, operands, the value bound, the probe flag, pool poison, its effective
policy (R201), and whether its scope is .sys (R262). -/
structure LaneAcc where
  lane  : Nat
  ptr   : DWord
  loc   : Loc
  place : Place
  size  : Nat
  b     : Nat
  c     : Nat
  got   : Option Nat
  flag  : Bool
  pois  : Bool
  pol   : Nat := 0
  sys   : Bool := false
  deriving DecidableEq, Repr

/-- Where the values of an access go. -/
inductive AccDest where
  | none
  | v (r n : Nat)
  | k (r n : Nat)
  | mom (m : Nat)
  deriving DecidableEq, Repr

/-- A memory access in flight (R189, R227): `acq` when later accesses of the gang wait for it, `drop` when it is an acquire of
a scope wider than the L1's reach (R239), `at_` when it issued (R271), `miss` when it missed in the L2 (R361), `who` the lanes
that take pool poison of an access made once for all of them (R179, R209, R270). -/
structure Access where
  id    : Nat
  gang  : Nat
  core  : Nat
  die   : Nat
  op    : AccOp
  dest  : AccDest
  probe : Option Nat
  acq   : Bool
  drop  : Bool
  rel   : Bool
  long  : Bool
  lanes : List LaneAcc
  at_   : Nat := 0
  miss  : Bool := false
  who   : BitVec 32 := 0
  deriving DecidableEq, Repr

/-! ### Engines (11, 12, 14, 18) -/

/-- What a transfer of a collective's sequencer is for (R335): a chunk of SEND, block and chunk, that goes to a peer under a
number; a node value that goes to a peer; the rank's own leaf of a tree; or a chunk that goes to RECV under a number, with the
rank that sent it. -/
inductive CollAct where
  | send (peer blk chunk num : Nat) (final : Bool)
  | node (peer tree k num : Nat) (final : Bool)
  | leaf (tree : Nat)
  | recv (num src : Nat)
  deriving DecidableEq, Repr

/-- What became of one piece of a transfer, within one sector: bytes read, a fault, or a write with its sector of device
memory. -/
inductive Piece where
  | data (bs : List (Option Byte))
  | flt (cause : Nat)
  | wrote (sec : Option Nat)
  deriving DecidableEq, Repr

/-- A fault of a transfer (R287): cause, pointer, side and row. -/
structure EngFault where
  cause : Nat
  addr  : DWord
  side  : Nat
  row   : Nat
  deriving DecidableEq, Repr

/-- Kinds of transfer. -/
inductive XKind where
  | cpy (f : CFmt) (p : Planes) (tr : Bool) (rm : Rm) (sat : Bool)
  | cpyg (f : CFmt) (rm : Rm) (sat : Bool)
  | cpys (f : CFmt) (rm : Rm) (sat : Bool)
  | rcpy
  | tsnd (due len : Nat) (dst : RegNum)
  | coll (slot : Nat) (act : CollAct)
  deriving DecidableEq, Repr

/-- A scoreboard entry of a team (R208): [lo, hi), and whether the range is written. -/
structure Board where
  lo : Nat
  hi : Nat
  wr : Bool
  deriving DecidableEq, Repr

/-- A transfer queued or running (R282, R283, R335, R345, R431): `begun` once a timed send is due, `done` once every write has
been performed, with the sectors of device memory written; `log` is what its pieces have come to, in order, `needs` the holder and
sector whose tokens it waits for, `feed` that sector's data as it has come to the home for an uncached read (R262), `byp` the lines
it has bypassed the L2 with (R206), and `unread` how many bytes of its source a timed send that is due has still to read, with the
faults of those that it has read in `bad` (R431). The
policies are those of the source, the destination, and of an index and a value array. -/
structure Xfer where
  id    : Nat
  gang  : Nat
  team  : Nat
  core  : Nat
  die   : Nat
  tenant : Nat
  group : Nat
  kind  : XKind
  src   : DWord
  dst   : DWord
  geo   : Word
  geo1  : Word
  ci    : DWord
  vals  : DWord
  pol   : Nat
  dpol  : Nat
  ipol  : Nat
  vpol  : Nat
  board : List Board
  begun : Bool
  done  : Bool
  data  : List (Option Byte) := []
  wrote : List Nat := []
  log   : List Piece := []
  needs : Option (Nat × Nat) := none
  feed  : Option (BitVec 512) := none
  byp   : List Nat := []
  unread : Option Nat := none
  bad   : List EngFault := []
  deriving DecidableEq, Repr

/-- A matrix operation (R301, R305, R306). -/
inductive MatOp where
  | mma (p : Planes) (tile : Nat) (pa pb : DWord) (sp : Option (Word × Word)) (q : Nat) (incA incB : BitVec 16)
      (count : Nat)
  | acz (tile count : Nat)
  | acld (tile : Nat) (src : DWord) (pitch : Nat)
  | acdr (tile : Nat) (v : DWord) (mom : Option DWord) (norm : Option Word) (z fresh nodata : Bool) (pitch : Nat)
  deriving DecidableEq, Repr

/-- A queue entry of a core's matrix engine (R303). -/
structure MatEnt where
  id    : Nat
  gang  : Nat
  team  : Nat
  core  : Nat
  op    : MatOp
  board : List Board
  begun : Bool
  deriving DecidableEq, Repr

/-! ### Cores, dies, hubs, devices, tenants (01, 10, 17, 18, 19) -/

/-- A core (R13, R49, R194, R358). -/
structure Core where
  pword  : Word := 48
  l1     : Store L1Sec := []
  ltlb   : List Tlb := []
  icache : Store (BitVec 256) := []
  startQ : List Nat := []
  deriving DecidableEq, Repr

/-- A rate-table entry (R417). -/
structure Rate where
  dest   : Nat
  rate   : Nat
  lastAt : Nat
  recAt  : Nat
  deriving DecidableEq, Repr

/-- A die: clock and latched counter (R420), counters of R206, R239 and R261, L2 TLB, rate table. Hub dies keep
the same counters under keys of their own. -/
structure Die where
  fenced  : Bool := false
  failed  : Bool := false
  mhz     : Nat := 1500
  clkK    : Nat := 0
  clkT0   : Nat := 0
  steps   : Nat := 0
  pendClk : Option (Nat × Nat) := none
  relock  : Option Nat := none
  pinbyp  : DWord := 0
  scfForced : Nat := 0
  scfTimed  : Nat := 0
  aged    : Nat := 0
  stale   : Nat := 0
  clamps  : Nat := 0
  poisoned : Nat := 0
  recasts : Nat := 0
  tlb     : List Tlb := []
  rates   : Store (Option Rate) := []
  scf     : Store (BitVec 48) := []
  deriving DecidableEq, Repr

/-- A host filter entry (R265). -/
structure FiltEnt where
  sector : Nat
  count  : Nat
  order  : Nat
  deriving DecidableEq, Repr

/-- A recall of the host's copy, waiting for BIRsp (R266): the message it will answer, `none` for an entry that
leaves a full filter (R265). -/
structure Recall where
  sector : Nat
  shared : Bool
  cause  : Option Ev
  till   : Nat
  deriving DecidableEq, Repr

/-- A hub die (R20, R265, R432). -/
structure Hub where
  filter : List FiltEnt := []
  recalls : List Recall := []
  portUp : Bool := true
  deriving DecidableEq, Repr

/-- A BIAS in progress (R268, R276): the page being flipped, the pages after it with their devices, and the answer it owes. -/
structure Flip where
  page   : Nat
  toHost : Bool
  rest   : List (Nat × Nat)
  id     : Nat
  gang   : Nat
  dst    : RegNum
  count  : Nat
  deriving DecidableEq, Repr

/-- A link or fibre pair (R414, R421, R429): `up` once it has been trained, `train` while it retrains after going down, `down` the
mask of wavelengths withdrawn, and `downAt` when each was. -/
structure Link where
  up       : Bool := false
  train    : Bool := false
  down     : BitVec 8 := 0
  downAt   : Store Nat := []
  retrains : Nat := 0
  lost     : Nat := 0
  deriving DecidableEq, Repr

/-- An entry of a device's send queues: what it stands for, the group it goes to, and how many of its flits are still to be sent
(R414, R423). -/
structure CircEnt where
  id    : Nat
  group : Nat
  flits : Nat
  deriving DecidableEq, Repr

/-- A start that runs (R434, R435): its kind, what it finds, and whether a warm start still waits for the end of the teams. -/
structure Boot where
  warm : Bool
  o    : StartOutcome
  halt : Bool := false
  deriving DecidableEq, Repr

/-- A device (R267, R422–R424, R434–R440): `stopAt` says when circuit mode is to stop and whether the spread forces it;
`circTill` until when the pairs of a group are taken by flits already sent; `thrAt` is one more than the time of the last power step
(0 for none). -/
structure Dev where
  bias    : Store Bool := []
  flips   : List Flip := []
  slots   : Store (BitVec 128) := []
  run     : Bool := false
  spstop  : Bool := false
  startAt : Nat := 0
  stopAt  : Option (Nat × Bool) := none
  circQ   : List CircEnt := []
  circTill : Store Nat := []
  links   : Store Link := []
  routing : Store DWord := []
  busy    : Bool := false
  warm    : Bool := false
  dieOk   : BitVec 8 := 0
  cause   : Nat := 0
  cmdst   : Nat := 0
  phase   : Nat := 0
  plimit  : Nat := 3600
  pnow    : Nat := 0
  thrAt   : Nat := 0
  version : Word := 0
  digest  : BitVec 256 := 0
  serial  : BitVec 128 := 0
  pubKey  : BitVec 512 := 0
  privKey : BitVec 256 := 0
  ident   : Option Nat := none
  boot    : Option Boot := none
  flash   : FwImage := {}
  fuseKey : BitVec 256 := 0
  fuseMin : Word := 0
  deriving DecidableEq, Repr

/-- A tenant on a device (R400). -/
structure Tenant where
  tvec   : DWord := 0
  troot  : DWord := 0
  hwin   : DWord := 0
  hwsz   : DWord := 0
  pwin   : DWord := 0
  pwsz   : DWord := 0
  shelfUp : Bool := false
  fenced : Bool := false
  shelf  : Nat := 0
  save   : DWord := 0
  imgsz  : Word := 0
  prq    : DWord := 0
  prqhd  : Word := 0
  prqtl  : Word := 0
  elog   : DWord := 0
  elhd   : Word := 0
  eltl   : BitVec 31 := 0
  lost   : Bool := false
  sched  : Word := 0x00070000
  msix   : Word := 0
  deriving DecidableEq, Repr

/-- Which agent moves in a step (log 2). -/
inductive Happening where
  | issue (gang : Nat)
  | event (e : Ev)
  | time (t : Nat)
  deriving DecidableEq, Repr

/-- The whole state. Stores are keyed as INVENTORY.md says. -/
structure State where
  time      : Nat
  agenda    : List Happening
  curGang   : Nat
  curSec    : Bool
  fresh     : Nat
  nextId    : Nat
  curEv     : Option Ev
  net       : List Ev
  mem       : Store Byte
  hostMem   : Store Byte
  poolMem   : Store Byte
  poolPois  : Store Bool
  smeta     : Store SMeta
  hold      : Store Hold
  homeTok   : Store (Nat × Bool)
  fences    : Store (Option Fence)
  clampTab  : Store (Option ClampEnt)
  homes     : Store HomeUnit
  trecAt    : Store Nat
  recastAct : Store Nat
  misses    : List Miss
  hints     : Store (List Nat)
  l2        : Store (Option L2Line)
  cores     : Store Core
  dies      : Store Die
  hubs      : Store Hub
  devs      : Store Dev
  tenants   : Store Tenant
  teamSlots : Store TeamSlot
  cohSlots  : Store CohortSlot
  teams     : Store (Option Team)
  gangs     : Store (Option Gang)
  accesses  : List Access
  walks     : List Walk
  xfers     : List Xfer
  mats      : List MatEnt
  lateColl  : List LateColl
  grants    : Store (Option Nat)
  irqs      : List (Nat × Nat × Nat)
  turn      : Nat
  deriving DecidableEq, Repr

/-- Why the machine stops. -/
inductive Fault where
  /-- Raised when the meaning of an instruction word is asked for while no resident gang is named to issue it:
  no agent of the machine could issue the word. Safe: nothing is claimed of such a state. -/
  | noIssuingGang
  deriving DecidableEq, Repr

/-- Why a meaning is missing. -/
inductive Refusal where
  /-- Raised by the dispatch for an instruction that has no meaning yet. Safe: the machine stops. -/
  | notModelled (mnemonic : String)
  deriving DecidableEq, Repr

/-- The machine right after reset: nothing listed anywhere, so that every register, counter and table reads its
reset value (the defaults above), memory bytes read 0 (log 1), and time stands at 0 (log 3). -/
def State.reset : State where
  time := 0
  agenda := []
  curGang := 0
  curSec := false
  fresh := 0
  nextId := 1
  curEv := none
  net := []
  mem := []
  hostMem := []
  poolMem := []
  poolPois := []
  smeta := []
  hold := []
  homeTok := []
  fences := []
  clampTab := []
  homes := []
  trecAt := []
  recastAct := []
  misses := []
  hints := []
  l2 := []
  cores := []
  dies := []
  hubs := []
  devs := []
  tenants := []
  teamSlots := []
  cohSlots := []
  teams := []
  gangs := []
  accesses := []
  walks := []
  xfers := []
  mats := []
  lateColl := []
  grants := []
  irqs := []
  turn := 0

/-- The word type of an outcome of this machine. -/
abbrev Out := Host.Outcome State Fault Refusal

end Sys2Proof.Machine
end

