-- ==== Sys2Proof/Machine/Base.lean ====
section
/-!
DEFINITION. Names and numbers of the machine's parts, and reading and updating the records of State.
-/
namespace Sys2Proof.Machine

/-! ### Numbering (R9, R16, R18, R242) -/

/-- Device of a die index. -/
def devOfDie (di : Nat) : Nat := di / 8
/-- Holder number of a die within its pod (R246). -/
def holderOfDie (di : Nat) : Nat := di % 256
/-- The home memory's holder number (R242). -/
def homeH : Nat := 320
/-- Sector key of a byte. -/
def sectorOf (dev pa : Nat) : Nat := dev * 2 ^ 36 + pa / 64
/-- Device of a sector. -/
def secDev (sec : Nat) : Nat := sec / 2 ^ 36
/-- Physical address of a sector. -/
def secPa (sec : Nat) : Nat := sec % 2 ^ 36 * 64
/-- Line key of a byte: two sectors to a line. -/
def lineOf (dev pa : Nat) : Nat := dev * 2 ^ 35 + pa / 128
/-- Line of a sector. -/
def lineOfSec (sec : Nat) : Nat := sec / 2
/-- Memory key of a device byte. -/
def memKey (dev pa : Nat) : Nat := dev * 2 ^ 42 + pa
/-- Pod (group) of a sector. -/
def secPod (sec : Nat) : Nat := secDev sec / 32
/-- Die index of holder `h` of the pod of a sector. -/
def dieOfHolder (sec h : Nat) : Nat := secPod sec * 256 + h
/-- Whether a physical address is backed (R16). -/
def backed (pa : Nat) : Bool :=
  if pa < 2 ^ 40 then pa % 2 ^ 37 < 0x1800000000 else pa < 3 * 2 ^ 40
/-- Slice of a physical address (R18). -/
def sliceOf (pa : Nat) : Nat :=
  (pa / 2 ^ 7 % 64) ^^^ (pa / 2 ^ 13 % 64) ^^^ (pa / 2 ^ 19 % 64) ^^^ (pa / 2 ^ 25 % 64) ^^^ (pa / 2 ^ 31 % 64) ^^^
  (pa / 2 ^ 37 % 32)
/-- Place of a sector's home in its device: die 0–7, or hub 8–9 (R16). -/
def homePlace (sec : Nat) : Nat :=
  let pa := secPa sec
  if pa < 2 ^ 40 then pa / 2 ^ 37 else if pa < 2 ^ 41 then 8 else 9
/-- Die index of a first-tier sector's home. -/
def homeDie (sec : Nat) : Option Nat :=
  if homePlace sec < 8 then some (8 * secDev sec + homePlace sec) else none
/-- Home unit of a sector (R242). -/
def unitOf (sec : Nat) : Nat := (secDev sec * 10 + homePlace sec) * 64 + sliceOf (secPa sec)
/-- Die-table key of the part that holds a home unit: a die index, or a hub key past every die (R261). -/
def partOfUnit (u : Nat) : Nat :=
  let x := u / 64 % 10
  let dev := u / 640
  if x < 8 then 8 * dev + x else 16384 + 2 * dev + (x - 8)
/-- Device of a home unit. -/
def devOfUnit (u : Nat) : Nat := u / 640
/-- Core key. -/
def coreKey (di core : Nat) : Nat := di * 48 + core
/-- Gang key. -/
def gangKey (team idx : Nat) : Nat := team * 256 + idx
/-- Tenant key. -/
def tenantKey (dev t : Nat) : Nat := dev * 16 + t
/-- Hub keys of the two host holders of a device (R246). -/
def hubHolder (dev h : Nat) : Nat := 256 + 2 * (dev % 32) + h

/-! ### Records -/

def State.gang? (s : State) (g : Nat) : Option Gang := Store.get none s.gangs g
def State.setGang (s : State) (g : Nat) (x : Gang) : State := { s with gangs := Store.set none s.gangs g (some x) }
def State.modGang (s : State) (g : Nat) (f : Gang → Gang) : State :=
  match s.gang? g with
  | some x => s.setGang g (f x)
  | none => s
def State.team? (s : State) (t : Nat) : Option Team := Store.get none s.teams t
def State.setTeam (s : State) (t : Nat) (x : Team) : State := { s with teams := Store.set none s.teams t (some x) }
def State.modTeam (s : State) (t : Nat) (f : Team → Team) : State :=
  match s.team? t with
  | some x => s.setTeam t (f x)
  | none => s
def State.cohort? (s : State) (c : Nat) : Option Cohort := (Store.get {} s.cohSlots c).cohort
def State.modCohort (s : State) (c : Nat) (f : Cohort → Cohort) : State :=
  { s with cohSlots := Store.upd {} s.cohSlots c fun sl => { sl with cohort := sl.cohort.map f } }
def State.core (s : State) (k : Nat) : Core := Store.get {} s.cores k
def State.modCore (s : State) (k : Nat) (f : Core → Core) : State := { s with cores := Store.upd {} s.cores k f }
def State.die (s : State) (k : Nat) : Die := Store.get {} s.dies k
def State.modDie (s : State) (k : Nat) (f : Die → Die) : State := { s with dies := Store.upd {} s.dies k f }
def State.hub (s : State) (k : Nat) : Hub := Store.get {} s.hubs k
def State.modHub (s : State) (k : Nat) (f : Hub → Hub) : State := { s with hubs := Store.upd {} s.hubs k f }
def State.dev (s : State) (k : Nat) : Dev := Store.get {} s.devs k
def State.modDev (s : State) (k : Nat) (f : Dev → Dev) : State := { s with devs := Store.upd {} s.devs k f }
def State.tenant (s : State) (k : Nat) : Tenant := Store.get {} s.tenants k
def State.modTenant (s : State) (k : Nat) (f : Tenant → Tenant) : State :=
  { s with tenants := Store.upd {} s.tenants k f }
def State.home (s : State) (u : Nat) : HomeUnit := Store.get {} s.homes u
def State.modHome (s : State) (u : Nat) (f : HomeUnit → HomeUnit) : State :=
  { s with homes := Store.upd {} s.homes u f }
def State.smetaOf (s : State) (sec : Nat) : SMeta := Store.get {} s.smeta sec
def State.modSmeta (s : State) (sec : Nat) (f : SMeta → SMeta) : State :=
  { s with smeta := Store.upd {} s.smeta sec f }
/-- Tokens of holder `h`, the home memory excepted. -/
def State.holdOf (s : State) (sec h : Nat) : Hold := Store.get {} s.hold (sec * 512 + h)
def State.setHold (s : State) (sec h : Nat) (x : Hold) : State :=
  { s with hold := Store.set {} s.hold (sec * 512 + h) x }
/-- Tokens of the home memory: count and owner (R243). -/
def State.homeTokOf (s : State) (sec : Nat) : Nat × Bool := Store.get (256, true) s.homeTok sec
def State.setHomeTok (s : State) (sec : Nat) (x : Nat × Bool) : State :=
  { s with homeTok := Store.set (256, true) s.homeTok sec x }
/-- Sends a message (R22). -/
def State.send (s : State) (i : Ev) : State := { s with net := s.net ++ [i] }
/-- What a slot of a gang waits for (R156). -/
def Gang.waitAt (g : Gang) (sec : Bool) : Wait := if sec then g.wait2 else g.wait
/-- A slot of a gang waits. -/
def Gang.setWait (g : Gang) (sec : Bool) (w : Wait) : Gang := if sec then { g with wait2 := w } else { g with wait := w }
/-- Both waits of a gang changed by `f`. -/
def Gang.mapWait (g : Gang) (f : Wait → Wait) : Gang := { g with wait := f g.wait, wait2 := f g.wait2 }
/-- A wait that no attempt of the word ends: an event ends it. -/
def Wait.blocked : Wait → Bool
  | .sleep _ | .watch .. | .acks => true
  | _ => false
/-- Whether a gang holds a fault split beside its primary slot (R156). -/
def Gang.split (g : Gang) : Bool := g.regs.sec.valid && g.regs.sec.kind = 1
/-- Whether every slot that could issue is blocked (R156). -/
def Gang.blocked (g : Gang) : Bool := g.wait.blocked && (!g.split || g.wait2.blocked)
/-- A wait of kind `w` ends in either slot. -/
def Gang.wake (g : Gang) (w : Wait) : Gang := g.mapWait fun x => if x = w then .ready else x
/-- Takes a message out of the network; `none` when it is not in flight. -/
def State.take (s : State) (i : Ev) : Option State :=
  if s.net.contains i then some { s with net := s.net.erase i } else none
/-- Whether the shelf returns poison for the line of a pool address (R270). -/
def State.poolBad (s : State) (a : Nat) : Bool := Store.get false s.poolPois (a / 64)
/-- A new identifier. -/
def State.newId (s : State) : Nat × State := (s.nextId, { s with nextId := s.nextId + 1 })
/-- The next free value's number (log 11). -/
def State.draw (s : State) : Nat × State := (s.fresh, { s with fresh := s.fresh + 1 })

/-- A store to a pool line: whether the shelf then clears its poison is the shelf's own concern (R270, log 11). -/
def State.poolStored (s : State) (a : Nat) : State :=
  if s.poolBad a then
    let (n, s) := s.draw
    if Config.freeBool n then { s with poolPois := Store.erase s.poolPois (a / 64) } else s
  else s

/-- Gang keys of a team of `n` gangs. -/
def teamGangs (t n : Nat) : List Nat := (List.range n).map (gangKey t)
/-- Applies `f` to every gang of a team. -/
def State.modGangs (s : State) (t n : Nat) (f : Gang → Gang) : State :=
  (teamGangs t n).foldl (fun s g => s.modGang g f) s
/-- Gangs per team. -/
def Cohort.ngangs (c : Cohort) : Nat := c.lr.gangs
/-- Device of a team's die. -/
def Team.dev (t : Team) : Nat := devOfDie t.die
/-- Tenant key of a team. -/
def State.tenKey (s : State) (t : Team) : Nat :=
  match s.cohort? t.cohort with
  | some c => tenantKey c.dev c.tenant
  | none => 0
/-- Bytes of a team's scratchpad, c × S (R24). -/
def Cohort.scratchBytes (c : Cohort) : Nat := c.lr.ncores * c.lr.share
/-- Handle of a cohort slot key and generation (R354). -/
def handleOf (key gen : Nat) : Nat := key / 256 % 8 * 2 ^ 24 + gen % 256 * 2 ^ 16 + key % 256
/-- Live teams, by key. -/
def State.teamList (s : State) : List (Nat × Team) :=
  s.teams.filterMap fun (k, t) => t.map fun t => (k, t)
/-- Live cohorts, by slot key. -/
def State.cohortList (s : State) : List (Nat × Cohort) :=
  s.cohSlots.filterMap fun (k, sl) => sl.cohort.map fun c => (k, c)
/-- Gangs present, by key. -/
def State.gangList (s : State) : List (Nat × Gang) :=
  s.gangs.filterMap fun (k, g) => g.map fun g => (k, g)

/-! ### The clocks of dies and the ports of hubs (R417–R420, R432) -/

/-- What the time without a notice does to a rate entry (R417): 8 more for each 2 µs, and one that reaches 256 is freed. -/
def Rate.recover (r : Rate) (now : Nat) : Option Rate :=
  let n := (now - r.recAt) / 2000
  if 256 ≤ r.rate + 8 * n then none else some { r with rate := r.rate + 8 * n, recAt := r.recAt + 2000 * n }
/-- A rate table as it is at a time. -/
def Die.recovered (d : Die) (now : Nat) : Die :=
  { d with rates := (d.rates.map fun p => (p.1, p.2.bind fun r => r.recover now)).filter fun p => p.2.isSome }
/-- A clock step (R419, R420): the counter is latched with the old clock, the rate table is lost, and relock begins. -/
def Die.stepClock (d : Die) (ts mhz : Nat) : Die :=
  { d with clkK := d.clkK + (ts - d.clkT0) * d.mhz / 1000, clkT0 := ts, mhz := mhz, steps := d.steps + 1, pendClk := none,
           relock := some (ts + 2000), rates := [] }
/-- A die as it is at a time, a clock step and the recovery of its rates that have come due included. -/
def Die.asOf (d : Die) (now : Nat) : Die :=
  (match d.pendClk with
   | some (ts, mhz) => if ts ≤ now then d.stepClock ts mhz else d
   | none => d).recovered now
/-- A die as it is now. -/
def State.dieNow (s : State) (di : Nat) : Die := (s.die di).asOf s.time
/-- The cycle counter of a die (R420). -/
def State.clk (s : State) (di : Nat) : Nat :=
  let d := s.dieNow di
  d.clkK + (s.time - d.clkT0) * d.mhz / 1000
/-- Whether a die relocks after a clock step: none of its parts advances until the relock ends (R419). -/
def State.relocking (s : State) (di : Nat) : Bool := (s.dieNow di).relock.isSome
/-- Whether the port that leads a device to the host is up (R432). -/
def State.hostUp (s : State) (dev : Nat) : Bool := (s.hub (2 * dev + if Config.hostPort dev then 1 else 0)).portUp

/-! ### What a word waits to read (R256, R262) -/

/-- Data of a sector comes for a word that waits to read it. -/
def Gang.sees (g : Gang) (sec : Nat) (d : BitVec 512) : Gang :=
  { g with eye := g.eye.map fun e => if e.1 = sec && e.2.isNone then (sec, some d) else e }
/-- The data that has come for the word at hand. -/
def Gang.seen (g : Gang) : List (Nat × BitVec 512) := g.eye.filterMap fun e => e.2.map fun d => (e.1, d)
/-- Key of a sector that a word waits to read, at its home or in the slice of the word's die. -/
def eyeKey (sec h : Nat) : Nat := if h = homeH then sec else sec + 2 ^ 50
/-- The gang waits to read a sector at a holder. -/
def State.awaits (s : State) (gid sec h : Nat) : State :=
  s.modGang gid fun g => { g with eye := (g.eye ++ [(eyeKey sec h, none)]).eraseDups }
/-- What has come of a sector at a holder for the word at hand. -/
def Gang.sight (g : Gang) (sec h : Nat) : Option (BitVec 512) := (g.seen.find? fun e => e.1 = eyeKey sec h).map (·.2)

/-! ### Lane masks -/

/-- Lanes 0 to 31. -/
def lanes : List Nat := List.range 32
/-- The mask of the lanes that satisfy `p`. -/
def maskOf (p : Nat → Bool) : BitVec 32 :=
  BitVec.ofNat 32 (lanes.foldl (fun a l => if p l then a + 2 ^ l else a) 0)
/-- The lanes of a mask, ascending. -/
def lanesOf (m : BitVec 32) : List Nat := lanes.filter m.getLsbD
/-- The lowest lane of a mask. -/
def lowLane (m : BitVec 32) : Option Nat := (lanesOf m).head?

end Sys2Proof.Machine
end

