-- ==== Sys2Proof/Machine/MemSys.lean ====
section
/-!
DEFINITION. The memory system below an access: sector data, the tokens of its holders, the L1 and its scope
filter, the L2 lines of a die, and translation (chapters 01, 08, 09, 10).
-/
namespace Sys2Proof.Machine

/-! ### Bytes of a sector -/

/-- `n` bytes of a 512-bit sector from byte `off`, little-endian. -/
def secGet (d : BitVec 512) (off n : Nat) : Nat := d.toNat / 2 ^ (8 * off) % 2 ^ (8 * n)
/-- The mask of `n` bytes from byte `off` of a sector, one bit per byte. -/
def byteMask (off n : Nat) : BitVec 64 := BitVec.ofNat 64 ((2 ^ n - 1) * 2 ^ off)
/-- Widens a byte mask to a bit mask. -/
def wideMask (m : BitVec 64) : BitVec 512 :=
  BitVec.ofNat 512 ((List.range 64).foldl (fun a i => if m.getLsbD i then a + 255 * 2 ^ (8 * i) else a) 0)
/-- Replaces `n` bytes from byte `off` with the low bytes of `v`. -/
def secPut (d : BitVec 512) (off n v : Nat) : BitVec 512 :=
  let m : BitVec 512 := BitVec.ofNat 512 ((2 ^ (8 * n) - 1) * 2 ^ (8 * off))
  (d &&& ~~~m) ||| (BitVec.ofNat 512 (v % 2 ^ (8 * n) * 2 ^ (8 * off)))
/-- The bytes of `a` where the mask is set, of `b` elsewhere. -/
def secMerge (m : BitVec 64) (a b : BitVec 512) : BitVec 512 :=
  (a &&& wideMask m) ||| (b &&& ~~~(wideMask m))

/-- The home memory's data of a sector. -/
def State.memSec (s : State) (sec : Nat) : BitVec 512 :=
  BitVec.ofNat 512 (ofBytes (readBytes s.mem (memKey (secDev sec) (secPa sec)) 64))
/-- Writes the home memory's data of a sector. -/
def State.putMemSec (s : State) (sec : Nat) (d : BitVec 512) : State :=
  { s with mem := writeBytes s.mem (memKey (secDev sec) (secPa sec)) (toBytes 64 d.toNat) }

/-! ### Tokens (R243, R244) -/

/-- The holders of a sector other than the home memory, with their tokens. -/
def State.holders (s : State) (sec : Nat) : List (Nat × Hold) :=
  s.hold.filterMap fun (k, h) => if k / 512 = sec then some (k % 512, h) else none
/-- Every token of a sector that some holder has; 256 unless some are in flight or lost (R243). -/
def State.tokensHeld (s : State) (sec : Nat) : Nat :=
  (s.holders sec).foldl (fun a p => a + p.2.count) (s.homeTokOf sec).1
/-- Whether a holder may read a sector (R244): it has a token and valid data. -/
def Hold.readable (o : Hold) : Bool := 0 < o.count && !o.bare
/-- The dirty data of a sector that no holder has: it travels with the owner token, or a recast has collected it (R259). -/
def State.flyData (s : State) (sec : Nat) : Option (BitVec 512) :=
  let cast := (s.smetaOf sec).cast
  let r := (s.home (unitOf sec)).recast.filter (·.sector = sec)
  match r.filter fun r => r.owner && r.dirty with
  | some r => some r.data
  | none => s.net.findSome? fun e => match e with
    | .tdat m | .tret m => if m.sector = sec && m.owner && m.dirty && m.cast = cast then some m.data else none
    | .trca m => if m.sector = sec && m.owner && m.dirty && r.any (·.old = m.cast) then some m.data else none
    | _ => none
/-- The current data of a sector: the dirty owner's, wherever the owner token is, otherwise the home memory's (R243). -/
def State.curData (s : State) (sec : Nat) : BitVec 512 :=
  match (s.holders sec).find? fun p => p.2.owner && p.2.dirty with
  | some (_, h) => h.data
  | none => (s.flyData sec).getD (s.memSec sec)
/-- Whether a host holder has tokens of a sector. -/
def State.hostHolds (s : State) (sec : Nat) : Bool :=
  (s.holders sec).any fun p => 256 ≤ p.1 && 0 < p.2.count
/-- Whether the page of a sector is being flipped (R268). -/
def State.flipping (s : State) (sec : Nat) : Bool :=
  (s.dev (secDev sec)).flips.any fun f => f.page = secPa sec / 65536
/-- State of the home unit for a sector (R257). -/
def State.secState (s : State) (sec : Nat) : HomeSt :=
  let u := s.home (unitOf sec)
  if u.recast.any fun r => r.sector = sec then .recast
  else match u.active.filter fun a => a.req.sector = sec with
    | some a => if a.dea then .deact else .active
    | none => if s.flipping sec then .flip else .idle
/-- Whether the home unit of a sector serves it with a clamp or a recast (R257). -/
def State.homeBusy (s : State) (sec : Nat) : Bool :=
  match s.secState sec with
  | .idle | .flip => false
  | _ => true
/-- Whether page `page` of a device is in host bias (R267). -/
def State.hostBias (s : State) (dev pa : Nat) : Bool := Store.get false (s.dev dev).bias (pa / 65536)
/-- Whether the stack or controller of a sector is on a fenced die (R412). -/
def State.homeFenced (s : State) (sec : Nat) : Bool := (s.die (partOfUnit (unitOf sec))).fenced

/-- Whether the home of a sector or a die that holds tokens of it relocks: it gives none until the relock ends (R419). -/
def State.relocks (s : State) (sec : Nat) : Bool :=
  s.relocking (partOfUnit (unitOf sec)) || (s.holders sec).any fun p => p.1 < 256 && s.relocking (dieOfHolder sec p.1)
/-- Whether every token of a sector can be moved at once: none in flight or lost, none with a host holder, the home unit idle for
the sector, and no part that has them relocking. -/
def State.movable (s : State) (sec : Nat) : Bool :=
  s.tokensHeld sec = 256 && !s.hostHolds sec && !s.homeBusy sec && !s.flipping sec && !s.homeFenced sec && !s.relocks sec

/-- Takes every token of a sector from every die. -/
def State.dropHolders (s : State) (sec : Nat) : State :=
  (s.holders sec).foldl (fun s p => s.setHold sec p.1 {}) s

/-- Gathers all 256 tokens and the data at a die's slice (R244). -/
def State.gather0 (s : State) (sec di : Nat) : Option State :=
  let h := holderOfDie di
  let mine := s.holdOf sec h
  if mine.count = 256 then some s
  else if s.movable sec then
    let d := s.curData sec
    let dirty := (s.holders sec).any fun p => p.2.owner && p.2.dirty
    some (((s.dropHolders sec).setHomeTok sec (0, false)).setHold sec h
      { count := 256, owner := true, dirty := dirty, cast := (s.smetaOf sec).cast, data := d })
  else none

/-- All 256 tokens at the home memory, its data current and the owner clean (R262). -/
def State.gatherHome0 (s : State) (sec : Nat) : Option State :=
  if (s.homeTokOf sec) = (256, true) then some s
  else if s.movable sec then
    some (((s.dropHolders sec).putMemSec sec (s.curData sec)).setHomeTok sec (256, true))
  else none

/-! ### L2 lines (R201–R206) -/

/-- Key of a line in a die's L2. -/
def l2Key (di line : Nat) : Nat := di * 2 ^ 48 + line
/-- Slice and set of a line: 64 slices of 1024 sets (R18). -/
def lineSet (line : Nat) : Nat :=
  let pa := line % 2 ^ 35 * 128
  sliceOf pa * 1024 + pa / 2 ^ 13 % 1024
/-- Lines of one set of a die's L2. -/
def State.setLines (s : State) (di line : Nat) : List (Nat × L2Line) :=
  s.l2.filterMap fun (k, x) =>
    if k / 2 ^ 48 = di && lineSet (k % 2 ^ 48) = lineSet line then x.map fun x => (k % 2 ^ 48, x) else none
/-- Bytes of a line as it is encoded: a sector that the die holds no copy of stands with its current data, wherever that is, which
R203 does not say (DESIGN CHOICE, log 93). -/
def State.lineData (s : State) (line : Nat) : List Nat :=
  let lo := (s.curData (2 * line)).toNat
  let hi := (s.curData (2 * line + 1)).toNat
  (List.range 32).map fun i => (if i < 16 then lo else hi) / 2 ^ (32 * (i % 16)) % 2 ^ 32
/-- Whether `x - y` is a signed `b`-bit delta of `w`-bit words. -/
def deltaFits (w b x y : Nat) : Bool :=
  let d := (x + 2 ^ w - y) % 2 ^ w
  d < 2 ^ (b - 1) || 2 ^ w - 2 ^ (b - 1) ≤ d
/-- Halves of a data entry that a line takes under R203: 1 when it encodes in 64 bytes or fewer, otherwise 2. -/
def lineHalves (ws : List Nat) : Nat :=
  let w0 := ws.headD 0
  let d0 := w0 + 2 ^ 32 * (ws.getD 1 0)
  let ds := (List.range 16).map fun i => ws.getD (2 * i) 0 + 2 ^ 32 * ws.getD (2 * i + 1) 0
  if ws.all (· = 0) then 1
  else if ws.all (deltaFits 32 8 · w0) then 1
  else if ws.all (fun w => deltaFits 32 8 w 0 || deltaFits 32 8 w w0) then 1
  else if ds.all (deltaFits 64 16 · d0) then 1
  else 2
/-- Data halves of a line in a set: a pinned line reserves a whole entry, a poisoned one is stored whole. -/
def State.halvesOf (s : State) (line : Nat) (x : L2Line) : Nat :=
  if x.pin.isSome || (s.smetaOf (2 * line)).pois || (s.smetaOf (2 * line + 1)).pois then 2
  else lineHalves (s.lineData line)
/-- Returns the tokens of one sector of a die to the home memory by TRET (R244). -/
def State.retTokens (s : State) (di sec : Nat) : State :=
  let h := holderOfDie di
  let o := s.holdOf sec h
  if o.count = 0 then s
  else (s.setHold sec h {}).send (.tret ⟨sec, homeH, o.cast, o.count, o.owner, o.dirty, h, s.time, o.data⟩)
/-- A line leaves a die's L2 (R244). -/
def State.evictLine (s : State) (di line : Nat) : State :=
  let s := (s.retTokens di (2 * line)).retTokens di (2 * line + 1)
  { s with l2 := Store.erase s.l2 (l2Key di line) }
/-- Whether every data entry of a line's set is reserved by pins (R204, R206). -/
def State.setPinned (s : State) (di line : Nat) : Bool :=
  16 ≤ ((s.setLines di line).filter (·.2.pin.isSome)).length
/-- The line that R202 replaces: the least recent without persist mark or pin, else with a persist mark. -/
def victim (ls : List (Nat × L2Line)) : Option Nat :=
  let pick (c : List (Nat × L2Line)) : Option (Nat × L2Line) :=
    c.foldl (fun b p => match b with
      | none => some p
      | some q => if p.2.age < q.2.age then some p else b) none
  match pick (ls.filter fun p => p.2.pin.isNone && !p.2.persist) with
  | some p => some p.1
  | none => (pick (ls.filter fun p => p.2.pin.isNone)).map (·.1)
/-- Whether a set holds more than its 32 tags or its 16 data entries (R18, R203). -/
def State.overfull (s : State) (di line : Nat) : Bool :=
  let ls := s.setLines di line
  32 < ls.length || 32 < ls.foldl (fun a p => a + s.halvesOf p.1 p.2) 0
/-- Replaces lines of a set other than `line` until the set fits, at most `n` of them (R202). -/
def State.trimSet (s : State) (di line : Nat) : Nat → State
  | 0 => s
  | n + 1 =>
    if !s.overfull di line then s
    else match victim ((s.setLines di line).filter (·.1 ≠ line)) with
      | some v => (s.evictLine di v).trimSet di line n
      | none => s
/-- The age of a line made most recent in its set, or least recent under the streaming policy (R201). -/
def State.freshAge (s : State) (di line : Nat) (stream : Bool) : Int :=
  let ages := ((s.setLines di line).filter (·.1 ≠ line)).map (·.2.age)
  if stream then ages.foldl min 0 - 1 else ages.foldl max 0 + 1
/-- Whether a demand access to a line that the die does not hold would bypass the L2 (R206). -/
def State.bypasses (s : State) (di line : Nat) : Bool :=
  (Store.get none s.l2 (l2Key di line)).isNone && s.setPinned di line
/-- Adds lines that bypassed a die's L2 to its count (R206). -/
def State.countBypass (s : State) (di n : Nat) : State := s.modDie di fun d => { d with pinbyp := d.pinbyp + n }
/-- Records a line in a die's L2 with its age and mark, and replaces others while its set does not fit: the line as it is
encoded now (R201–R203). A line that bypasses the L2 is not recorded (R206). -/
def State.touchLine (s : State) (di line : Nat) (stream persist : Bool) : State :=
  if s.bypasses di line then s
  else
    let k := l2Key di line
    let old := (Store.get none s.l2 k).getD {}
    let new : L2Line := { old with age := s.freshAge di line stream, persist := old.persist || persist }
    let s := { s with l2 := Store.set none s.l2 k (some new) }
    s.trimSet di line 64

/-! ### Transient requests (R251) -/

/-- Device, within its pod, of a holder of a sector. -/
def holderDev (sec h : Nat) : Nat :=
  if h < 256 then h / 8 else if h < 320 then (h - 256) / 2 else secDev sec % 32
/-- The 8 dies of a device, as holders of its pod. -/
def devHolders (dev : Nat) : List Nat := (List.range 8).map fun i => dev % 32 * 8 + i
/-- Slice of a line (R18). -/
def sliceOfLine (line : Nat) : Nat := sliceOf (line % 2 ^ 35 * 128)
/-- Entry of a slice's hint table that a line uses (R252). -/
def hintIx (di line : Nat) : Nat := l2Key di (sliceOfLine line * 4096 + Config.hintHash line % 4096)
/-- The dies that the hint table of a die's slice predicts for a sector, as holders of its pod (R252). -/
def State.hintsOf (s : State) (di sec : Nat) : List Nat := Store.get [] s.hints (hintIx di (lineOfSec sec))
/-- Enters a die in a hint table: at most four, the oldest dropped first (R252). -/
def State.addHint (s : State) (di sec h : Nat) : State :=
  { s with hints := Store.upd [] s.hints (hintIx di (lineOfSec sec)) fun ls =>
      if ls.contains h || 256 ≤ h then ls else if 4 ≤ ls.length then ls.drop 1 ++ [h] else ls ++ [h] }
/-- The dies that a requester's hint table predicts (R251, R252): a die's own slice; for the home unit of a first-tier sector the
slice of its home die; a unit of the second tier and a host holder have no such table (DEDUCED, log 98). -/
def State.hintsFor (s : State) (h sec : Nat) : List Nat :=
  if h < 256 then s.hintsOf (dieOfHolder sec h) sec
  else if h = homeH then ((homeDie sec).map fun di => s.hintsOf di sec).getD []
  else []
/-- The request set of an attempt (R251), the requester left out. -/
def State.requestSet (s : State) (h sec attempt : Nat) : List Nat :=
  let own := holderDev sec h
  let hint := s.hintsFor h sec
  let dev := secDev sec
  let second := devHolders own ++ hint ++ [hubHolder dev 0, hubHolder dev 1]
  let home := if h = homeH then [] else [homeH]
  let set := match attempt with
    | 1 => if hint.isEmpty then devHolders own else hint
    | 2 => second
    | _ => (hint.flatMap fun x => devHolders (x / 8)) ++ second
  (set.eraseDups.filter (· ≠ h)) ++ home
/-- Whether a request set reaches a device other than the requester's (R251). -/
def farSet (h sec : Nat) (set : List Nat) : Bool := set.any fun x => holderDev sec x ≠ holderDev sec h
/-- A holder's cast for a sector (R247): that of its tokens or of its fence entry; `none` when it has neither. -/
def State.castOf (s : State) (sec h : Nat) : Option (BitVec 8) :=
  let o := s.holdOf sec h
  if h = homeH then some (s.smetaOf sec).cast
  else if 0 < o.count then some o.cast
  else (Store.get none s.fences (sec * 512 + h)).map (·.cast)
/-- Sends the messages of one attempt of a request (R251), under the sender's cast, and where it has none under that of the home
(DESIGN CHOICE, log 69). -/
def State.sendAttempt (s : State) (h sec : Nat) (write : Bool) (attempt : Nat) : State :=
  let cast := (s.castOf sec h).getD (s.smetaOf sec).cast
  let m (dest : Nat) : TokMsg := ⟨sec, dest, cast, 0, false, false, h, s.time, 0⟩
  let evs := (s.requestSet h sec attempt).map fun d => if write then Ev.twr (m d) else Ev.trd (m d)
  { s with net := s.net ++ evs }
/-- A holder asks for the tokens of a sector that it lacks, unless it is asking already; the request of a pass that a demand
access joins becomes that access's (R384). -/
def State.request (s : State) (h sec : Nat) (write flux : Bool) : State :=
  let same (m : Miss) : Bool := m.holder = h && m.sector = sec && m.write = write
  if s.misses.any same then
    { s with misses := s.misses.map fun m => if same m then { m with flux := m.flux && flux } else m }
  else
    let far := farSet h sec (s.requestSet h sec 1)
    let m : Miss := ⟨h, sec, write, 1, s.time, s.time, far, false, flux⟩
    let s := { s with misses := s.misses ++ [m] }
    s.sendAttempt h sec write 1

/-! ### Circuit queues (R422, R423) -/

/-- A slot descriptor's length in µs, guard in ns and group mask (R422). -/
def slotLen (x : BitVec 128) : Nat := x.toNat % 2 ^ 12
def slotGuard (x : BitVec 128) : Nat := x.toNat / 2 ^ 16 % 2 ^ 12
def slotMask (x : BitVec 128) : DWord := x.extractLsb' 64 64
/-- The slots of a device's rotation: those before the first unused one (R422). -/
def Dev.rotation (d : Dev) : List (BitVec 128) :=
  ((List.range 16).map (Store.get 0 d.slots)).takeWhile fun x => slotLen x ≠ 0
/-- Rotation length in µs. -/
def Dev.rotLen (d : Dev) : Nat := (d.rotation.map slotLen).foldl (· + ·) 0
/-- The smallest guard of a rotation. -/
def Dev.minGuard (d : Dev) : Nat := ((d.rotation.map slotGuard).min?).getD 0
/-- The end of the rotation that runs at a time. -/
def Dev.rotEnd (d : Dev) (now : Nat) : Nat :=
  let n := 1000 * d.rotLen
  if n = 0 then now else d.startAt + ((now - d.startAt) / n + 1) * n
/-- The slot that runs at a place of the rotation, in ns, and the place within it. -/
def slotAt : List (BitVec 128) → Nat → Option (BitVec 128 × Nat)
  | [], _ => none
  | x :: rest, t => if t < 1000 * slotLen x then some (x, t) else slotAt rest (t - 1000 * slotLen x)
/-- The slot that runs now and the time since it began. -/
def Dev.slotNow (d : Dev) (now : Nat) : Option (BitVec 128 × Nat) :=
  slotAt d.rotation ((now - d.startAt) % (1000 * d.rotLen))
/-- Flits of so many bytes (R414). -/
def flitsOf (bytes : Nat) : Nat := max ((bytes + 255) / 256) 1
/-- A transfer, access or walk of a device for another group joins that group's queue while circuit mode runs, with the flits of its
bytes. -/
def State.circJoin (s : State) (dev g id bytes : Nat) : State :=
  if (s.dev dev).run && g ≠ dev / 32 then s.modDev dev fun d => { d with circQ := d.circQ ++ [⟨id, g, flitsOf bytes⟩] } else s
/-- Whether something waits in a device's queues. -/
def State.circWaits (s : State) (dev id : Nat) : Bool := (s.dev dev).circQ.any (·.id = id)
/-- The fibre pairs that each group of a mask has: the 64 are divided evenly (R423). -/
def pairsEach (mask : DWord) : Nat := 64 / max ((List.range 64).filter mask.getLsbD).length 1
/-- Sends up to `room` flits of a group's queue from its head: what is left of the queues, and of the room. -/
def sendFlits (g : Nat) : Nat → List CircEnt → List CircEnt × Nat
  | room, [] => ([], room)
  | room, e :: rest =>
    if e.group ≠ g then
      let r := sendFlits g room rest
      (e :: r.1, r.2)
    else if e.flits ≤ room then sendFlits g (room - e.flits) rest
    else ({ e with flits := e.flits - room } :: rest, 0)
/-- What a slot sends of the queue of one group by its end `stop`: each pair sends a flit in 4 ns, 8 wavelengths of 64 Gb/s together
(R414, R423). -/
def Dev.sendGroup (d : Dev) (now stop pairs g : Nat) : Dev :=
  let start := max now (Store.get 0 d.circTill g)
  let room := (stop - start) * pairs / 4
  let r := sendFlits g room d.circQ
  if room = r.2 then d
  else { d with circQ := r.1, circTill := Store.set 0 d.circTill g (start + (4 * (room - r.2) + pairs - 1) / pairs) }
/-- The queues of a device after the slot of this moment has sent from their heads the flits that finish before it ends; during its
guard no data moves (R423). -/
def Dev.sendSlot (d : Dev) (now : Nat) : Dev :=
  match d.slotNow now with
  | none => d
  | some (x, t) =>
    if t < slotGuard x then d
    else ((List.range 64).filter (slotMask x).getLsbD).foldl
      (fun d g => d.sendGroup now (now - t + 1000 * slotLen x) (pairsEach (slotMask x)) g) d
/-- When a device next sends from its queues in circuit mode: now, where the slot has room left, or at the end of a guard. -/
def Dev.circNext (d : Dev) (now : Nat) : Option Nat :=
  if !d.run || d.circQ.isEmpty then none
  else (d.slotNow now).bind fun (x, t) =>
    let stop := now - t + 1000 * slotLen x
    if t < slotGuard x then some (now - t + slotGuard x)
    else if (d.sendSlot now).circQ ≠ d.circQ then some now
    else (d.slotNow stop).map fun y => stop + slotGuard y.1

/-! ### The L1 and its publication (R239) -/

/-- L1 key of a sector; private lines have keys of their own (R201). -/
def l1Key (sec : Nat) (priv : Bool) : Nat := if priv then sec + 2 ^ 50 else sec
def State.l1Of (s : State) (ck key : Nat) : L1Sec := Store.get {} (s.core ck).l1 key
def State.setL1 (s : State) (ck key : Nat) (x : L1Sec) : State :=
  s.modCore ck fun c => { c with l1 := Store.set {} c.l1 key x }
/-- Bytes of an L1 sector, when every one is valid. -/
def L1Sec.read (x : L1Sec) (off n : Nat) : Option Nat :=
  if byteMask off n &&& ~~~x.valid = 0 then some (secGet x.data off n) else none
/-- Fills the bytes of an L1 sector that are not dirty. -/
def L1Sec.fill (x : L1Sec) (d : BitVec 512) : L1Sec :=
  { x with data := secMerge x.dirty x.data d, valid := BitVec.allOnes 64 }
/-- An L1 sector once its dirty bytes have been published. -/
def L1Sec.clean (x : L1Sec) : L1Sec :=
  { x with dirty := 0, since := 0, pol := 0, whole := false, asked := false, writers := [] }
/-- An L1 sector that a team has just stored into at a pointer under a policy. -/
def L1Sec.stored (x : L1Sec) (team : Nat) (p : DWord) (pol : Nat) : L1Sec :=
  { x with pol := pol, writers := if x.writers.any (·.1 = team) then x.writers else x.writers ++ [(team, p)] }
/-- Keeps the dirty bytes of an L1 sector alone. -/
def L1Sec.onlyDirty (x : L1Sec) : L1Sec := if x.dirty = 0 then {} else { x with valid := x.dirty }
/-- Writes dirty bytes. -/
def L1Sec.write (x : L1Sec) (off n v now : Nat) : L1Sec :=
  { x with data := secPut x.data off n v, valid := x.valid ||| byteMask off n, dirty := x.dirty ||| byteMask off n,
           since := if x.dirty = 0 then now else x.since }

/-- Entry of a die's scope filters that a line uses: 4096 to a slice (R239). -/
def scfIx (line : Nat) : Nat := sliceOfLine line * 4096 + Config.scopeHash line % 4096
/-- Writes into an L1 sector and sets the core's bit in the slice's scope filter for the line. -/
def State.l1Write (s : State) (ck sec : Nat) (priv : Bool) (off n v : Nat) : State :=
  let key := l1Key sec priv
  let s := s.setL1 ck key { (s.l1Of ck key).write off n v s.time with priv := priv }
  if priv then s
  else s.modDie (ck / 48) fun d =>
    { d with scf := Store.upd 0 d.scf (scfIx (lineOfSec sec)) fun m => m ||| (1#48 <<< (ck % 48)) }

/-- The other sector of a line. -/
def mateSec (sec : Nat) : Nat := if sec % 2 = 0 then sec + 1 else sec - 1
/-- The dirty bytes of an L1 sector have been published: where one ST wrote all 64, its poison is cleared (R190). -/
def State.published (s : State) (ck key sec : Nat) (x : L1Sec) : State :=
  (if x.whole then s.modSmeta sec fun m => { m with pois := false } else s).setL1 ck key x.clean
/-- Writes the dirty bytes of one L1 sector to slice s of the core's die with all tokens, where their line takes its place under the
policy they were stored with (R201), or to the home when every entry of the set is pinned: the line counts once, with the last of
its sectors (R206). -/
def State.pubSec (s : State) (ck sec : Nat) : Option State :=
  let x := s.l1Of ck sec
  let di := ck / 48
  if x.dirty = 0 then some s
  else if s.bypasses di (lineOfSec sec) || s.hostBias (secDev sec) (secPa sec) then
    match s.gatherHome0 sec with
    | none => none
    | some t =>
      some (((t.putMemSec sec (secMerge x.dirty x.data (t.memSec sec))).published ck sec sec x).countBypass di
        (if t.hostBias (secDev sec) (secPa sec) || (t.l1Of ck (mateSec sec)).dirty ≠ 0 then 0 else 1))
  else
    let h := holderOfDie di
    let o := s.holdOf sec h
    if o.count ≠ 256 then none
    else some (((s.setHold sec h { o with data := secMerge x.dirty x.data o.data, dirty := true }).published ck sec sec x).touchLine
      di (lineOfSec sec) (x.pol = 1) (x.pol = 3))

/-- Sectors of a core with dirty bytes of ordinary lines. -/
def State.dirtySecs (s : State) (ck : Nat) : List Nat :=
  (s.core ck).l1.filterMap fun (k, x) => if x.dirty ≠ 0 && !x.priv then some k else none

/-- The tokens that a publication of a sector needs are asked for: at the die's slice, or at the home where it is to write
there (R206, R267). -/
def State.askPub (s : State) (ck sec : Nat) : State :=
  if s.bypasses (ck / 48) (lineOfSec sec) || s.hostBias (secDev sec) (secPa sec) then s.request homeH sec true false
  else s.request (holderOfDie (ck / 48)) sec true false
/-- The publication of a sector waits for its tokens, which are asked for. -/
def State.putOff (s : State) (ck sec : Nat) : State := (s.setL1 ck sec { s.l1Of ck sec with asked := true }).askPub ck sec
/-- Whether the publication of everything that a core has dirty waits for tokens (R239). -/
def State.publishing (s : State) (ck : Nat) : Bool :=
  let ls := (s.core ck).l1.filter fun e => e.2.dirty ≠ 0 && !e.2.priv
  !ls.isEmpty && ls.all fun e => e.2.asked
/-- Clears a core's bit in its die's scope filter for a line, unless the core has dirty bytes of another line of the same
entry (log 75). -/
def State.unmark (s : State) (ck line : Nat) : State :=
  if (s.dirtySecs ck).any fun sec => scfIx (lineOfSec sec) = scfIx line then s
  else s.modDie (ck / 48) fun d => { d with scf := Store.upd 0 d.scf (scfIx line) fun m => m &&& ~~~(1#48 <<< (ck % 48)) }
/-- Publishes all narrow dirty bytes of a core and clears its bits in every filter; false when some sector's
tokens are still in flight (R239). -/
def State.publishCore (s : State) (ck : Nat) : Bool × State :=
  let r := (s.dirtySecs ck).foldl (fun (acc : Bool × State) sec =>
    match acc.2.pubSec ck sec with
    | some s => (acc.1, s)
    | none => (false, acc.2.putOff ck sec)) (true, s)
  if r.1 then
    (true, r.2.modDie (ck / 48) fun d =>
      { d with scf := (d.scf.map fun (k, m) => (k, m &&& ~~~(1#48 <<< (ck % 48)))).filter (·.2 ≠ 0) })
  else r

/-- Drops the clean lines of a core's L1, as a wide acquire does (R239). -/
def State.dropCleanAll (s : State) (ck : Nat) : State :=
  s.modCore ck fun c => { c with l1 := (c.l1.map fun p =>
    if p.2.priv then p else (p.1, p.2.onlyDirty)).filter fun p => p.2 ≠ {} }

/-- A filter hit has a core publish: the publication counts as forced unless one of the core is already under way (R239). -/
def State.forceCore (s : State) (di c : Nat) : Bool × State :=
  (if s.publishing (coreKey di c) then s else s.modDie di fun d => { d with scfForced := min (d.scfForced + 1) 0xFFFFFFFF }).publishCore
    (coreKey di c)
/-- A slice access or a token request that meets a filter entry: the named cores publish first (R239, R250). -/
def State.forcePublish (s : State) (di sec : Nat) : Bool × State :=
  let m := Store.get 0 (s.die di).scf (scfIx (lineOfSec sec))
  ((List.range 48).filter m.getLsbD).foldl (fun (acc : Bool × State) c =>
    let r := acc.2.forceCore di c
    (acc.1 && r.1, r.2)) (true, s)

/-- Publication by every die that holds tokens of a sector (R250); one that relocks publishes nothing before its end (R419). -/
def State.forceAll (s : State) (sec : Nat) : Bool × State :=
  (s.holders sec).foldl (fun (acc : Bool × State) p =>
    if p.1 < 256 then
      let r := if acc.2.relocking (dieOfHolder sec p.1) then (false, acc.2) else acc.2.forcePublish (dieOfHolder sec p.1) sec
      (acc.1 && r.1, r.2)
    else acc) (true, s)

/-- All 256 tokens at a die's slice, every marked core having published. -/
def State.gather (s : State) (sec di : Nat) : Option State :=
  if (s.holdOf sec (holderOfDie di)).count = 256 then
    let r := s.forcePublish di sec
    if r.1 then some r.2 else none
  else
    let r := s.forceAll sec
    if r.1 then
      let r := r.2.forcePublish di sec
      if r.1 then r.2.gather0 sec di else none
    else none

/-- One token and the data at a die's slice, for a fill or an engine read (R210, R244): a non-owner token of the
owner, or the owner token itself when it is the last. -/
def State.share (s : State) (sec di : Nat) : Option State :=
  let h := holderOfDie di
  if (s.holdOf sec h).readable then
    let r := s.forcePublish di sec
    if r.1 then some r.2 else none
  else
    let r := s.forceAll sec
    if !r.1 then none
    else
      let s := r.2
      if s.homeBusy sec || s.flipping sec || s.homeFenced sec || s.relocks sec then none
      else
        let cast := (s.smetaOf sec).cast
        let bare := (s.holdOf sec h).count
        let (n, own) := s.homeTokOf sec
        if own && 0 < n then
          if n = 1 then
            some ((s.setHomeTok sec (0, false)).setHold sec h
              { count := bare + 1, owner := true, dirty := false, cast := cast, data := s.memSec sec })
          else
            some ((s.setHomeTok sec (n - 1, true)).setHold sec h
              { count := bare + 1, owner := false, dirty := false, cast := cast, data := s.memSec sec })
        else
          match (s.holders sec).find? fun p => p.1 < 256 && p.2.owner with
          | some (p, o) =>
            if o.count = 1 then some ((s.setHold sec p {}).setHold sec h { o with count := bare + 1 })
            else some ((s.setHold sec p { o with count := o.count - 1 }).setHold sec h
              { o with count := bare + 1, owner := false, dirty := false })
          | none => none

/-- All 256 tokens at the home memory, every marked core having published. -/
def State.gatherHome (s : State) (sec : Nat) : Option State :=
  let r := s.forceAll sec
  if !r.1 then none
  else
    r.2.gatherHome0 sec

/-- One token at a die's slice, asked for when it cannot be moved at once. -/
def State.shareAsk (s : State) (sec di : Nat) : Bool × State :=
  match s.share sec di with
  | some s => (true, s)
  | none => (false, s.request (holderOfDie di) sec false false)
/-- All tokens at a die's slice, asked for when they cannot be moved at once. -/
def State.gatherAsk (s : State) (sec di : Nat) : Bool × State :=
  match s.gather sec di with
  | some s => (true, s)
  | none => (false, s.request (holderOfDie di) sec true false)
/-- Publication of one L1 sector, its tokens asked for when they cannot be moved at once. -/
def State.pubAsk (s : State) (ck sec : Nat) : Bool × State :=
  match s.pubSec ck sec with
  | some s => (true, s)
  | none => (false, s.putOff ck sec)

/-! ### System reads and writes -/

/-- One coherent byte of device memory. -/
def State.sysByte (s : State) (dev pa : Nat) : Byte :=
  let sec := sectorOf dev pa
  BitVec.ofNat 8 (secGet (s.curData sec) (pa % 64) 1)
/-- `n` coherent bytes of device memory, the lowest first. -/
def State.sysRead (s : State) (dev pa n : Nat) : List Byte := (List.range n).map fun i => s.sysByte dev (pa + i)
/-- A message with the data of a sector that it carries changed by `f`. -/
def Ev.patch (sec : Nat) (f : BitVec 512 → BitVec 512) : Ev → Ev
  | .tdat m => .tdat (if m.sector = sec then { m with data := f m.data } else m)
  | .tret m => .tret (if m.sector = sec then { m with data := f m.data } else m)
  | .trca m => .trca (if m.sector = sec then { m with data := f m.data } else m)
  | e => e
/-- Writes one coherent byte: wherever the sector's data is, at its holders, in messages and in a recast, and at the home
memory (log 6). -/
def State.sysPutByte (s : State) (dev pa : Nat) (b : Byte) : State :=
  let sec := sectorOf dev pa
  let f (d : BitVec 512) : BitVec 512 := secPut d (pa % 64) 1 b.toNat
  let s := (s.holders sec).foldl (fun s p => s.setHold sec p.1 { p.2 with data := f p.2.data }) s
  let s := s.modHome (unitOf sec) fun u =>
    { u with recast := u.recast.map fun r => if r.sector = sec then { r with data := f r.data } else r }
  let s := { s with net := s.net.map (Ev.patch sec f) }
  { s with mem := Store.set 0 s.mem (memKey dev pa) b }
/-- Writes coherent bytes of device memory. -/
def State.sysWrite (s : State) (dev pa : Nat) : List Byte → State
  | [] => s
  | b :: rest => (s.sysPutByte dev pa b).sysWrite dev (pa + 1) rest

/-- Writes a private line's dirty bytes back to memory (R201). -/
def State.privBack (s : State) (ck sec : Nat) : State :=
  let x := s.l1Of ck (l1Key sec true)
  if x.dirty = 0 then s
  else
    let d := secMerge x.dirty x.data (s.curData sec)
    (s.sysWrite (secDev sec) (secPa sec) (toBytes 64 d.toNat)).published ck (l1Key sec true) sec x

/-! ### L1 lines (R201, log 8) -/

/-- Lines of a core's L1: 256 KiB of 128 bytes. -/
def l1Lines : Nat := 2048
/-- The recency of a line just used in a core's L1, least under the streaming policy. -/
def State.l1Age (s : State) (ck key : Nat) (stream : Bool) : Int :=
  let ages := ((s.core ck).l1.filter fun e => e.1 / 2 ≠ key / 2).map (·.2.age)
  if stream then ages.foldl min 0 - 1 else ages.foldl max 0 + 1
/-- Takes one L1 sector out: its dirty bytes are published or, of a private line, written back. -/
def State.l1Out (s : State) (ck key : Nat) : State :=
  let x := s.l1Of ck key
  if x.priv then (s.privBack ck (key - 2 ^ 50)).setL1 ck key {}
  else
    let r := s.pubAsk ck key
    if r.1 then r.2.setL1 ck key {} else r.2
/-- Takes the least recent line out of a core's full L1, one without narrow dirty bytes before others. -/
def State.l1Trim (s : State) (ck key : Nat) : State :=
  let l1 := (s.core ck).l1
  if (l1.map (·.1 / 2)).eraseDups.length ≤ l1Lines then s
  else
    let mine := l1.filter fun e => e.1 / 2 ≠ key / 2
    let dirty (k : Nat) : Bool := l1.any fun e => e.1 / 2 = k / 2 && e.2.dirty ≠ 0 && !e.2.priv
    let pick (c : List (Nat × L1Sec)) : Option Nat := (c.foldl (fun (b : Option (Nat × L1Sec)) p => match b with
      | none => some p
      | some q => if p.2.age < q.2.age then some p else b) none).map (·.1)
    match (pick (mine.filter fun e => !dirty e.1)).orElse fun _ => pick mine with
    | some v => ((l1.map (·.1)).filter fun k => k / 2 = v / 2).foldl (fun s k => s.l1Out ck k) s
    | none => s
/-- An L1 sector has been used: its line's recency, and another line's place when the L1 is full. -/
def State.l1Used (s : State) (ck key : Nat) (stream : Bool) : State :=
  (s.setL1 ck key { s.l1Of ck key with age := s.l1Age ck key stream }).l1Trim ck key
/-- Fills an L1 sector with data and its line's recency. -/
def State.l1Fill (s : State) (ck key : Nat) (d : BitVec 512) (stream : Bool) : State :=
  (s.setL1 ck key { (s.l1Of ck key).fill d with fillAt := s.time, priv := 2 ^ 50 ≤ key }).l1Used ck key stream

/-! ### Translation (R192–R196) -/

/-- What a lookup of a page gives. -/
inductive Look where
  | hit (e : Tlb)
  | miss
  deriving DecidableEq, Repr

/-- Whether a TLB entry covers a page of a tenant's tables on a device. -/
def Tlb.covers (e : Tlb) (tenant dev page : Nat) : Bool :=
  e.tenant = tenant && e.dev = dev && e.group = page / 16 && e.mask.getLsbD (page % 16)
/-- Physical address of a byte of a covered page. -/
def Tlb.pa (e : Tlb) (va : Nat) : Nat := ((e.pfn0 + (va / 65536 % 16 : Nat)).toNat) * 65536 + va % 65536
/-- Looks a page up in the core's L1 TLB and then in the die's L2 TLB (R197). -/
def State.look (s : State) (ck tenant dev page : Nat) : Look :=
  match (s.core ck).ltlb.find? (·.covers tenant dev page) with
  | some e => .hit e
  | none =>
    match (s.die (ck / 48)).tlb.find? (·.covers tenant dev page) with
    | some e => .hit e
    | none => .miss

/-- An 8-byte table entry. -/
def State.entryAt (s : State) (dev pa : Nat) : Nat := ofBytes (s.sysRead dev pa 8)
/-- Whether the read of a table entry finds its sector poisoned (R193, R412). -/
def State.poisonAt (s : State) (dev pa : Nat) : Bool :=
  (s.smetaOf (sectorOf dev pa)).pois || s.homeFenced (sectorOf dev pa)

/-- Follows one non-leaf level: the next table, or the fault cause. -/
def State.walkLevel (s : State) (dev table idx : Nat) : Except Nat Nat :=
  let a := table + 8 * idx
  if s.poisonAt dev a then .error 5
  else
    let e := s.entryAt dev a
    if e % 2 = 0 then .error 1
    else if e / 2 % 2 ^ 14 ≠ 0 || e / 2 ^ 42 ≠ 0 then .error 4
    else
      let next := e / 2 ^ 15 % 2 ^ 27 * 2 ^ 15
      if backed next then .ok next else .error 6

/-- The level-0 table of a page, or the fault cause. -/
def State.walkTable (s : State) (dev tenant page : Nat) : Except Nat Nat :=
  let root := (s.tenant (tenantKey dev tenant)).troot.toNat
  if root % 2 = 0 then .error 1
  else
    let t2 := root / 2 ^ 15 % 2 ^ 27 * 2 ^ 15
    if !backed t2 then .error 6
    else match s.walkLevel dev t2 (page / 2 ^ 24 % 4096) with
      | .error c => .error c
      | .ok t1 => s.walkLevel dev t1 (page / 2 ^ 12 % 4096)

/-- PFN of a leaf entry. -/
def leafPfn (e : Nat) : Nat := e / 2 ^ 16 % 2 ^ 26
/-- Bit `i` of an entry. -/
def ebit (e i : Nat) : Bool := e / 2 ^ i % 2 = 1

/-- A walk of a page (R193, R194): the merged entry of its group, or the page-fault cause; a page whose leaf lies outside memory is
not installed with the others (R17). -/
def State.walk (s : State) (dev tenant page : Nat) : WalkRes :=
  match s.walkTable dev tenant page with
  | .error c => .flt c 0
  | .ok t0 =>
    let a := t0 + 8 * (page % 4096)
    if s.poisonAt dev a then .flt 5 0
    else
      let e := s.entryAt dev a
      if !ebit e 0 then .flt 1 (e % 16)
      else if e / 2 ^ 4 % 2 ^ 12 ≠ 0 || e / 2 ^ 42 ≠ 0 then .flt 4 (e % 16)
      else if !backed (leafPfn e * 65536) then .flt 6 (e % 16)
      else if !ebit e 1 then .flt 2 (e % 16)
      else
        let base := t0 + 8 * (page % 4096 / 16 * 16)
        let pfn0 : Int := leafPfn e - (page % 16 : Nat)
        let good (i : Nat) : Bool :=
          i = page % 16 ||
          (let x := s.entryAt dev (base + 8 * i)
           backed (leafPfn x * 65536) && ebit x 0 && ebit x 1 && (ebit x 2 = ebit e 2) &&
            (ebit x 3 = ebit e 3) && (leafPfn x : Int) = pfn0 + i)
        .ok { tenant := tenant, dev := dev, group := page / 16, pfn0 := pfn0,
              mask := BitVec.ofNat 16 ((List.range 16).foldl (fun m i => if good i then m + 2 ^ i else m) 0),
              w := ebit e 2, x := ebit e 3, at_ := s.time }

/-- Installs an entry in a core's L1 TLB of 2048 entries, the one installed longest ago giving way (R194, log 8). -/
def State.installL1 (s : State) (ck : Nat) (e : Tlb) : State := s.modCore ck fun c => { c with ltlb := (e :: c.ltlb).take 2048 }
/-- Installs an entry in a die's L2 TLB of 32 Ki entries and in a core's L1 TLB (R194, log 8). -/
def State.install (s : State) (di : Nat) (core : Option Nat) (e : Tlb) : State :=
  let s := s.modDie di fun d => { d with tlb := (e :: d.tlb).take 32768 }
  match core with
  | some ck => s.installL1 ck e
  | none => s
/-- Reads a sector at its home for a die that does not cache it (R206, R262, R267): the home needs the owner token, which it asks for
otherwise. -/
def State.homeShare (s : State) (sec : Nat) : Bool × State :=
  let r := s.forceAll sec
  if !r.1 || s.flipping sec || s.relocking (partOfUnit (unitOf sec)) then (false, r.2)
  else if (r.2.homeTokOf sec).2 then (true, r.2) else (false, r.2.request homeH sec false false)
/-- Reads the sectors of table entries through a die's slice, as a walk does (R213), or at the home where the die caches none of
them (R206, R267): whether each could be read, the tokens that lack asked for. -/
def State.walkSecs (s : State) (di dev : Nat) (pas : List Nat) : Bool × State :=
  pas.foldl (fun (acc : Bool × State) pa =>
    let sec := sectorOf dev pa
    if acc.2.poisonAt dev pa then acc
    else if acc.2.hostBias dev pa || acc.2.bypasses di (lineOfSec sec) then
      let r := acc.2.homeShare sec
      (acc.1 && r.1, r.2)
    else
      let r := acc.2.shareAsk sec di
      (acc.1 && r.1, if r.1 then r.2.touchLine di (lineOfSec sec) false false else r.2)) (true, s)
/-- The addresses of the table entries that a walk of a page reads: the two upper entries and the whole line of the leaf, as far as
the tables lead (R193, R194). -/
def State.walkPas (s : State) (dev tenant page : Nat) : List Nat :=
  let root := (s.tenant (tenantKey dev tenant)).troot.toNat
  let t2 := root / 2 ^ 15 % 2 ^ 27 * 2 ^ 15
  if root % 2 = 0 || !backed t2 then []
  else
    let a2 := t2 + 8 * (page / 2 ^ 24 % 4096)
    match s.walkLevel dev t2 (page / 2 ^ 24 % 4096) with
    | .error _ => [a2]
    | .ok t1 =>
      let a1 := t1 + 8 * (page / 2 ^ 12 % 4096)
      match s.walkLevel dev t1 (page / 2 ^ 12 % 4096) with
      | .error _ => [a2, a1]
      | .ok t0 =>
        let line := t0 + 8 * (page % 4096 / 16 * 16)
        [a2, a1, line, line + 64]
/-- The lines of a walk's table reads that bypass a die's L2 (R206). -/
def State.walkBypass (s : State) (di dev tenant page : Nat) : Nat :=
  ((((s.walkPas dev tenant page).filter fun pa => !s.poisonAt dev pa && !s.hostBias dev pa).map (lineOf dev)).eraseDups.filter
    (s.bypasses di)).length
/-- The table reads of a walk as ordinary reads through a die's L2 (R194, R213), one level after the other. -/
def State.walkReads (s : State) (di dev tenant page : Nat) : Bool × State :=
  let level (acc : Bool × State) (n : Nat) : Bool × State :=
    if acc.1 then acc.2.walkSecs di dev ((acc.2.walkPas dev tenant page).take n) else acc
  let r := [1, 2, 4].foldl level (true, s)
  if r.1 then (true, r.2.countBypass di (r.2.walkBypass di dev tenant page)) else r

/-- The walk of a page that a die runs, if there is one (R195). -/
def State.findWalk (s : State) (di tenant dev page : Nat) : Option Walk :=
  s.walks.find? fun w => w.die = di && w.tenant = tenant && w.dev = dev && w.page = page && w.res.isNone
/-- Starts a walk of a page for a gang, or joins the one that runs; at most 64 run at once on a die (R195). A page
of another device sends a walk request to its walkers (R196). -/
def State.startWalk (s : State) (di tenant dev page gang : Nat) (fab : Bool) : Bool × State :=
  match s.findWalk di tenant dev page with
  | some w =>
    let ws := s.walks.map fun x =>
      if x.id = w.id && !x.waiters.contains gang then { x with waiters := gang :: x.waiters } else x
    (false, { s with walks := ws })
  | none =>
    if 64 ≤ (s.walks.filter fun w => w.die = di && w.res.isNone).length then (false, s)
    else
      let (id, s) := s.newId
      let remote := dev ≠ devOfDie di
      let w : Walk := ⟨id, di, tenant, dev, page, fab, remote, [gang], none, none⟩
      let s := { s with walks := s.walks ++ [w] }
      let s := s.circJoin (devOfDie di) (dev / 32) id 16
      (true, if remote then s.send (.remoteWalkRequest id) else s)
/-- Takes the fault a finished walk left for a gang: the gang stops waiting on it. -/
def State.dropWaiter (s : State) (id gang : Nat) : State :=
  let ws := s.walks.map fun w => if w.id = id then { w with waiters := w.waiters.erase gang } else w
  { s with walks := ws.filter fun w => w.res.isNone || !w.waiters.isEmpty }

end Sys2Proof.Machine
end

