-- ==== Sys2Proof/Machine/Ops.lean ====
section
/-!
DEFINITION. The named operations over registers, lanes, teams and cohorts; taking an exception (R153, R394) and
returning from one (R395); the end of gangs, teams and cohorts; and the tenant's logs and interrupts (R402).
-/
namespace Sys2Proof.Machine

/-! ### Registers (R30–R37, R44) -/

/-- Vector register `r` of lane `l`; v255 reads zero (R31). -/
def Regs.v (x : Regs) (r l : Nat) : Word := if 255 ≤ r then 0 else Store.get 0 x.vregs (32 * r + l)
/-- Vector pair of a lane, low word first. -/
def Regs.v2 (x : Regs) (r l : Nat) : DWord := (x.v (r + 1) l) ++ (x.v r l)
/-- Uniform register; k127 reads zero (R31). -/
def Regs.k (x : Regs) (r : Nat) : Word := if 127 ≤ r then 0 else Store.get 0 x.kregs r
/-- Uniform pair (R35). -/
def Regs.k2 (x : Regs) (r : Nat) : DWord := (x.k (r + 1)) ++ (x.k r)
/-- Lane predicate as a mask; p7 reads true (R31, R36). -/
def Regs.p (x : Regs) (n : Nat) : BitVec 32 := if n = 7 then BitVec.allOnes 32 else Store.get 0 x.preds n
/-- Uniform predicate; q7 reads true. -/
def Regs.q (x : Regs) (n : Nat) : Bool := n = 7 || x.qpreds.getLsbD n
/-- Moment register. -/
def Regs.m (x : Regs) (n : Nat) : BitVec 128 := Store.get emptyTriple x.moms n
/-- Nesting-depth counter of a lane (R41). -/
def Regs.c (x : Regs) (l : Nat) : Nat := Store.get 0 x.depth l

/-- Sets a vector register's full/empty bit (R43); v255 stays full. -/
def Regs.setVFull (x : Regs) (r : Nat) (b : Bool) : Regs :=
  if 255 ≤ r then x
  else { x with vfull := if b then x.vfull ||| (1#256 <<< r) else x.vfull &&& ~~~(1#256 <<< r) }
/-- Sets a uniform register's full/empty bit; k127 stays full. -/
def Regs.setKFull (x : Regs) (r : Nat) (b : Bool) : Regs :=
  if 127 ≤ r then x
  else { x with kfull := if b then x.kfull ||| (1#128 <<< r) else x.kfull &&& ~~~(1#128 <<< r) }
/-- Whether a register is full (R31, R43). -/
def Regs.isFull (x : Regs) : RegRef → Bool
  | .v n => 255 ≤ n || x.vfull.getLsbD n
  | .k n => 127 ≤ n || x.kfull.getLsbD n
  | _ => true

/-- Writes one lane of a vector register; a write to v255 is discarded. -/
def Regs.putV (x : Regs) (r l : Nat) (v : Word) : Regs :=
  if 255 ≤ r then x else { x with vregs := Store.set 0 x.vregs (32 * r + l) v }
/-- Writes the lanes of a mask and sets the register full (R44). -/
def Regs.setV (x : Regs) (r : Nat) (m : BitVec 32) (f : Nat → Word) : Regs :=
  ((lanesOf m).foldl (fun x l => x.putV r l (f l)) x).setVFull r true
/-- Writes the lanes of a vector pair, low word first. -/
def Regs.setV2 (x : Regs) (r : Nat) (m : BitVec 32) (f : Nat → DWord) : Regs :=
  (x.setV r m fun l => (f l).extractLsb' 0 32).setV (r + 1) m fun l => (f l).extractLsb' 32 32
/-- Writes a uniform register and sets it full; a write to k127 is discarded. -/
def Regs.setK (x : Regs) (r : Nat) (v : Word) : Regs :=
  if 127 ≤ r then x else { x with kregs := Store.set 0 x.kregs r v }.setKFull r true
/-- Writes a uniform pair. -/
def Regs.setK2 (x : Regs) (r : Nat) (v : DWord) : Regs :=
  (x.setK r (v.extractLsb' 0 32)).setK (r + 1) (v.extractLsb' 32 32)
/-- Writes a lane predicate in the lanes of a mask (R36); p7 discards. -/
def Regs.setP (x : Regs) (n : Nat) (m : BitVec 32) (f : Nat → Bool) : Regs :=
  if n = 7 then x
  else { x with preds := Store.set 0 x.preds n ((x.p n &&& ~~~m) ||| (m &&& maskOf f)) }
/-- Writes a uniform predicate; q7 discards. -/
def Regs.setQ (x : Regs) (n : Nat) (b : Bool) : Regs :=
  if n = 7 then x
  else { x with qpreds := if b then x.qpreds ||| (1#8 <<< n) else x.qpreds &&& ~~~(1#8 <<< n) }
/-- Writes a moment register. -/
def Regs.setM (x : Regs) (n : Nat) (v : BitVec 128) : Regs :=
  { x with moms := Store.set emptyTriple x.moms n v }
/-- Writes nesting-depth counters of every lane. -/
def Regs.mapC (x : Regs) (f : Nat → Nat) : Regs :=
  { x with depth := lanes.foldl (fun d l => Store.set 0 d l (f l)) x.depth }

/-! ### Slots (R40, R41) -/

/-- The slot named by `sec`. -/
def Regs.slot (x : Regs) (sec : Bool) : PcSlot := if sec then x.sec else x.pri
/-- Replaces a slot. -/
def Regs.setSlot (x : Regs) (sec : Bool) (p : PcSlot) : Regs := if sec then { x with sec := p } else { x with pri := p }
/-- Moves a slot's PC. -/
def Regs.setPc (x : Regs) (sec : Bool) (pc : DWord) : Regs := x.setSlot sec { x.slot sec with pc := pc }
/-- Active lanes of a slot: members at depth 0 (R41). -/
def Regs.active (x : Regs) (sec : Bool) : BitVec 32 := (x.slot sec).lmask &&& maskOf fun l => x.c l = 0
/-- Lanes in which a lane guard is true (R64). -/
def Regs.laneGuard (x : Regs) (g : Guard) : BitVec 32 :=
  if g.neg then ~~~(x.p g.pred.toNat) else x.p g.pred.toNat
/-- A uniform guard (R64). -/
def Regs.uniGuard (x : Regs) (g : Guard) : Bool := x.q g.pred.toNat != g.neg
/-- Whether a gang has retired: neither slot holds a lane (R40). -/
def Regs.retired (x : Regs) : Bool := !x.pri.valid && !x.sec.valid

def State.modRegs (s : State) (g : Nat) (f : Regs → Regs) : State :=
  s.modGang g fun x => { x with regs := f x.regs }

/-! ### The context of an issue -/

/-- What an instruction sees when it issues: its gang, team and cohort, the slot, the address of the word, the word
after it, the active and executing lanes, and the value of a uniform guard. -/
structure Ctx where
  gid   : Nat
  G     : Gang
  T     : Team
  C     : Cohort
  sec   : Bool
  X     : DWord
  next  : DWord
  amask : BitVec 32
  emask : BitVec 32
  ug    : Bool
  deriving DecidableEq, Repr

/-- The gang's registers as the word reads them. -/
def Ctx.r (c : Ctx) : Regs := c.G.regs
def Ctx.tid (c : Ctx) : Nat := c.G.team
def Ctx.die (c : Ctx) : Nat := c.T.die
def Ctx.dev (c : Ctx) : Nat := devOfDie c.T.die
def Ctx.core (c : Ctx) : Nat := coreKey c.T.die c.G.core
def Ctx.tenant (c : Ctx) : Nat := c.C.tenant
def Ctx.tk (c : Ctx) : Nat := tenantKey c.C.dev c.C.tenant
/-- Changes the issuing gang's registers. -/
def Ctx.mod (c : Ctx) (s : State) (f : Regs → Regs) : State := s.modRegs c.gid f
/-- Privilege of the issuing word (R390). -/
def Ctx.priv (c : Ctx) : Bool := c.C.control || (if c.sec then c.G.tr1.active else c.G.tr0.active)

/-- What the effect of an instruction comes to: done, or waiting at its word for the reason given. -/
inductive Res where
  | done (s : State)
  | wait (w : Wait) (s : State)
  deriving DecidableEq, Repr

/-! ### Memory of a tenant: stores the device makes on its own (R354, R402) -/

/-- A byte of a tenant's device space on a device: where it lies, or the page-fault cause. -/
def State.vaLoc (s : State) (dev tenant va : Nat) (wr : Bool) : Except Nat Loc :=
  match s.walk dev tenant (va / 65536) with
  | .flt c _ => .error c
  | .ok e => if wr && !e.w then .error 3 else .ok (.dram dev (e.pa va))
/-- Where a pointer leads under a tenant's translations (R54): a device byte of this or another device, a host or a pool byte,
or the page-fault cause. The scratchpad and the private space, which have no owner here, are faults. -/
def State.ptrLoc (s : State) (dev tenant : Nat) (ptr : Nat) (wr : Bool) : Except Nat Loc :=
  let t := s.tenant (tenantKey dev tenant)
  let off := ptr % 2 ^ 52
  let clean : Bool := ptr / 2 ^ 52 % 32 = 0
  match ptr / 2 ^ 60 with
  | 0 => if clean then s.vaLoc dev tenant off wr else .error 10
  | 3 => s.vaLoc (dev / 32 * 32 + ptr / 2 ^ 52 % 32) tenant off wr
  | 4 => if !clean then .error 10
         else if off < t.hwsz.toNat then .ok (.host (dev * 2 ^ 64 + t.hwin.toNat + off)) else .error 7
  | 5 => if !clean then .error 10
         else if t.fenced then .error 8
         else if off < t.pwsz.toNat then .ok (.pool (t.shelf * 2 ^ 64 + t.pwin.toNat + off)) else .error 7
  | 6 => s.vaLoc (ptr / 2 ^ 51 % 64 * 32 + ptr / 2 ^ 46 % 32) tenant (ptr % 2 ^ 46) wr
  | _ => .error 10

/-- Stores bytes that lie within one page at a tenant pointer; `none` when their home is on a fenced die, or the port to the host is
down (R412, R432). -/
def State.ptrPut (s : State) (dev tenant ptr : Nat) (bs : List Byte) : Except Nat (Option State) :=
  match s.ptrLoc dev tenant ptr true with
  | .error c => .error c
  | .ok (.host a) => .ok (if s.hostUp (a / 2 ^ 64) then some { s with hostMem := writeBytes s.hostMem a bs } else none)
  | .ok (.pool a) => .ok (some { s with poolMem := writeBytes s.poolMem a bs })
  | .ok (.dram d pa) => .ok (if s.homeFenced (sectorOf d pa) then none else some (s.sysWrite d pa bs))
  | .ok _ => .error 10

/-- Reads bytes that lie within one page at a tenant pointer; data that comes back as poison is cause 9: of a poisoned sector, of a
host whose port is down, or of a pool line that the shelf returns so (R270, R432). -/
def State.ptrLoad (s : State) (dev tenant ptr n : Nat) : Except Nat (List Byte) :=
  match s.ptrLoc dev tenant ptr false with
  | .error c => .error c
  | .ok (.host a) => if s.hostUp (a / 2 ^ 64) then .ok (readBytes s.hostMem a n) else .error 9
  | .ok (.dram d pa) =>
    if (List.range ((n + 63) / 64 + 1)).any fun i =>
        64 * i < n + pa % 64 && s.poisonAt d (pa / 64 * 64 + 64 * i) then .error 9
    else .ok (s.sysRead d pa n)
  | .ok (.pool a) => if s.poolBad a then .error 9 else .ok (readBytes s.poolMem a n)
  | .ok _ => .error 10

/-- Raises a tenant's MSI-X vector (R402, R406). -/
def State.raise (s : State) (dev tenant vec : Nat) : State := { s with irqs := s.irqs ++ [(dev, tenant, vec)] }

/-- Appends an error-log record (R402): kind, hallmark, address, cohort handle, code and cause, and the time of the event. -/
def State.logAt (s : State) (dev tenant kind : Nat) (hall : Word) (addr : Nat) (handle codeCause now : Nat) : State :=
  let tk := tenantKey dev tenant
  let t := s.tenant tk
  let size := 64 * 2 ^ (t.elog.toNat % 16)
  let base := t.elog.toNat / 65536 * 65536
  let used := (t.eltl.toNat + 2 ^ 31 - t.elhd.toNat % 2 ^ 31) % 2 ^ 31
  let lose (s : State) : State := s.modTenant tk fun t => { t with lost := true }
  if base = 0 || size ≤ used then lose s
  else
    let rec32 := toBytes 4 kind ++ toBytes 4 hall.toNat ++ toBytes 8 addr ++ toBytes 4 handle ++
      toBytes 4 codeCause ++ toBytes 8 now
    match s.ptrPut dev tenant (base + 32 * (t.eltl.toNat % size)) rec32 with
    | .ok (some s) =>
      let s := s.modTenant tk fun t => { t with eltl := t.eltl + 1 }
      if used = 0 || used + 1 = size then s.raise dev tenant (t.msix.toNat / 2 ^ 24) else s
    | _ => lose s
/-- Appends a record of an event that happens now. -/
def State.logError (s : State) (dev tenant kind : Nat) (hall : Word) (addr : Nat) (handle codeCause : Nat) : State :=
  s.logAt dev tenant kind hall addr handle codeCause s.time
/-- A store that the device makes on its own: one whose home is on a fenced die is dropped and logged (R412). -/
def State.ptrStore (s : State) (dev tenant ptr : Nat) (bs : List Byte) : Except Nat State :=
  match s.ptrPut dev tenant ptr bs with
  | .error c => .error c
  | .ok (some s) => .ok s
  | .ok none => .ok (s.logError dev tenant 3 0 ptr 0 0)

/-! ### Barriers (R314, R316) -/

/-- Ends a team-barrier phase when every member has arrived or retired. -/
def State.teamBarrier (s : State) (tid : Nat) : State :=
  match s.team? tid with
  | none => s
  | some t =>
    let n := match s.cohort? t.cohort with | some c => c.ngangs | none => 0
    let gone (i : Nat) : Bool := match s.gang? (gangKey tid i) with | some g => g.regs.retired | none => true
    if 0 < n && !t.tarr.isEmpty && (List.range n).all fun i => t.tarr.contains i || gone i then
      let s := s.setTeam tid { t with tphase := (t.tphase + 1) % 65536, tarr := [] }
      let s := if t.cores.length ≤ 1 then s else t.cores.foldl (fun s k => s.dropCleanAll (coreKey t.die k)) s
      s.modGangs tid n fun g =>
        if g.bar = some ⟨none, t.tphase⟩ then { g with bar := none, wait := .ready, eligAt := s.time } else g
    else s

/-- Whether the records of a team lie in its image: it is saved, or on its way to another die (R369, R374). -/
def Team.away (t : Team) : Bool :=
  match t.state with
  | .saved | .migrating => true
  | _ => false
/-- Members of a circle as (team index, gang) pairs (R351). -/
def Cohort.circleMembers (c : Cohort) (circle : Nat) : List (Nat × Nat) :=
  ((c.members.filter (·.circle = circle)).flatMap fun m =>
    match m.team with
    | some t => [(t, m.gang)]
    | none => (List.range c.lr.nteams).map fun t => (t, m.gang)).eraseDups
/-- The team of a cohort with a given index, once it has been dispatched. -/
def State.findTeam (s : State) (cohort tidx : Nat) : Option (Nat × Team) :=
  s.teamList.find? fun p => p.2.cohort = cohort && p.2.tidx = tidx

/-- A gang returns from a barrier wait: an acquire (R315). -/
def State.leaveBar (s : State) (g : Nat) : State :=
  match s.gang? g with
  | none => s
  | some x =>
    let s := s.setGang g { x with bar := none, wait := .ready, eligAt := s.time }
    match s.team? x.team with
    | some t => s.dropCleanAll (coreKey t.die x.core)
    | none => s
/-- Ends a circle-barrier phase when every member has arrived or retired; gangs of other dies learn of it by message, and those
of a team whose records are in its image find it when they resume (R316). -/
def State.circleBarrier (s : State) (ck circle : Nat) : State :=
  match s.cohort? ck with
  | none => s
  | some c =>
    let b := Store.get {} c.circs circle
    let ms := c.circleMembers circle
    let key (m : Nat × Nat) : Option Nat := (s.findTeam ck m.1).map fun p => gangKey p.1 m.2
    let gone (m : Nat × Nat) : Bool :=
      match s.findTeam ck m.1 with
      | some (k, t) =>
        t.state = .exited || (match s.gang? (gangKey k m.2) with | some g => g.regs.retired | none => false)
      | none => false
    if !b.arr.isEmpty && ms.all fun m => b.arr.contains m || gone m then
      let s := s.modCohort ck fun c =>
        { c with circs := Store.set {} c.circs circle { phase := (b.phase + 1) % 65536, arr := [] } }
      ms.foldl (fun s m =>
        match key m with
        | none => s
        | some g =>
          match s.gang? g with
          | none => s
          | some x =>
            let away : Bool := match s.team? x.team with
              | some t => t.away
              | none => true
            if x.bar = some ⟨some circle, b.phase⟩ && !away then
              let far : Bool := match s.team? x.team with
                | some t => decide (t.die ≠ 8 * c.dev + c.lr.chome)
                | none => false
              if far then s.send (.phaseEndNotice g circle b.phase)
              else s.leaveBar g
            else s) s
    else s

/-- Every circle that gang (`tidx`, `g`) of a cohort belongs to is looked at again. -/
def State.circlesOf (s : State) (ck tidx g : Nat) : State :=
  match s.cohort? ck with
  | none => s
  | some c =>
    (((c.members.filter fun m => m.gang = g && (m.team = none || m.team = some tidx)).map (·.circle)).eraseDups).foldl
      (fun s circle => s.circleBarrier ck circle) s

/-! ### The end of cohorts, teams and gangs (R321, R354, R355, R396) -/

/-- Advances a generation that runs from 1 to `top` (R321, R354). -/
def nextGen (g top : Nat) : Nat := if top ≤ g then 1 else g + 1

/-- Frees a cohort slot (R355): its generation advances and its teams are forgotten. -/
def State.freeCohort (s : State) (ck : Nat) : State :=
  let sl : CohortSlot := Store.get {} s.cohSlots ck
  let s := { s with cohSlots := Store.set {} s.cohSlots ck ⟨nextGen sl.gen 255, s.time, none⟩ }
  let dead := (s.teamList.filter fun p => p.2.cohort = ck).map (·.1)
  { s with teams := dead.foldl Store.erase s.teams,
           lateColl := s.lateColl.filter fun e => e.has.1 ≠ ck && !(e.who.any (·.1 = ck)),
           gangs := s.gangs.filter fun p => !dead.contains (p.1 / 256) }

/-- Handle of the cohort in a slot. -/
def State.handle (s : State) (ck : Nat) : Nat := handleOf ck (Store.get {} s.cohSlots ck).gen

/-- A cohort that waits learns that one it depends on has finished (R354): a dependence that is DONE is met. -/
def Cohort.depend (x : Cohort) (dev tenant : Nat) (h : Word) (ok : Bool) : Cohort :=
  if x.state ≠ .depwait || x.dev ≠ dev || x.tenant ≠ tenant || (x.lr.dep0 ≠ h && x.lr.dep1 ≠ h) then x
  else if !ok then { x with depFail := true }
  else
    let met (d : Word) : Word := if d = h then 0 else d
    { x with lr := { x.lr with dep0 := met x.lr.dep0, dep1 := met x.lr.dep1 } }
/-- A cohort enters DONE, ERROR or CANCELLED (R354): the completion word is stored, and the slot is freed at once
under AUTOREAP or for a control cohort (R439). -/
def State.finishCohort (s : State) (ck : Nat) (st : CohSt) : State :=
  match s.cohort? ck with
  | none => s
  | some c =>
    let status := match st with | .done => 0 | .error => 2 | _ => 3
    let handle := s.handle ck
    let s := s.modCohort ck fun c => { c with state := st }
    let seen (g : Option Gang) : Option Gang :=
      g.map fun g => if g.lwait = some ck then { g with lres := some status } else g
    let s : State := { s with gangs := s.gangs.map fun p => (p.1, seen p.2) }
    let dep (x : Cohort) : Cohort := x.depend c.dev c.tenant (BitVec.ofNat 32 handle) (status = 0)
    let fix (p : Nat × CohortSlot) : Nat × CohortSlot := (p.1, { p.2 with cohort := p.2.cohort.map dep })
    let s : State := { s with cohSlots := s.cohSlots.map fix }
    let s :=
      if c.lr.donep = 0 then s
      else match s.ptrStore c.dev c.tenant c.lr.donep.toNat (toBytes 8 (handle + 2 ^ 32 * status)) with
        | .ok s => s
        | .error _ => s.logError c.dev c.tenant 4 0 c.lr.donep.toNat handle 0
    if c.lr.autoreap || c.control then s.freeCohort ck else s

/-- Counts an exited team; the cohort finishes once every team has exited (R354). -/
def State.countExit (s : State) (ck : Nat) (trapped : Bool) : State :=
  let s := s.modCohort ck fun c => { c with exited := c.exited + 1, trapped := c.trapped || trapped }
  match s.cohort? ck with
  | none => s
  | some c =>
    if c.exited = c.lr.nteams then s.finishCohort ck (if c.trapped then .error else .done) else s

/-- Sends the acknowledgement of a remote store to its sender (R323). -/
def State.ackStore (s : State) (m : RStore) (f : Fate) : State := s.send (.remoteStoreAck m.sender m.chan m.stream f)

/-! ### Hallmarks (R39, R321) -/

/-- The team that a hallmark names: its slot holds a team of that generation. -/
def State.byHall (s : State) (group : Nat) (h : Word) : Option (Nat × Team) :=
  let n := h.toNat
  let key := ((group * 32 + n / 2 ^ 27) * 8 + n / 2 ^ 24 % 8) * 4096 + n / 2 ^ 12 % 4096
  let sl : TeamSlot := Store.get {} s.teamSlots key
  if sl.gen = n % 4096 then
    match sl.team with
    | some t => (s.team? t).map fun x => (t, x)
    | none => none
  else none
/-- Group of a team's device. -/
def Team.group (t : Team) : Nat := t.die / 256

/-! ### Which slots belong to one collective (R333, R341) -/

/-- The team that a rank of a collective of team `t` names, when it can be found. -/
def State.rankOf (s : State) (t : Team) (x : CollSlot) (r : Word) : Option (Nat × Team) :=
  if x.block.rset then s.byHall t.group r else s.findTeam t.cohort r.toNat
/-- The cohorts and indices of the teams of a rank set. -/
def State.rankWho (s : State) (t : Team) (x : CollSlot) : List (Nat × Nat) :=
  x.ranks.filterMap fun r =>
    if x.block.rset then (s.byHall t.group r).map fun p => (p.2.cohort, p.2.tidx) else some (t.cohort, r.toNat)
/-- Whether two lists name the same teams. -/
def sameRanks (a b : List (Nat × Nat)) : Bool := a.all b.contains && b.all a.contains
/-- Whether two blocks are matched with each other: by TAG and rank set (R333). -/
def State.sameColl (s : State) (t : Team) (x : CollSlot) (u : Team) (y : CollSlot) : Bool :=
  y.block.tag = x.block.tag && sameRanks (s.rankWho t x) (s.rankWho u y)
/-- Whether an aborted collective has this TAG and these ranks. -/
def LateColl.covers (e : LateColl) (tag : Nat) (who : List (Nat × Nat)) : Bool :=
  e.tag = tag && (if e.who.isEmpty then who.contains e.has else sameRanks e.who who)
/-- A team as a rank. -/
def Team.who (t : Team) : Nat × Nat := (t.cohort, t.tidx)
/-- The number of a slot in MATCH among the collectives of its TAG and rank set that have neither matched nor been met by every rank:
a team's slots stand for them in order (log 76). -/
def State.collInst (s : State) (t : Team) (x : CollSlot) : Nat :=
  let idx := (t.colls.filter fun q => q.2.state = .matching && q.2.coll < x.coll && s.sameColl t x t q.2).length
  let gone := (s.lateColl.filter fun e => e.covers x.block.tag (s.rankWho t x) && e.met.contains t.who).map (·.ord)
  (((List.range (idx + gone.length + 1)).filter fun k => !gone.contains k)[idx]?).getD idx
/-- Whether a slot in MATCH is another rank's for the same collective. -/
def State.samePost (s : State) (t : Team) (x : CollSlot) (u : Team) (y : CollSlot) : Bool :=
  y.state = .matching && s.sameColl t x u y && s.collInst u y = s.collInst t x
/-- A collective of a TAG and ranks has matched, or every rank has met its abort: those after it move up. -/
def State.collOver (s : State) (tag : Nat) (who : List (Nat × Nat)) (k : Nat) : State :=
  { s with lateColl := s.lateColl.map fun e => if e.covers tag who && k < e.ord then { e with ord := e.ord - 1 } else e }
/-- An error as a slot holds it (R340, R341). -/
def CollSlot.fail (x : CollSlot) (status cause rank : Nat) : CollSlot :=
  { x with state := .error, status := status, fcause := cause, frank := rank, moved := true }
/-- An error of a collective (R341): the slot of each of its ranks, in MATCH or RUN, enters ERROR, its transfers are dropped, and a
rank that posts later finds the error. -/
def State.abortColl (s : State) (tid slot status cause rank : Nat) : State :=
  match s.team? tid with
  | none => s
  | some t =>
    let x : CollSlot := Store.get {} t.colls slot
    let hits (k : Nat) (u : Team) (j : Nat) (y : CollSlot) : Bool :=
      match x.state with
      | .run => y.state = .run && y.coll = x.coll
      | .matching => (k = tid && j = slot) || s.samePost t x u y
      | _ => false
    let colls (k : Nat) (u : Team) : Store CollSlot :=
      u.colls.map fun q => if hits k u q.1 q.2 then (q.1, q.2.fail status cause rank) else q
    let who := s.rankWho t x
    let met := (s.teamList.filter fun p => p.2.colls.any fun q => hits p.1 p.2 q.1 q.2).map fun p => p.2.who
    let late : LateColl := ⟨x.block.tag, who, t.who, s.collInst t x, met, status, cause, rank⟩
    let s1 := s.teamList.foldl (fun s p => s.setTeam p.1 { p.2 with colls := colls p.1 p.2 }) s
    let s1 := if x.state ≠ .matching then s1
      else if who.all met.contains then s1.collOver late.tag who late.ord
      else { s1 with lateColl := s1.lateColl ++ [late] }
    let dead (q : Xfer) : Bool := match q.kind with
      | .coll i _ => (s1.team? q.team).any fun u => (Store.get {} u.colls i : CollSlot).state = .error
      | _ => false
    { s1 with xfers := s1.xfers.filter fun q => !dead q }
/-- The aborted collective that a slot in MATCH belongs to, if its rank has not met it yet. -/
def State.lateFor (s : State) (t : Team) (x : CollSlot) : Option LateColl :=
  s.lateColl.find? fun e => e.covers x.block.tag (s.rankWho t x) && !e.met.contains t.who && e.ord = s.collInst t x
/-- A slot enters ERROR for a collective that was aborted before its rank posted it (R341). -/
def State.meetLate (s : State) (tid slot : Nat) (t : Team) (x : CollSlot) (e : LateColl) : State :=
  let who := s.rankWho t x
  let s1 := s.setTeam tid { t with colls := Store.upd {} t.colls slot fun y => y.fail e.status e.fcause e.frank }
  let e' := { e with who := who, met := e.met ++ [t.who] }
  if who.all e'.met.contains then
    ({ s1 with lateColl := s1.lateColl.filter (· ≠ e) } : State).collOver e.tag who e.ord
  else { s1 with lateColl := s1.lateColl.map fun z => if z = e then e' else z }

/-- Number of a collective slot of a team. -/
def collKey (tid slot : Nat) : Nat := tid * 4 + slot
/-- The sequencers whose slots wait to match look at their ranks again (R341). -/
def State.rematch (s : State) : State :=
  s.teamList.foldl (fun s p => (p.2.colls.filter fun q => q.2.state = .matching).foldl
    (fun s q => s.send (.collMatch (collKey p.1 q.1))) s) s
/-- A team enters EXITED (R321, R323, R367): its slot is freed, its gangs leave their cores, and every store held
for it is refused as dead. -/
def State.exitTeam (s : State) (tid : Nat) (trapped : Bool) : State :=
  match s.team? tid with
  | none => s
  | some t =>
    if t.state = .exited then s
    else
      let n := match s.cohort? t.cohort with | some c => c.ngangs | none => 0
      let s := s.setTeam tid
        { t with state := .exited, inbox := [], fwdQ := [], streams := [], cores := [], ctxsv := [], halts := [] }
      let s := (t.inbox ++ t.fwdQ).foldl (fun s m => s.ackStore m .dead) s
      let s := t.ctxsv.foldl (fun s a => s.send (.remoteAnswer a.1 a.2 1)) s
      let s := t.halts.foldl (fun s a => s.send (.remoteAnswer a.1 a.2 0)) s
      let s := s.modGangs tid n fun g =>
        { g with resident := false, wait := .ready, wait2 := .ready, bar := none, flux := none, regs :=
          { g.regs with pri := { g.regs.pri with valid := false, lmask := 0 }, sec := {} } }
      let free (sl : TeamSlot) : TeamSlot :=
        if sl.team = some tid then { sl with gen := nextGen sl.gen 4095, freed := s.time, team := none } else sl
      let s := { s with teamSlots := Store.upd {} s.teamSlots t.slotKey free }
      let live := t.colls.filter fun p => p.2.state = .matching || p.2.state = .run
      let s := (live.foldl (fun s p => s.abortColl tid p.1 2 0 p.2.me) s).rematch
      let s := (List.range n).foldl (fun s g => s.circlesOf t.cohort t.tidx g) s
      s.countExit t.cohort trapped

/-- A team that has stopped is ended by trap: logged with the time of the event that ended it, and EXITED (R396, R402);
a warm start leaves no record, kind 0 (R435). -/
def State.closeTeam (s : State) (tid kind : Nat) (pc : Nat) (codeCause now : Nat) : State :=
  match s.team? tid with
  | none => s
  | some t =>
    match s.cohort? t.cohort with
    | none => s
    | some c =>
      if t.state = .exited then s
      else (if kind = 0 then s else s.logAt c.dev c.tenant kind t.hall pc (s.handle t.cohort) codeCause now).exitTeam tid true
/-- A gang no longer waits for any walk; the walks go on (R195). -/
def State.leaveWalks (s : State) (gid : Nat) : State :=
  let ws := s.walks.map fun w => if w.waiters.contains gid then { w with waiters := w.waiters.erase gid } else w
  { s with walks := ws.filter fun w => w.res.isNone || !w.waiters.isEmpty }
/-- The end of a pass (R383): buffer and context are discarded, the gang resumes at the blocked word, or at the load before it that
still waits for its walk, and what a fetch walk of the pass came to is forgotten. -/
def State.endFlux (s : State) (gid : Nat) : State :=
  let s := s.modGang gid fun g => match g.flux with
    | some f => { g with flux := none, fluxDone := if g.fluxDone.contains f.block then g.fluxDone else f.block :: g.fluxDone,
                         wait := .interlock }
    | none => g
  s.leaveWalks gid
/-- The passes of a team's gangs end, as they do when its pre-emption or migration begins (R369, R382, R384). -/
def State.endPasses (s : State) (tid : Nat) : State :=
  ((s.gangList.filter fun p => p.2.team = tid && p.2.flux.isSome).map (·.1)).foldl (fun s g => s.endFlux g) s
/-- A team is ended by trap (R396): on its cores it stops first, as in steps 1 to 3 of R369, and FULL_SAVE closes it. -/
def State.endTeam (s : State) (tid kind : Nat) (pc : Nat) (codeCause : Nat) : State :=
  match s.team? tid with
  | none => s
  | some t =>
    match t.state with
    | .resident | .stopping =>
      if t.ending.isSome then s
      else (s.setTeam tid { t with state := .stopping, since := s.time, ending := some (kind, pc, codeCause, s.time) }).endPasses tid
    | _ => s.closeTeam tid kind pc codeCause s.time

/-- After lanes have left a gang: barriers are looked at again when it has retired, and the team exits when every
gang has (R314, R354, R367). -/
def State.afterRetire (s : State) (gid : Nat) : State :=
  match s.gang? gid with
  | none => s
  | some g =>
    if !g.regs.retired then s
    else match s.team? g.team with
      | none => s
      | some t =>
        let n := match s.cohort? t.cohort with | some c => c.ngangs | none => 0
        let s := (s.teamBarrier g.team).circlesOf t.cohort t.tidx g.idx
        if (teamGangs g.team n).all fun k => match s.gang? k with | some g => g.regs.retired | none => true then
          s.exitTeam g.team false
        else s

/-! ### Taking an exception and returning from one (R153, R394, R395) -/

/-- A code address is valid when bits [63:52] and [1:0] are zero (R151). -/
def codeOk (a : DWord) : Bool := a.toNat < 2 ^ 52 && a.toNat % 4 = 0

/-- Delivery of a trap to a slot (R394): the record is filled and the PC goes to the tenant's handler; an active
record or a missing handler ends the team (R396). -/
def State.deliver (s : State) (gid : Nat) (sec : Bool) (code cause : Nat) (mask : BitVec 32) (pc addr res : DWord) :
    State :=
  match s.gang? gid with
  | none => s
  | some g =>
    match s.team? g.team with
    | none => s
    | some t =>
      let tvec := (s.tenant (s.tenKey t)).tvec
      let r := if sec then g.tr1 else g.tr0
      if r.active || tvec = 0 then s.endTeam g.team 1 pc.toNat (code % 256 + 256 * (cause % 256))
      else
        let rec' : TrapRec := ⟨true, BitVec.ofNat 8 code, BitVec.ofNat 8 cause, mask, pc, addr, res⟩
        let g := if sec then { g with tr1 := rec' } else { g with tr0 := rec' }
        s.setGang gid ({ g with regs := g.regs.setPc sec (tvec &&& ~~~3) }.setWait sec .ready)

/-- A gang-wide trap of the issuing slot at the word X, resuming at `res`. -/
def Ctx.trapTo (c : Ctx) (code cause : Nat) (addr res : DWord) (s : State) : State :=
  s.deliver c.gid c.sec code cause c.amask c.X addr res
/-- A gang-wide trap that resumes at the trapping word. -/
def Ctx.trap (c : Ctx) (code cause : Nat) (s : State) : Res := .done (c.trapTo code cause 0 c.X s)
/-- A gang-wide trap with a faulting pointer. -/
def Ctx.trapAt (c : Ctx) (code cause : Nat) (addr : DWord) (s : State) : Res := .done (c.trapTo code cause addr c.X s)

/-- A fault of one lane: code, cause and faulting pointer. -/
structure LaneFault where
  lane  : Nat
  code  : Nat
  cause : Nat
  addr  : DWord
  deriving DecidableEq, Repr

/-- Delivery of per-lane traps (R153): to the secondary slot when the lanes can split off, and then the other lanes
go on (`true`); otherwise to the whole slot. `resume` is the address that RTE returns to. -/
def Ctx.laneTrapTo (c : Ctx) (fs : List LaneFault) (resume : DWord) (s : State) : Bool × State :=
  match fs with
  | [] => (true, s)
  | f :: _ =>
    let mask := maskOf fun l => fs.any (·.lane = l)
    match s.gang? c.gid with
    | none => (false, s)
    | some g =>
      let p := g.regs.pri
      if !c.sec && !g.regs.sec.valid && p.lmask &&& ~~~mask ≠ 0 then
        let regs := { g.regs with pri := { p with lmask := p.lmask &&& ~~~mask }, sec := ⟨c.X, mask, true, 1, 0⟩ }
        (true, (s.setGang c.gid { g with regs := regs }).deliver c.gid true f.code f.cause mask c.X f.addr resume)
      else (false, s.deliver c.gid c.sec f.code f.cause mask c.X f.addr resume)
/-- Per-lane traps that resume at the trapping word. -/
def Ctx.laneTrap (c : Ctx) (fs : List LaneFault) (s : State) : Bool × State := c.laneTrapTo fs c.X s

/-- A fault that the owning chapter delivers to all of E under R153 (R204, R209, R212). -/
def Ctx.allTrap (c : Ctx) (code cause : Nat) (addr : DWord) (s : State) : Res :=
  .done (c.laneTrap ((lanesOf c.emask).map fun l => ⟨l, code, cause, addr⟩) s).2

/-- The return from a trap (R395): a record that is not active is a privilege trap, a bad resume address ends the
team, and otherwise the record is closed and the slot goes to RES. -/
def Ctx.rte (c : Ctx) (s : State) : Res :=
  let r := if c.sec then c.G.tr1 else c.G.tr0
  if !r.active then c.trap 0x06 0 s
  else if !codeOk r.res then .done (s.endTeam c.tid 1 c.X.toNat 0x0C)
  else .done (s.modGang c.gid fun g =>
    let g := if c.sec then { g with tr1 := { r with active := false } } else { g with tr0 := { r with active := false } }
    { g with regs := g.regs.setPc c.sec r.res })

/-! ### Regions (R371, R372) -/

/-- Ends the team's idempotent region: OPEN := 0 in every gang. -/
def State.endRegion (s : State) (tid : Nat) : State :=
  match s.team? tid with
  | none => s
  | some t =>
    let n := match s.cohort? t.cohort with | some c => c.ngangs | none => 0
    s.modGangs tid n fun g => { g with rgnOpen := false }
def Ctx.endRegion (c : Ctx) (s : State) : State := s.endRegion c.tid

/-! ### Tenants and live teams -/

/-- Whether a team belongs to a tenant; tenant numbers hold across the pod (R54, R196). -/
def State.ofTenant (s : State) (t : Team) (tenant : Nat) : Bool :=
  match s.cohort? t.cohort with
  | some c => c.tenant = tenant
  | none => false
/-- A team that has started and not exited. -/
def Team.live (t : Team) : Bool :=
  match t.state with
  | .waiting | .exited => false
  | _ => t.hall ≠ 0

/-! ### Waiting on work in flight -/

/-- Whether a gang has a store or atomic in flight. -/
def State.storesOut (s : State) (gid : Nat) : Bool :=
  s.accesses.any fun a => a.gang = gid && (match a.op with | .load _ => false | _ => true)
/-- Whether a gang has an acquire in flight: its later accesses wait for it (R230). -/
def State.acquireOut (s : State) (gid : Nat) : Bool := s.accesses.any fun a => a.gang = gid && a.acq
/-- Owes a register of a gang an answer: later readers wait by interlock (R189). -/
def State.owe (s : State) (gid id : Nat) (rs : List RegRef) : State :=
  s.modGang gid fun g => { g with owed := g.owed ++ rs.map fun r => (id, r) }
/-- The answer has come. -/
def State.repay (s : State) (gid id : Nat) : State :=
  s.modGang gid fun g => { g with owed := g.owed.filter (·.1 ≠ id), long := g.long.filter (· ≠ id) }

/-- Whether an operation is a load. -/
def AccOp.isLoad : AccOp → Bool
  | .load _ => true
  | _ => false

/-! ### The two sets of a partition (R361, R362) -/

/-- The gangs resident in one partition of a core. -/
def State.partGangs (s : State) (die core part : Nat) : List (Nat × Gang) :=
  s.gangList.filter fun p => p.2.resident && p.2.core = core && p.2.part = part && !p.2.regs.retired &&
    (match s.team? p.2.team with | some t => t.die = die | none => false)
/-- Whether a slot that a gang may issue from waits for nothing. -/
def Gang.anyReady (g : Gang) : Bool := g.wait = .ready || (g.split && g.wait2 = .ready)
/-- Whether a pending gang waits for nothing: its wait has ended, or it yielded, or has just started or been restored (R362);
the end of a wait that its own word tests is found when the gang is next looked at (log 21). -/
def Gang.eligible (g : Gang) : Bool := !g.active && g.bar.isNone && g.anyReady
/-- The oldest eligible gang of a list. -/
def oldest (gs : List (Nat × Gang)) : Option Nat :=
  ((gs.filter fun p => p.2.eligible).foldl (fun (b : Option (Nat × Gang)) p => match b with
    | none => some p
    | some q => if p.2.movedAt < q.2.movedAt then some p else b) none).map (·.1)
end Sys2Proof.Machine
end

