-- ==== Sys2Proof/WellFormed.lean ====
section
/-!
DEFINITION. Well-formed instructions: the operand ranges and combinations that the encoding tables of the
owning chapters admit, stated on the abstract syntax alone.
-/
namespace Sys2Proof

/-- The even register of a uniform pair (R35). -/
def evenR (r : RegNum) : Bool := r.toNat % 2 = 0
/-- An even pair, or an immediate. -/
def evenI : SrcI → Bool
  | .reg s => evenR s.reg
  | .imm _ => true
/-- A byte offset that is a multiple of 4 (R140). -/
def off4 (w : Word) : Bool := w.toNat % 4 = 0
/-- A register, or an immediate of at most `n`. -/
def immLe (s : SrcI) (n : Nat) : Bool :=
  match s with
  | .reg _ => true
  | .imm w => w.toNat ≤ n
/-- The 64-bit types (R123). -/
def IntT.is64 : IntT → Bool
  | .i64 | .n64 => true
  | _ => false
/-- The signed types (R123). -/
def IntT.signed : IntT → Bool
  | .i32 | .i64 => true
  | _ => false
/-- A uniform address pair is even (R184, R35). -/
def Base.wf : Base → Bool
  | .kpair s => evenR s.reg
  | _ => true
/-- A scratchpad offset register (mode 2, R184). -/
def Base.isScr : Base → Bool
  | .scr _ => true
  | _ => false
/-- The 128-bit form of a memory operand. -/
def MOff.isExt : MOff → Bool
  | .ext .. => true
  | _ => false
/-- The order of a memory operand is not `no`. -/
def MOff.ordNot (o : MOff) (no : Order) : Bool :=
  match o with
  | .ext _ _ ord _ => ord ≠ no
  | _ => true
/-- A load or store order and scope that R186 allows: never `no`, and weak only at scope 0. -/
def MOff.wf (o : MOff) (no : Order) : Bool :=
  match o with
  | .ext _ sc ord _ => ord ≠ no && (ord ≠ .weak || sc = .dflt)
  | _ => true
/-- Scope and order fields that are not read (PFT, R183). -/
def MOff.plainOrder : MOff → Bool
  | .ext _ sc ord _ => sc = .dflt && ord = .weak
  | _ => true
/-- A policy field that is not read (R214). -/
def MOff.noPol : MOff → Bool
  | .ext _ _ _ pol => pol = .none
  | _ => true
/-- Shared-exponent formats (R281). -/
def CFmt.isSx : CFmt → Bool
  | .sx2 | .sx4 | .sx7 => true
  | _ => false
/-- CPY combinations of R281: format, planes, `.t`, and a non-zero MOD. -/
def cpyWf (f : CFmt) (p : Planes) (tr modNz : Bool) : Bool :=
  match f with
  | .sx2 => !tr && !modNz
  | .sx4 => p ≠ .p2 && !tr && !modNz
  | .sx7 => p = .p7 && !tr && !modNz
  | .raw => p = .p2 && !tr && !modNz
  | _ => p = .p7
/-- The width of a control register that R400 defines: 64 bits or 32. -/
def ctlIs64 (i : Nat) : Option Bool :=
  if i ≤ 0x001 then some false
  else if i ≤ 0x004 then some true
  else if 0x100 ≤ i && i ≤ 0x110 then some (i ∈ [0x100, 0x101, 0x102, 0x103, 0x104, 0x105, 0x107, 0x109, 0x10C])
  else if 0x200 ≤ i && i ≤ 0x203 then some true
  else none

/-- Well-formed instructions. An event has no operands. -/
def Instr.WellFormed : Instr → Bool
  | .nop .. => true
  | .bra _ off => off4 off
  | .brx _ t => evenR t.reg
  | .call _ link off => evenR link && off4 off
  | .callx _ link _ => evenR link
  | .ret _ link d => evenR link.reg && d.toNat ≤ 62
  | .ifThen _ _ off => off4 off
  | .elseDo off => off4 off
  | .endIf => true
  | .loop off => off4 off
  | .brk _ d => d.toNat ≤ 61
  | .cont _ d => d.toNat ≤ 62
  | .endLoop off => off4 off
  | .exit .. | .trap .. | .bpt .. => true
  | .kmov _ b64 d a => !b64 || (evenR d && evenR a.reg)
  | .kli _ b64 d v => (!b64 || evenR d) && (match v with | .i32 _ => true | .i64 _ => b64)
  | .kadd _ b64 d a b => !b64 || (evenR d && evenR a.reg && evenI b)
  | .ksub _ b64 d a b => !b64 || (evenR d && evenR a.reg && evenI b)
  | .kmul _ b64 d a b => !b64 || (evenR d && evenR a.reg && evenI b)
  | .kand _ b64 d a b => !b64 || (evenR d && evenR a.reg && evenI b)
  | .kor _ b64 d a b => !b64 || (evenR d && evenR a.reg && evenI b)
  | .kxor _ b64 d a b => !b64 || (evenR d && evenR a.reg && evenI b)
  | .kshl _ b64 d a _ => !b64 || (evenR d && evenR a.reg)
  | .kshr _ b64 d a _ => !b64 || (evenR d && evenR a.reg)
  | .ksra _ b64 d a _ => !b64 || (evenR d && evenR a.reg)
  | .kmin _ b64 _ d a b => !b64 || (evenR d && evenR a.reg && evenI b)
  | .kmax _ b64 _ d a b => !b64 || (evenR d && evenR a.reg && evenI b)
  | .kcmp _ _ _ b64 _ a b => !b64 || (evenR a.reg && evenI b)
  | .ksel _ b64 d a b _ => !b64 || (evenR d && evenR a.reg && evenI b)
  | .vtok _ b64 d _ => !b64 || evenR d
  | .kbc _ b64 _ a => !b64 || evenR a.reg
  | .movs _ uni d v => !uni || (match v with | .lane | .depth | .cursor => false | .clk | .time => evenR d | _ => true)
  | .iadd .. | .isub .. => true
  | .imul _ t k _ _ _ => !(k = .wide && t.is64)
  | .imad _ t wide _ _ _ _ => !(wide && t.is64)
  | .idiv .. | .irem .. | .imin .. | .imax .. => true
  | .iabs _ t _ _ _ => t.signed
  | .ineg .. => true
  | .isad _ t _ _ _ _ => !t.is64
  | .icmp .. | .isel .. | .and .. | .or .. | .xor .. | .andn .. | .orn .. | .xnor .. | .not .. | .tern ..
  | .shl .. | .shr .. | .sra .. | .rot .. | .fshl .. | .fshr .. | .popc .. | .clz .. | .ctz .. | .brev ..
  | .bfx .. | .bfi .. | .bmsk .. | .permb .. => true
  | .lea _ _ uni _ _ base _ => !uni || evenR base.reg
  | .padd .. | .psub .. | .pmul .. | .pmin .. | .pmax .. | .pavg .. | .pshl .. | .pshr .. | .psra .. | .pcmp ..
  | .drawc .. | .draw .. => true
  | .mov _ b64 _ a => match a with | .i64 _ => b64 | _ => true
  | .fadd .. | .fsub .. | .fmul .. | .ffma .. | .fdiv .. | .fmin .. | .fmax .. => true
  | .fcmp _ rel u _ _ _ => !u || (rel ≠ .num && rel ≠ .nan)
  | .fclass .. | .frcp .. | .frsq .. | .fsqrt .. | .fexp2 .. | .flog2 .. | .fsin .. | .fcos .. | .ftanh ..
  | .xadd2 .. | .xmul2 .. | .xfma2 .. | .cvtfi .. | .cvtif .. | .cvtff .. => true
  | .cvtffWide _ f idx _ _ => idx.toNat ≤ (match f with | .f16 | .bf16 => 1 | .e4m3 | .e5m2 => 3 | .e2m1 => 7)
  | .cvtbk .. | .cvtbkWide .. | .fscale .. | .fround .. | .ffrac .. => true
  | .shfl _ _ c _ _ _ _ => c.toNat ≤ 5
  | .vote _ k _ _ d _ => k = .ballot || d.toNat ≤ 7
  | .lmatch _ all _ d _ => !all || d.toNat ≤ 7
  | .lred .. | .lscan .. | .momz .. | .momu .. | .momw .. | .momm .. | .momd ..
  | .momn .. => true
  | .momld _ _ base _ => evenR base.reg
  | .momst _ base _ _ => evenR base.reg
  | .momq .. => true
  | .ld _ _ _ base off probe => base.wf && off.wf .rel && (probe = none || off.isExt)
  | .st _ t base off _ => t ≠ .i8 && t ≠ .i16 && base.wf && off.wf .acq
  | .ldk _ t d base off => t ≠ .b128 && (t ≠ .b64 || evenR d) && evenR base.reg && off.wf .rel
  | .stk _ t base off b => t ≠ .i8 && t ≠ .i16 && t ≠ .b128 && (t ≠ .b64 || evenR b.reg) && evenR base.reg && off.wf .acq
  | .pft _ _ base off => base.wf && off.plainOrder
  | .pgreq _ _ base _ => base.wf && !base.isScr
  | .xlat _ _ _ base _ => base.wf && !base.isScr
  | .cctlIinv _ base _ _ => evenR base.reg
  | .cctlL1wb _ base _ _ => evenR base.reg
  | .cctlL1inv _ base _ _ => evenR base.reg
  | .cctlL2evict _ base _ _ => evenR base.reg
  | .pin _ _ base _ _ => evenR base.reg
  | .unpin _ _ base _ _ => evenR base.reg
  | .atom _ _ _ _ base off _ => base.wf && off.noPol
  | .acas _ _ _ base off _ _ => base.wf && off.noPol
  | .afadd _ _ _ base off _ => base.wf && off.noPol
  | .ared _ op base off _ => (match op with | .int .exch _ => false | _ => true) && base.wf && off.noPol && off.ordNot .acq
  | .fence _ _ scope => scope ≠ .dflt
  | .xfence .. => true
  | .waitln _ _ _ _ _ base _ _ _ _ ord => base.wf && ord ≠ .rel
  | .cwb _ _ base _ => base.wf
  | .cpub _ base _ => base.wf
  | .tkq _ _ base _ => base.wf
  | .bias _ _ _ base _ _ => evenR base.reg
  | .cpy _ f p tr rm sat _ src dst geo _ _ => evenR src.reg && evenR dst.reg && evenR geo.reg && cpyWf f p tr (rm ≠ .rne || sat)
  | .cpyg _ f _ _ _ src dst geo _ => (f ≠ .raw && !f.isSx) && evenR src.reg && src.reg.toNat ≤ 120 && evenR dst.reg && evenR geo.reg
  | .cpys _ f rm sat _ src dst geo _ _ => (rm = .rne && !sat || (f ≠ .f32 && f ≠ .raw)) && evenR src.reg && evenR dst.reg && evenR geo.reg
  | .cpyw _ _ _ mask => immLe mask 0xFFFF
  | .cpyq _ op d a => immLe a 15 && (op ≠ .addr || evenR d)
  | .cpyqClr _ _ a => immLe a 15
  | .mma _ _ _ pa pb sp => evenR pa.reg && evenR pb.reg && (match sp with | some s => evenR s.reg | none => true)
  | .mloop _ _ _ pa pb sp _ _ _ _ => evenR pa.reg && evenR pb.reg && (match sp with | some s => evenR s.reg | none => true)
  | .acz .. => true
  | .acld _ _ src _ _ => evenR src.reg
  | .acdr _ _ v mom norm _ fresh nodata _ _ => evenR v.reg && (match mom with | some s => evenR s.reg | none => norm = none && !fresh && !nodata) &&
      !(norm.isSome && nodata)
  | .mwait .. | .bar .. => true
  | .cbar _ c => immLe c 255
  | .arv _ _ circ => match circ with | some c => immLe c 255 | none => true
  | .awt _ _ circ => match circ with | some c => immLe c 255 | none => true
  | .sput _ sel => match sel with | .imm w => w &&& 0xFFFFE0E0 = 0 | .reg _ => true
  | .sget _ sel => match sel with | .imm w => w &&& 0xFFFFE0E0 = 0 | .reg _ => true
  | .swait _ _ sel => match sel with | .imm w => w &&& 0xFFFFE0E0 = 0 | .reg _ => true
  | .marke _ k first cnt1 _ => first.toNat + cnt1.toNat + 1 ≤ (if k then 128 else 256)
  | .markf _ k first cnt1 _ => first.toNat + cnt1.toNat + 1 ≤ (if k then 128 else 256)
  | .feq _ k _ first cnt1 => first.toNat + cnt1.toNat + 1 ≤ (if k then 128 else 256)
  | .rstv .. => true
  | .rstk _ _ b64 _ data _ => !b64 || evenR data.reg
  | .rsig .. => true
  | .chq _ ent d _ => !ent || d.toNat % 4 = 0
  | .chqClr .. | .chgive .. | .chgiveRev .. | .hmqTeam .. | .hmqLive .. => true
  | .coll _ _ ptr _ => evenR ptr.reg
  | .collw _ _ _ slot => immLe slot 3
  | .collq _ _ _ slot => immLe slot 3
  | .rcpy _ _ src dst geo _ _ => evenR src.reg && evenR dst.reg && evenR geo.reg
  | .rcpyw _ _ info _ mask => immLe mask (if info then 7 else 0xFF)
  | .launch _ _ ptr _ => evenR ptr.reg
  | .lwait .. | .lqry .. | .yield .. | .sleep .. | .rgn .. | .rgnx .. | .tmig .. => true
  | .flxcfg _ _ _ n => match n with | .imm w => w = 0 || (16 ≤ w.toNat && w.toNat ≤ 512) | .reg _ => true
  | .flxq _ sel clr _ => !(clr && sel = .cfg)
  | .sysc .. | .rte .. => true
  | .mfs _ b64 d idx => ctlIs64 idx.toNat = some b64 && (!b64 || evenR d)
  | .mts _ b64 a idx => idx ≠ 0x106 && idx ≠ 0x10D && ctlIs64 idx.toNat = some b64 && (!b64 || evenR a.reg)
  | .pwstatReopen .. | .elhdWrite .. => true
  | .tlbiRange _ va _ => evenR va.reg
  | .tlbiAll .. | .ctxsv .. | .ctxld .. | .intr .. | .halt .. | .prio .. => true
  | .chset _ _ _ _ img => img.reg.toNat % 4 = 0 && img.reg.toNat < 124
  | .timeNow _ d => evenR d
  | .timeSkew .. => true
  | .cycClk _ d => evenR d
  | .cycFreq .. | .cycSteps .. => true
  | .tsnd _ _ _ src dst t len _ => evenR src.reg && evenR dst.reg && evenR t.reg && 16 ≤ len.toNat && len.toNat ≤ 2 ^ 24 &&
      len.toNat % 16 = 0
  | .slotw _ ptr _ => evenR ptr.reg
  | .linkcSt _ _ n => immLe n 255
  | .linkcOn _ t => evenR t.reg
  | .linkcOff .. | .linkcCst .. => true
  | .cnq _ _ i => immLe i 63
  | .loadDataReturn | .walkComplete | .remoteWalkRequest | .lineFillComplete | .tlbiRequest | .fabricTlbExpiry
  | .scopeFilterTimedPublish | .trd | .twr | .tdat | .ttok | .tret | .lossReport | .transientAttemptTimeout
  | .clampRaiseBound | .clmp | .clmpRetry | .clampBatchSelect | .clact | .clack | .cldone | .cldea
  | .controlMessageResend | .clampStallTimeout | .recastBoundRelease | .trec | .trca | .trecResend
  | .recastAnswerTimeout | .trdone | .trdack | .trdoneResend | .recastFenceExpiry | .hostRead
  | .hostReadForOwnership | .hostWriteback | .birsp | .hostSilentTimeout | .biasFlipComplete
  | .poolBackInvalidation | .shelfFailure | .poolCompletionTimeout | .cxlLinkDown | .copyTransferStart
  | .copyTransferRetire | .matrixInstructionStart | .matrixRetire | .circleArrival | .phaseEndNotice
  | .remoteStoreArrival | .remoteStoreRetry | .remoteStoreAck | .chgiveArrival | .remoteAnswer | .collMatch
  | .collMatchTimeout | .collStepArrival | .permitReturn | .collAbort | .tsndDue | .waitlnReread
  | .waitlnTimeout | .sleepExpiry | .pendingForcedSwap | .cohortDependenceMet | .teamDispatch | .teamStart
  | .stealRequest | .stealReply | .overloadMigration | .teamInstall | .preemptForPriority | .timeSliceExpiry
  | .fullSave | .regionRestart | .teamRestore | .tmigFallback | .fluxPassEntry | .fluxPassEnd
  | .flitRetryExhausted | .linkRetrain | .congestionNotice | .rateRecovery | .wavelengthWindowEnd
  | .wavelengthRetrained | .clockStep | .relockEnd | .circuitRotationStart | .circuitSlotBoundary
  | .circuitStop | .powerThrottleStep | .uncorrectableSectorError | .dieInternalError | .coldStart
  | .startControlCohort | .writeTenantRegister | .writeRoutingEntry | .setDieClock | .fabricGrant | .setPlimit
  | .assayReport | .warmStart | .writePerDieCounter | .fabricLinkUp | .unreportedMessageLoss
  | .homeAccessRequest | .storePerformed | .slotTableWrite | .shelfLinkUp => true

end Sys2Proof
end

