-- ==== Sys2Proof/Machine/Operands.lean ====
section
/-!
DEFINITION. Operand forms: sources and immediates of both widths, typed integers (R122, R123, R143), address
operands (R184), and the fields and first checks of a pointer (R53–R56).
-/
namespace Sys2Proof
namespace Machine

/-! ### Register sources and immediates -/

/-- A vector source in one lane. -/
def Regs.src (x : Regs) (s : Src) (l : Nat) : Word := x.v s.reg.toNat l
/-- A vector source or IMM32 in one lane (R122). -/
def Regs.srcI (x : Regs) (s : SrcI) (l : Nat) : Word :=
  match s with
  | .reg r => x.src r l
  | .imm w => w
/-- A vector pair source in one lane (R122). -/
def Regs.src2 (x : Regs) (s : Src) (l : Nat) : DWord := x.v2 s.reg.toNat l
/-- A vector pair source, or IMM32 zero-extended when `z` and sign-extended otherwise (R122). -/
def Regs.srcI2 (x : Regs) (z : Bool) (s : SrcI) (l : Nat) : DWord :=
  match s with
  | .reg r => x.src2 r l
  | .imm w => if z then w.setWidth 64 else w.signExtend 64
/-- A uniform source. -/
def Regs.ks (x : Regs) (s : Src) : Word := x.k s.reg.toNat
/-- A uniform source or IMM32. -/
def Regs.ksI (x : Regs) (s : SrcI) : Word :=
  match s with
  | .reg r => x.ks r
  | .imm w => w
/-- A uniform pair source. -/
def Regs.ks2 (x : Regs) (s : Src) : DWord := x.k2 s.reg.toNat
/-- A uniform pair source, or IMM32 sign-extended (R140). -/
def Regs.ksI2 (x : Regs) (s : SrcI) : DWord :=
  match s with
  | .reg r => x.ks2 r
  | .imm w => w.signExtend 64

/-! ### Typed integers (R123) -/

end Machine
/-- Width of an integer type. -/
def IntT.width (t : IntT) : Nat := if t.is64 then 64 else 32
/-- The value of the low bits of `n` in a type: signed or unsigned. -/
def IntT.val (t : IntT) (n : Nat) : Int :=
  let m := n % 2 ^ t.width
  if t.signed && 2 ^ (t.width - 1) ≤ m then (m : Int) - 2 ^ t.width else m
namespace Machine
/-- `get(f, T)` of a register field (R123). -/
def Regs.getT (x : Regs) (t : IntT) (s : Src) (l : Nat) : Int :=
  t.val (if t.is64 then (x.src2 s l).toNat else (x.src s l).toNat)
/-- `get(f, T)` of a field that the 96-bit form replaces (R122, R123). -/
def Regs.getTI (x : Regs) (t : IntT) (s : SrcI) (l : Nat) : Int :=
  t.val (if t.is64 then (x.srcI2 (t = .n64) s l).toNat else (x.srcI s l).toNat)

/-! ### Writing a result in the executing lanes -/

/-- Writes a vector register in the executing lanes. -/
def Ctx.putV (c : Ctx) (s : State) (d : RegNum) (f : Nat → Word) : Res :=
  .done (c.mod s fun x => x.setV d.toNat c.emask f)
/-- Writes a vector pair in the executing lanes. -/
def Ctx.putV2 (c : Ctx) (s : State) (d : RegNum) (f : Nat → DWord) : Res :=
  .done (c.mod s fun x => x.setV2 d.toNat c.emask f)
/-- `put(T, v)` in the executing lanes (R123). -/
def Ctx.putT (c : Ctx) (s : State) (t : IntT) (d : RegNum) (f : Nat → Int) : Res :=
  if t.is64 then c.putV2 s d fun l => BitVec.ofInt 64 (f l) else c.putV s d fun l => BitVec.ofInt 32 (f l)
/-- Writes a lane predicate in the executing lanes. -/
def Ctx.putP (c : Ctx) (s : State) (p : PredNum) (f : Nat → Bool) : Res :=
  .done (c.mod s fun x => x.setP p.toNat c.emask f)
/-- Writes a uniform register. -/
def Ctx.putK (c : Ctx) (s : State) (d : RegNum) (v : Word) : Res := .done (c.mod s fun x => x.setK d.toNat v)
/-- Writes a uniform pair. -/
def Ctx.putK2 (c : Ctx) (s : State) (d : RegNum) (v : DWord) : Res := .done (c.mod s fun x => x.setK2 d.toNat v)
/-- Writes a uniform predicate. -/
def Ctx.putQ (c : Ctx) (s : State) (q : PredNum) (v : Bool) : Res := .done (c.mod s fun x => x.setQ q.toNat v)

/-! ### Address operands (R184) -/

end Machine
/-- The signed byte offset of a memory operand. -/
def MOff.off : MOff → DWord
  | .none => 0
  | .imm w => w.signExtend 64
  | .ext w .. => w.signExtend 64
namespace Machine
/-- The signed byte offset of an optional immediate. -/
def offOf : Option Word → DWord
  | none => 0
  | some w => w.signExtend 64
/-- The address of lane `l` (R184). -/
def Regs.addr (x : Regs) (b : Base) (off : DWord) (l : Nat) : DWord :=
  match b with
  | .vpair s => x.src2 s l + off
  | .kpair s => x.ks2 s + off
  | .scr s => 0x1000000000000000 + (x.src s l).setWidth 64 + off

/-! ### Pointers (R53–R55) -/

/-- Address space of a pointer. -/
def ptrSpace (p : DWord) : Nat := p.toNat / 2 ^ 60
/-- POLICY field of a pointer. -/
def ptrPol (p : DWord) : Nat := p.toNat / 2 ^ 57 % 8
/-- ADDR field of a pointer. -/
def ptrAddr (p : DWord) : Nat := p.toNat % 2 ^ 57
/-- The first pointer check that fails, as the address-space cause of R391: 2 bad space, 1 bad pointer,
4 bad policy, 3 out of range, in the order of R54; `scr` and `priv` are the sizes of spaces 0x1 and 0x2. -/
def ptrCause (p : DWord) (scr priv : Nat) : Option Nat :=
  let a := ptrAddr p
  match ptrSpace p with
  | 0 | 4 | 5 => if 2 ^ 52 ≤ a then some 1 else if 5 ≤ ptrPol p then some 4 else none
  | 1 => if 2 ^ 32 ≤ a then some 1 else if scr ≤ a then some 3 else none
  | 2 => if 2 ^ 32 ≤ a then some 1 else if priv ≤ a then some 3 else none
  | 3 => if 5 ≤ ptrPol p then some 4 else none
  | 6 => none
  | _ => some 2
/-- The cache policy of an access: POLOV where it is not 0, otherwise the pointer's POLICY (R68, R201). -/
def policyOf (p : DWord) (o : PolOv) : Nat := if o = .none then ptrPol p else o.code - 1
/-- Default scope of a strong access by its space (R186). -/
def defaultScope (p : DWord) : Scope :=
  match ptrSpace p with
  | 1 => .team
  | 2 => .gang
  | 0 => .dev
  | 3 => .pod
  | 4 | 5 => .sys
  | _ => .fab
/-- The scope of an access: explicit, or the default of its space (R186). -/
def scopeOf (p : DWord) (s : Scope) : Scope := if s = .dflt then defaultScope p else s

end Machine
end Sys2Proof
end

