-- ==== Sys2Proof/Machine/Flags.lean ====
section
/-!
DEFINITION. Relations that predicates take (R124, R143), saturation (R94), shifts (R127) and the other word
functions that integer, uniform and packed instructions share.
-/
namespace Sys2Proof
namespace Machine

end Machine
/-- The integer relations of ICMP, KCMP, PCMP and WAITLN (R124). -/
def Rel.holds (r : Rel) (a b : Int) : Bool :=
  match r with
  | .eq => a = b
  | .ne => a ≠ b
  | .lt => a < b
  | .le => a ≤ b
  | .gt => b < a
  | .ge => b ≤ a
namespace Machine

/-- The value of a `w`-bit number, signed or unsigned. -/
def wval (signed : Bool) (w n : Nat) : Int :=
  let m := n % 2 ^ w
  if signed && 2 ^ (w - 1) ≤ m then (m : Int) - 2 ^ w else m
/-- The least value of a `w`-bit type. -/
def wmin (signed : Bool) (w : Nat) : Int := if signed then -(2 ^ (w - 1) : Int) else 0
/-- The greatest value of a `w`-bit type. -/
def wmax (signed : Bool) (w : Nat) : Int := if signed then 2 ^ (w - 1) - 1 else 2 ^ w - 1
/-- Saturation to a `w`-bit type (R94). -/
def wsat (signed : Bool) (w : Nat) (v : Int) : Int := max (wmin signed w) (min v (wmax signed w))
end Machine
/-- `sat_T` (R123). -/
def IntT.sat (t : IntT) (v : Int) : Int := Machine.wsat t.signed t.width v
namespace Machine

/-- SHL of R127 at width `w`. -/
def shlW {w : Nat} (a : BitVec w) (n : Nat) : BitVec w := if w ≤ n then 0 else a <<< n
/-- SHR of R127 at width `w`. -/
def shrW {w : Nat} (a : BitVec w) (n : Nat) : BitVec w := if w ≤ n then 0 else a >>> n
/-- SRA of R127 at width `w`. -/
def sraW {w : Nat} (a : BitVec w) (n : Nat) : BitVec w := a.sshiftRight (min n w)
/-- ROT of R127 at width `w`. -/
def rotW {w : Nat} (right : Bool) (a : BitVec w) (n : Nat) : BitVec w :=
  if right then a.rotateRight (n % w) else a.rotateLeft (n % w)
/-- Number of 1 bits (R129); of 0 it is 0, though the rule's last sentence gives each of its three counts `w` there (DEDUCED, log
101). -/
def popW {w : Nat} (a : BitVec w) : Nat := ((List.range w).filter a.getLsbD).length
/-- Number of 0 bits above the highest 1 bit (R129). -/
def clzW {w : Nat} (a : BitVec w) : Nat :=
  match (List.range w).find? fun i => a.getLsbD (w - 1 - i) with
  | some i => i
  | none => w
/-- Number of 0 bits below the lowest 1 bit (R129). -/
def ctzW {w : Nat} (a : BitVec w) : Nat :=
  match (List.range w).find? a.getLsbD with
  | some i => i
  | none => w
/-- Bits in reverse order (R129). -/
def revW {w : Nat} (a : BitVec w) : BitVec w :=
  BitVec.ofNat w ((List.range w).foldl (fun s i => if a.getLsbD i then s + 2 ^ (w - 1 - i) else s) 0)

end Machine
/-- IDIV of R125 in a type. -/
def IntT.div (t : IntT) (a b : Int) : Int :=
  if b = 0 then -1
  else if t.signed && a = Machine.wmin true t.width && b = -1 then a
  else a.tdiv b
/-- IREM of R125 in a type. -/
def IntT.rem (t : IntT) (a b : Int) : Int :=
  if b = 0 then a
  else if t.signed && a = Machine.wmin true t.width && b = -1 then 0
  else a - b * a.tdiv b
namespace Machine

/-- Position and clipped length of a bit field (R130); `none` when it is empty. -/
def bitField (ctl : Word) : Option (Nat × Nat) :=
  let pos := ctl.toNat % 256
  let len := ctl.toNat / 256 % 256
  if 32 ≤ pos then none
  else
    let n := min len (32 - pos)
    if n = 0 then none else some (pos, n)

/-- Element `e` of a packed operand (R133). -/
def elem (w : Nat) (signed : Bool) (a : Word) (e : Nat) : Int := wval signed w (a.toNat / 2 ^ (w * e))
/-- Packs element results, truncating each (R133). -/
def packE (w : Nat) (f : Nat → Int) : Word :=
  BitVec.ofNat 32 ((List.range (32 / w)).foldl (fun a e => a + ((f e) % 2 ^ w).toNat * 2 ^ (w * e)) 0)

end Machine
end Sys2Proof
end

