-- ==== Sys2Proof/Machine/Flux.lean ====
section
/-!
DEFINITION. The flux context and buffer (R377, R378): the registers a pass sees, poison, buffer entries, and what
each instruction does in a pass (R379–R382).
-/
namespace Sys2Proof
namespace Machine

/-- How an instruction is treated in a pass (R379–R381). -/
inductive FluxClass where
  | lane | uni | whole | shfl | control | load | poison | suppress | ends
  deriving DecidableEq, Repr

/-- The table of R379, by instruction. -/
def fluxClass (i : Instr) (opc : Nat) : FluxClass :=
  match i with
  | .exit .. | .trap .. | .bpt .. => .ends
  | .shfl .. => .shfl
  | .draw .. => .poison
  | .drawc .. => .suppress
  | .vtok .. => .whole
  | .kbc .. => .lane
  | .movs _ uni _ _ => if uni then .uni else .lane
  | .momst .. => .suppress
  | .momld .. | .ld .. | .ldk .. | .pft .. | .xlat .. => .load
  | .tkq .. | .feq .. | .chq .. | .chqClr .. | .hmqTeam .. | .hmqLive .. | .lqry .. | .collq .. | .cpyq .. |
    .cpyqClr .. | .timeNow .. | .timeSkew .. | .cycClk .. | .cycFreq .. | .cycSteps .. | .cnq .. => .poison
  | .bar .. | .cbar .. | .arv .. | .awt .. | .swait .. | .fence .. | .xfence .. | .waitln .. | .cpyw .. |
    .mwait .. | .rcpyw .. | .collw .. | .lwait .. | .yield .. | .sleep .. | .flxcfg .. | .flxq .. => .ends
  | _ =>
    if opc < 0x10 then .control
    else if opc < 0x18 then .uni
    else if opc < 0x50 then .lane
    else if opc < 0x60 then .whole
    else .suppress

/-- The registers of an entry. -/
def FluxEnt.regs : FluxEnt → List RegRef
  | .v n => [.v n]
  | .vp n => [.v n, .v (n + 1)]
  | .k n => [.k n]
  | .kp n => [.k n, .k (n + 1)]
  | .m n => [.m n]
/-- The entry that holds a register. -/
def Flux.entry? (f : Flux) (r : RegRef) : Option FluxEnt := f.entries.find? fun e => e.regs.contains r

/-- A counter of R387, which saturates. -/
def satInc (w : Word) : Word := if w = BitVec.allOnes 32 then w else w + 1

/-- Copies one register from the buffer. -/
def copyReg (src x : Regs) : RegRef → Regs
  | .v n => lanes.foldl (fun x l => x.putV n l (src.v n l)) x
  | .k n => if 127 ≤ n then x else { x with kregs := Store.set 0 x.kregs n (src.k n) }
  | .m n => x.setM n (src.m n)
  | _ => x
/-- The registers a pass reads (R377, R378): buffer entries over the architectural file, the context's slots,
counters and predicates, and every register full. -/
def Flux.view (f : Flux) (arch : Regs) : Regs :=
  let x := { arch with pri := f.ctx.pri, sec := f.ctx.sec, depth := f.ctx.depth, preds := f.ctx.preds,
                       qpreds := f.ctx.qpreds, vfull := BitVec.allOnes 256, kfull := BitVec.allOnes 128 }
  (f.entries.flatMap (·.regs)).foldl (copyReg f.ctx) x

/-- Lanes in which an architectural register is poison to a pass (R378): all, when it is empty or a load issued before the
pass owes it; and those in which it holds pool poison (R270, R382). -/
def Gang.archPoison (G : Gang) (f : Flux) (r : RegRef) : BitVec 32 :=
  if !G.regs.isFull r || f.held.contains r || G.owed.any fun o => o.2 = r && f.loads.contains o.1 then BitVec.allOnes 32
  else (G.pois.filter (·.reg = r)).foldl (fun m p => m ||| p.lanes) 0
/-- Poison of a register, one bit per lane (R378). -/
def Flux.poison (f : Flux) (G : Gang) (r : RegRef) : BitVec 32 :=
  let all (b : Bool) : BitVec 32 := if b then BitVec.allOnes 32 else 0
  if r.fixed then 0
  else match r with
  | .p n => Store.get 0 f.ppois n
  | .q n => all (f.qpois.getLsbD n)
  | .v n => if (f.entry? r).isSome then Store.get 0 f.vpois n else G.archPoison f r
  | .k n => if (f.entry? r).isSome then all (f.kpois.getLsbD n) else all (G.archPoison f r ≠ 0)
  | .m n => if (f.entry? r).isSome then all (f.mpois.getLsbD n) else all (G.archPoison f r ≠ 0)

/-- Sets the poison of one register. -/
def Flux.setPoison (f : Flux) (r : RegRef) (p : BitVec 32) : Flux :=
  match r with
  | .v n => { f with vpois := Store.set 0 f.vpois n p }
  | .k n => { f with kpois := if p = 0 then f.kpois &&& ~~~(1#128 <<< n) else f.kpois ||| (1#128 <<< n) }
  | .m n => { f with mpois := if p = 0 then f.mpois &&& ~~~(1#16 <<< n) else f.mpois ||| (1#16 <<< n) }
  | .p n => if n = 7 then f else { f with ppois := Store.set 0 f.ppois n p }
  | .q n => if n = 7 then f
            else { f with qpois := if p = 0 then f.qpois &&& ~~~(1#8 <<< n) else f.qpois ||| (1#8 <<< n) }

/-- New entries that a write of one operand takes (R377). -/
def Flux.newEnts (f : Flux) (rs : List RegRef) : List FluxEnt :=
  let single (r : RegRef) : List FluxEnt :=
    if (f.entry? r).isSome || r.fixed || !r.real then []
    else match r with
      | .v n => [.v n]
      | .k n => [.k n]
      | .m n => [.m n]
      | _ => []
  match rs with
  | [.v a, .v b] =>
    if (f.entry? (.v a)).isNone && (f.entry? (.v b)).isNone && a < 255 then [.vp a] else single (.v a) ++ single (.v b)
  | [.k a, .k b] =>
    if (f.entry? (.k a)).isNone && (f.entry? (.k b)).isNone then [.kp a] else single (.k a) ++ single (.k b)
  | rs => rs.flatMap single

/-- Takes an entry, its poison that of the registers before the write. -/
def Flux.addEnt (f : Flux) (G : Gang) (e : FluxEnt) : Flux :=
  let p := e.regs.foldl (fun a r => a ||| f.poison G r) 0
  let f := { f with entries := f.entries ++ [e] }
  e.regs.foldl (fun f r => f.setPoison r p) f

/-- A write of one operand (one, two or more registers) in lanes `w` with poison `p`, which takes no entry when there are no
such lanes; `none` when the buffer has
fewer than the entries it takes free (R377, R382). -/
def Flux.write (f : Flux) (G : Gang) (free : Nat) (rs : List RegRef) (w p : BitVec 32) : Option Flux :=
  let es := if w = 0 then [] else f.newEnts rs
  if free < f.entries.length + es.length then none
  else
    let f := es.foldl (fun f e => f.addEnt G e) f
    let touched := f.entries.filter fun e => e.regs.any rs.contains
    let f := touched.foldl (fun f e =>
      let old := e.regs.foldl (fun a r => a ||| f.poison G r) 0
      let cover := e.regs.all fun r => rs.contains r || r.fixed
      let new := (old &&& ~~~w) ||| (w &&& (if cover then p else p ||| old))
      e.regs.foldl (fun f r => f.setPoison r new) f) f
    some (rs.foldl (fun f r => match r with
      | .p _ | .q _ => f.setPoison r ((f.poison G r &&& ~~~w) ||| (w &&& p))
      | _ => f) f)

/-- Entries of the partition's buffer that a gang's pass may hold: 64 less those of the other pass (R377). -/
def State.fluxFree (s : State) (gid : Nat) (G : Gang) (die : Nat) : Nat :=
  64 - ((s.gangList.filter fun p => p.1 ≠ gid && p.2.core = G.core && p.2.part = G.part &&
      (match s.team? p.2.team with | some t => t.die = die | none => false)).foldl
    (fun a p => a + (match p.2.flux with | some f => f.entries.length | none => 0)) 0)

/-- A pass that ends at the next issue boundary (R382). -/
def State.stopFlux (s : State) (gid : Nat) : State :=
  s.modGang gid fun g => { g with flux := g.flux.map fun f => { f with ending := true } }

/-- Whether a pass is to end: a condition of R382 has been met, or every interlock on its blocked word is released. -/
def Gang.passOver (g : Gang) : Bool :=
  match g.flux with
  | some f => f.ending || (f.held.isEmpty && f.waitOn.all fun id => !(g.owed.any (·.1 = id)))
  | none => false

/-- Whether a field is a window of registers that a word marks or tests and does not read (R319, R320). -/
def isWindow : FK → Bool
  | .vwin .. | .kwin .. => true
  | _ => false
/-- Operands written by a word: its destination field, and the flag of SHFL; MARKE and MARKF write no register. -/
def fluxDests (i : Instr) (e : Enc) (sh : Shape) : List (List RegRef) :=
  let d := if isWindow sh.d then [] else sh.d.refs e.pl.dst.toNat
  let d := match d with
    | [a, b, c, x] => [[a, b], [c, x]]
    | _ => [d]
  match i with
  | .shfl _ _ _ _ _ _ p => d ++ [[.p p.toNat]]
  | _ => d
/-- The moment register that MOMU and MOMW merge into, which they read as well (R176). -/
def mergedM (e : Enc) (sh : Shape) : List RegRef :=
  if e.pl.opc.toNat = 0x59 || e.pl.opc.toNat = 0x5A then sh.d.refs e.pl.dst.toNat else []
/-- Sources of a word in a pass: its source fields, but for the flag of SHFL. -/
def fluxSources (i : Instr) (e : Enc) (sh : Shape) : List RegRef :=
  let c := sh.c.refs e.pl.sc.toNat
  sh.a.refs e.pl.sa.toNat ++ sh.b.refs e.pl.sb.toNat ++
    (match i with | .shfl .. => [] | _ => c) ++ mergedM e sh

/-- Poison that the sources and the guard of a word carry into each lane. -/
def Flux.srcPoison (f : Flux) (G : Gang) (i : Instr) (e : Enc) (sh : Shape) : BitVec 32 :=
  (fluxSources i e sh).foldl (fun a r => a ||| f.poison G r) 0
/-- The source lane of SHFL and whether it lies in the segment of `w` lanes (R166). -/
def shflLane (mode : ShflMode) (w l n : Nat) : Nat × Bool :=
  let b := l - l % w
  match mode with
  | .idx => (b + n, n < w)
  | .up => (l - n, n ≤ l - b)
  | .down => (l + n, n < b + w - l)
  | .xor => (l ^^^ n, n < w)
/-- The lane that lane `l` of a SHFL reads SA in (R166). -/
def shflFrom (mode : ShflMode) (w l n : Nat) : Nat := if (shflLane mode w l n).2 then (shflLane mode w l n).1 else l
/-- Words of a block (R116). -/
def bkWords : SxFmt → Nat
  | .sx2 => 2
  | .sx4 => 3
  | .sx7 => 5
/-- Lanes `a` of each 16-lane block, spread over the whole block. -/
def blockMask (a : BitVec 32) : BitVec 32 :=
  (if a &&& 0xFFFF#32 ≠ 0 then 0xFFFF#32 else 0) ||| (if a &&& 0xFFFF0000#32 ≠ 0 then 0xFFFF0000#32 else 0)
/-- Poison that the sources of a lane-local word carry into each lane: CVTBK reads its whole block (R116, R117, R378). -/
def laneSrcPoison (i : Instr) (emask amask sp gp : BitVec 32) : BitVec 32 :=
  match i with
  | .cvtbk .. => blockMask ((sp &&& emask) ||| (gp &&& amask))
  | .cvtbkWide _ f _ _ => blockMask (sp &&& maskOf fun l => l % 16 < bkWords f)
  | _ => sp
/-- Poison of the guard. -/
def Flux.guardPoison (f : Flux) (G : Gang) (e : Enc) (sh : Shape) : BitVec 32 :=
  match sh.guard with
  | .uniform => f.poison G (.q e.pl.pred.toNat)
  | _ => f.poison G (.p e.pl.pred.toNat)

/-- Puts the gang's own registers back after a word of a pass has run on the view, and keeps the pass's. -/
def State.afterFlux (s : State) (gid : Nat) (arch : Gang) (f : Flux) : State :=
  match s.gang? gid with
  | some g => s.setGang gid { arch with flux := some f, fluxPref := g.fluxPref, fluxWalks := g.fluxWalks,
                                        fluxFaults := g.fluxFaults }
  | none => s

/-- Counts a word; the pass ends when the budget is reached (R382). -/
def Flux.count (f : Flux) (n : Nat) : Flux :=
  { f with words := f.words + n, ending := f.ending || f.budget ≤ f.words + n }

/-- Whether a word has done more than write registers and its own slot: a trap, a split or an ended team. -/
def fluxStrays (s : State) (before after : Gang) : Bool :=
  ((s.team? before.team).all fun t => t.ending.isSome) || after.tr0 ≠ before.tr0 || after.tr1 ≠ before.tr1 ||
    after.regs.sec ≠ before.regs.sec || !after.resident

/-- Whether a control word ends the pass before it takes effect (R381): a poisoned guard that an active lane or the gang reads,
or a poisoned predicate, target or link. NOP reads nothing. -/
def Flux.controlEnds (f : Flux) (G : Gang) (i : Instr) (e : Enc) (sh : Shape) (c : Ctx) : Bool :=
  let gp := f.guardPoison G e sh
  let read (r : RegRef) : BitVec 32 := f.poison G r &&& (match r, i with
    | .v _, .callx .. => c.emask
    | .v _, _ | .p _, _ => c.amask
    | _, _ => BitVec.allOnes 32)
  match i with
  | .nop .. => false
  | _ =>
    match sh.guard with
    | .uniform => gp ≠ 0 || (c.ug && (fluxSources i e sh).any fun r => read r ≠ 0)
    | _ => gp &&& c.amask ≠ 0 || (fluxSources i e sh).any fun r => read r ≠ 0

/-- A call, which waits in a pass for the fetch of its target's header (R152, R382). -/
def isCall : Instr → Bool
  | .call .. | .callx .. => true
  | _ => false

/-- What the memory instructions of R380 do in a pass: the flux state and machine after, or `none` when the pass
ends for want of an entry. -/
abbrev FluxAct := Ctx → Gang → Flux → State → Option (Flux × State)

/-- One word of a pass (R379–R382). VTOK reads its lowest executing lane alone (R144); a DRAW too wide is a suppressed
fault. `c` reads the view, and `s` holds it with the PC past the word; `arch` is the
gang as it stands. -/
def fluxWord (i : Instr) (e : Enc) (sh : Shape) (n : Nat) (c : Ctx) (arch : Gang) (f : Flux) (s0 s : State)
    (eff : Ctx → State → Res) (act : FluxAct) : State :=
  let stop := s0.stopFlux c.gid
  let free := s0.fluxFree c.gid arch c.die
  let gp := f.guardPoison arch e sh
  let sp := f.srcPoison arch i e sh
  let dests := fluxDests i e sh
  let writeAll (f : Flux) (w p : BitVec 32) : Option Flux :=
    dests.foldl (fun f? d => f?.bind fun f => f.write arch free d w p) (some f)
  let runs : Bool := match sh.guard with | .uniform => c.ug | _ => true
  let finish (s : State) (r : Regs) (f : Flux) : State := s.afterFlux c.gid arch ({ f with ctx := r }.count n)
  let past : Regs := match s.gang? c.gid with | some g => g.regs | none => c.r
  let run (w p : BitVec 32) : State :=
    match eff c s with
    | .wait _ _ => stop
    | .done s2 =>
      match s2.gang? c.gid with
      | none => stop
      | some g =>
        if fluxStrays s2 c.G g then stop
        else match writeAll f w p with
          | none => stop
          | some f => finish s2 g.regs f
  match fluxClass i e.pl.opc.toNat with
  | .ends => stop
  | .lane => run (c.emask ||| (c.amask &&& gp)) (laneSrcPoison i c.emask c.amask sp gp ||| gp)
  | .uni =>
    if gp ≠ 0 || runs then
      let p : BitVec 32 := if gp ≠ 0 || sp ≠ 0 then BitVec.allOnes 32 else 0
      if runs then run (BitVec.allOnes 32) p
      else match writeAll f (BitVec.allOnes 32) p with
        | none => stop
        | some f => finish s past f
    else finish s past f
  | .whole =>
    let read := match i with
      | .vtok .. => c.emask &&& (0 - c.emask)
      | _ => c.emask
    let bad := gp &&& c.amask ≠ 0 || sp &&& read ≠ 0 || (fluxSources i e sh).any fun r => match r with
      | .v _ | .p _ => false
      | _ => f.poison arch r ≠ 0
    if c.emask = 0 && gp &&& c.amask = 0 then
      match eff c s with
      | .done s2 => finish s2 ((s2.gang? c.gid).elim past (·.regs)) f
      | .wait _ _ => stop
    else
      let w := match dests with
        | [.v _] :: _ | [.p _] :: _ => c.emask ||| (c.amask &&& gp)
        | _ => BitVec.allOnes 32
      run w (if bad then BitVec.allOnes 32 else 0)
  | .shfl =>
    let bits := f.poison arch (.v e.pl.sa.toNat)
    let nb := match sh.b with | .v => f.poison arch (.v e.pl.sb.toNat) | _ => 0
    let taken : BitVec 32 := match i with
      | .shfl _ mode w _ _ b _ => maskOf fun l => bits.getLsbD (shflFrom mode (32 / 2 ^ w.toNat) l (c.r.srcI b l).toNat)
      | _ => bits
    run (c.emask ||| (c.amask &&& gp)) (taken ||| nb ||| gp)
  | .control =>
    if f.controlEnds arch i e sh c then stop
    else if !runs then finish s past f
    else match eff c s with
      | .wait _ s2 => if isCall i then s2.afterFlux c.gid arch f else stop
      | .done s2 =>
        match s2.gang? c.gid with
        | none => stop
        | some g =>
          if fluxStrays s2 c.G g then stop
          else if c.emask = 0 then finish s2 g.regs f
          else match writeAll f (BitVec.allOnes 32) 0 with
            | none => stop
            | some f => finish s2 g.regs f
  | .poison | .suppress =>
    let w : BitVec 32 := match sh.guard with
      | .uniform => if runs || gp ≠ 0 then BitVec.allOnes 32 else 0
      | _ => c.emask ||| (c.amask &&& gp)
    let s := match i with
      | .draw _ _ _ n =>
        let clean := c.emask &&& ~~~(gp ||| (match sh.b with | .v => f.poison arch (.v e.pl.sb.toNat) | _ => 0))
        ((lanesOf clean).filter fun l => 32 < (c.r.srcI n l).toNat).foldl (fun s _ =>
          s.modGang c.gid fun g => { g with fluxFaults := satInc g.fluxFaults }) s
      | _ => s
    if w = 0 then finish s past f
    else
      let w := match dests with
        | (.k _ :: _) :: _ | (.m _ :: _) :: _ => BitVec.allOnes 32
        | _ => w
      match writeAll f w w with
      | none => stop
      | some f => finish s past f
  | .load =>
    match act c arch f s with
    | none => stop
    | some (f, s) => s.afterFlux c.gid arch ({ f with ctx := { f.ctx with pri := past.pri } }.count n)

end Machine
end Sys2Proof
end

