-- ==== Sys2Proof/Machine/Issue.lean ====
section
/-!
DEFINITION. The issue of one instruction: the checks of R392 in their order, the guard, the waits of R45 and R189,
and the effect of the instruction, or what a flux pass makes of it.
-/
namespace Sys2Proof
namespace Machine

/-- Major opcodes that a role may issue (R27). -/
def Role.may (r : Role) (opc : Nat) : Bool :=
  if (0x40 ≤ opc && opc < 0x60) then r = .gen || r = .vec
  else if 0x80 ≤ opc && opc ≤ 0x84 then r = .gen || r = .copy
  else if opc = 0x89 then r = .mtx
  else if 0x88 ≤ opc && opc ≤ 0x8D then r = .gen || r = .mtx
  else if opc = 0xA8 then r = .link
  else if 0xA9 ≤ opc && opc ≤ 0xAC then r = .gen || r = .link
  else if 0xD2 ≤ opc && opc ≤ 0xD4 then r = .gen || r = .link
  else true

/-- The gang instructions (R160). -/
def gangOp (opc : Nat) : Bool :=
  (0x80 ≤ opc && opc ≤ 0x84) || (0x88 ≤ opc && opc ≤ 0x8D) || (0xA0 ≤ opc && opc ≤ 0xA2) ||
  (0xA8 ≤ opc && opc ≤ 0xAC) || (0xB0 ≤ opc && opc ≤ 0xB2) || opc = 0xD2

/-- One operation of a word, with its fields and its row of the encoding tables. -/
structure Opn where
  i  : Instr
  e  : Enc
  sh : Shape
  deriving DecidableEq, Repr

/-- The registers of a word's fields. -/
def Opn.fields (o : Opn) : List RegRef :=
  o.sh.d.refs o.e.pl.dst.toNat ++ o.sh.a.refs o.e.pl.sa.toNat ++ o.sh.b.refs o.e.pl.sb.toNat ++
    o.sh.c.refs o.e.pl.sc.toNat
/-- The vector and uniform sources with their mode bits (R45). -/
def Opn.modes (o : Opn) : List (RegRef × Bool) :=
  let f (x : FK) (n : Nat) (m : Bool) : List (RegRef × Bool) :=
    if x.isSource then (x.refs n).map fun r => (r, m) else []
  f o.sh.a o.e.pl.sa.toNat o.e.pl.wa ++ f o.sh.b o.e.pl.sb.toNat o.e.pl.wb ++ f o.sh.c o.e.pl.sc.toNat o.e.pl.wc
/-- The registers that a word's sources and lane guard read, moment registers and predicates among them: those whose pool poison
it reports (R270). The third field of SHFL and LD names a predicate that is written. -/
def readsOf (e : Enc) (sh : Shape) : List RegRef :=
  let f (x : FK) (n : Nat) : List RegRef := match x with
    | .m | .p => x.refs n
    | _ => if x.isSource then x.refs n else []
  let c := if e.pl.opc.toNat = 0x50 || e.pl.opc.toNat = 0x60 then [] else f sh.c e.pl.sc.toNat
  f sh.a e.pl.sa.toNat ++ f sh.b e.pl.sb.toNat ++ c ++ mergedM e sh ++
    (match sh.guard with | .lane => [.p e.pl.pred.toNat] | _ => [])
def Opn.reads (o : Opn) : List RegRef := readsOf o.e o.sh
/-- Registers and predicates whose pending answers hold the word back (R189): every field but a window, and the
guard. -/
def Opn.touches (o : Opn) : List RegRef :=
  let f (x : FK) (n : Nat) : List RegRef := if isWindow x then [] else x.refs n
  f o.sh.d o.e.pl.dst.toNat ++ f o.sh.a o.e.pl.sa.toNat ++ f o.sh.b o.e.pl.sb.toNat ++ f o.sh.c o.e.pl.sc.toNat ++ [match o.sh.guard with
    | .uniform => .q o.e.pl.pred.toNat
    | _ => .p o.e.pl.pred.toNat]

/-- Whether a register lies within the launch budgets (R32, R34): of the numbers a multi-register operand names past the budget,
v255 and k127 alone are spared. -/
def inBudget (vbud kbud : Nat) : RegRef → Bool
  | .v n => n < 8 * vbud || n = 255
  | .k n => n < 8 * kbud || n = 127
  | _ => true
/-- Whether the tile field lies within the team's tiles (R38); ACZ names a run of tiles (R301). -/
def Opn.tilesOk (o : Opn) (tiles : Nat) : Bool :=
  let ok (x : FK) (n : Nat) : Bool := match x with
    | .tile => n < tiles
    | _ => true
  ok o.sh.d o.e.pl.dst.toNat && ok o.sh.a o.e.pl.sa.toNat &&
    (match o.i with
     | .acz _ a c => a.toNat + c.toNat + 1 ≤ tiles
     | _ => true)
/-- The register-range check (R32, R34, R38). -/
def Opn.rangeOk (o : Opn) (lr : LaunchRec) : Bool :=
  o.fields.all (inBudget lr.vbud lr.kbud) && o.tilesOk lr.tiles

/-- What the checks before the effect come to. -/
inductive Verdict where
  | ok
  | trap (code cause : Nat)
  | wait (w : Wait)
  deriving DecidableEq, Repr

/-- Classes 5 to 7 of R392 over the operations of a word: role, range, interlock, full and empty (R45). -/
def checkWord (os : List Opn) (G : Gang) (lr : LaunchRec) : Verdict :=
  if os.any fun o => !G.role.may o.e.pl.opc.toNat then .trap 0x03 0
  else if os.any fun o => !o.rangeOk lr then .trap 0x04 0
  else if os.any fun o => o.touches.any fun r => G.owed.any (·.2 = r) then .wait .interlock
  else if os.any fun o => o.modes.any fun m => !m.2 && !G.regs.isFull m.1 then .wait .source
  else if os.any fun o => o.modes.any fun m => m.2 && !G.regs.isFull m.1 then .trap 0x05 0
  else .ok

/-- Whether the gang's lanes are divided between slots or nested (R161, R371). -/
def Ctx.divided (c : Ctx) : Bool := c.sec || c.r.sec.valid || (lanesOf c.r.pri.lmask).any fun l => c.r.c l ≠ 0
/-- Classes 8 and 9 of R392: privilege (R390, R211), split-issue (R160), barrier-divergence (R161), region-state
(R371). -/
def checkMode (o : Opn) (c : Ctx) : Verdict :=
  let opc := o.e.pl.opc.toNat
  let needs := (0xC1 ≤ opc && opc ≤ 0xCA) || (match o.i with | .xlat _ pa .. => pa | _ => false)
  if needs && !c.priv then .trap 0x06 0
  else if gangOp opc && c.sec then .trap 0x07 0
  else if (opc = 0x90 || opc = 0x91) &&
      c.divided then .trap 0x08 0
  else if opc = 0xB5 && c.divided then .trap 0x09 0
  else .ok

/-- The lanes in which a source holds pool poison, and the address of each (R270). A write to the register in between, of which
the rule does not speak, leaves the poison to its first reader (DESIGN CHOICE, log 71). -/
def poolFaults (rs : List RegRef) (G : Gang) (am : BitVec 32) : List LaneFault :=
  let hits := G.pois.filter fun p => rs.contains p.reg
  (lanesOf am).filterMap fun l =>
    match hits.find? fun p => p.lanes.getLsbD l with
    | some p => some ⟨l, 0x13, 0, p.addr⟩
    | none => none
/-- Clears the pool poison that a word has reported. -/
def Gang.clearPool (G : Gang) (rs : List RegRef) (am : BitVec 32) : Gang :=
  let f (p : PoolPois) : PoolPois := if rs.contains p.reg then { p with lanes := p.lanes &&& ~~~am } else p
  { G with pois := (G.pois.map f).filter fun p => p.lanes ≠ 0 }

/-- The context of an operation at address `X`. -/
def mkCtx (gid : Nat) (G : Gang) (T : Team) (C : Cohort) (sec : Bool) (X : DWord) (n : Nat) (o : Opn) : Ctx :=
  let am := G.regs.active sec
  let g := o.e.g
  { gid := gid, G := G, T := T, C := C, sec := sec, X := X, next := X + BitVec.ofNat 64 n, amask := am,
    emask := (match o.sh.guard with | .lane => am &&& G.regs.laneGuard g | _ => am),
    ug := (match o.sh.guard with | .uniform => G.regs.uniGuard g | _ => true) }

/-- What an issue comes to before the effect: it stops; or it runs with a context, in the state whose PC is past the
word, unless its guard leaves it without effect; or a flux pass has it. -/
inductive Vet where
  | stop (o : Out)
  | go (c : Ctx) (s : State) (runs : Bool)
  | pass (o : Opn) (c : Ctx) (G : Gang) (f : Flux) (s : State)

/-- The operation of an instruction, or its illegal-instruction cause (R74). -/
def opnOf (i : Instr) : Except Nat Opn :=
  match encode i with
  | none => .error 3
  | some e =>
    match illegalCause e, shape e with
    | some c, _ => .error c
    | none, some sh => .ok ⟨i, e, sh⟩
    | none, none => .error 3

/-- Whether the guard lets the operation take effect: a uniform guard, and an active lane for a gang instruction. -/
def Opn.runs (o : Opn) (c : Ctx) : Bool :=
  c.ug && (!gangOp o.e.pl.opc.toNat || c.amask ≠ 0)

/-- The issuing gang with its PC past the word and what the word's last attempt left forgotten: the slot's wait, the pages walked
for it, what came for it at the home, and that it was a blocked word (R375). -/
def Ctx.gangPast (c : Ctx) : Gang :=
  let g : Gang := { c.G with regs := c.G.regs.setPc c.sec c.next, walked := [], eye := [], walkMhz := 0,
                               looks := c.G.looks.filter (·.sec ≠ c.sec) }
  { g.setWait c.sec .ready with fluxDone := c.G.fluxDone.erase c.X }
/-- The state with the issuing gang past the word. -/
def State.advance (s : State) (c : Ctx) : State := s.setGang c.gid c.gangPast

/-- A slot waits for `w`; a WAITLN that looks again keeps the time it issued (R224). -/
def Gang.parkAt (g : Gang) (sec : Bool) (w : Wait) : Gang :=
  match g.waitAt sec with
  | .recheck _ => g
  | _ => g.setWait sec w
/-- A gang that waits at its word. -/
def State.park (s : State) (gid : Nat) (sec : Bool) (w : Wait) : State := s.modGang gid fun g => g.parkAt sec w

/-- The checks of R392 on one operation outside a pass. -/
def vetOpn (o : Opn) (c : Ctx) (s : State) : Vet :=
  match checkWord [o] c.G c.C.lr with
  | .trap code cause => .stop (.next (c.trapTo code cause 0 c.X s))
  | .wait w => .stop (.next (s.park c.gid c.sec w))
  | .ok =>
    match checkMode o c with
    | .trap code cause => .stop (.next (c.trapTo code cause 0 c.X s))
    | .wait w => .stop (.next (s.park c.gid c.sec w))
    | .ok => .go c (s.advance c) (o.runs c)

/-- Class 1 of R392: pool poison on a source is delivered first; the other lanes go on when they can. -/
def vetPool (o : Opn) (c : Ctx) (n : Nat) (s : State) : Vet :=
  match poolFaults o.reads c.G c.amask with
  | [] => vetOpn o c s
  | fs =>
    let s := s.setGang c.gid (c.G.clearPool o.reads c.amask)
    let r := c.laneTrapTo fs c.next s
    match r.1, r.2.gang? c.gid with
    | true, some G => vetOpn o (mkCtx c.gid G c.T c.C c.sec c.X n o) r.2
    | _, _ => .stop (.next r.2)

/-- The context of an operation in a pass: the gang as the pass sees it. -/
def fluxCtx (o : Opn) (gid : Nat) (G : Gang) (T : Team) (C : Cohort) (f : Flux) : Ctx :=
  let V : Gang := { G with regs := f.view G.regs, flux := none }
  mkCtx gid V T C false V.regs.pri.pc o.e.form.bytes o
/-- A gang-wide trap condition that ends a pass (R382): role, range, privilege, split issue, barrier or region. -/
def fluxTraps (o : Opn) (G : Gang) (C : Cohort) (c : Ctx) : Bool :=
  !G.role.may o.e.pl.opc.toNat || !o.rangeOk C.lr || checkMode o c ≠ .ok
/-- An issue in a flux pass: a pass that is over ends first (R382); decode traps end it; nothing is waited for (R378). -/
def vetFlux (o : Opn) (gid : Nat) (G : Gang) (T : Team) (C : Cohort) (f : Flux) (s : State) : Vet :=
  if G.passOver then .stop (.next (s.endFlux gid))
  else
    let c := fluxCtx o gid G T C f
    if fluxTraps o G C c then .stop (.next (s.stopFlux gid)) else .pass o c G f s

/-- An illegal-instruction or pairing trap of a slot's word of `n` bytes with sources `rs`: lanes with pool poison on a source
take that fault first, and resume past the word (R392, R270). -/
def State.decodeFault (s : State) (gid : Nat) (G : Gang) (T : Team) (C : Cohort) (sec : Bool) (rs : List RegRef) (n : Nat)
    (code cause : Nat) : State :=
  let X := (G.regs.slot sec).pc
  let am := G.regs.active sec
  match poolFaults rs G am with
  | [] => s.deliver gid sec code cause am X 0 X
  | fs =>
    let c : Ctx := { gid := gid, G := G, T := T, C := C, sec := sec, X := X, next := X + BitVec.ofNat 64 n, amask := am, emask := am,
                     ug := true }
    let r := c.laneTrapTo fs c.next (s.setGang gid (G.clearPool rs am))
    if r.1 then r.2.deliver gid sec code cause (am &&& ~~~(maskOf fun l => fs.any (·.lane = l))) X 0 X else r.2

/-- The checks of R392 on an instruction issued by the current gang and slot. -/
def vet (i : Instr) (s : State) : Vet :=
  match s.gang? s.curGang with
  | none => .stop (.fault .noIssuingGang)
  | some G =>
    match s.team? G.team with
    | none => .stop (.fault .noIssuingGang)
    | some T =>
      match s.cohort? T.cohort with
      | none => .stop (.fault .noIssuingGang)
      | some C =>
        if !G.resident || !(G.regs.slot s.curSec).valid then .stop (.fault .noIssuingGang)
        else if G.bar.isSome then .stop (.next s)
        else
          let X := (G.regs.slot s.curSec).pc
          match opnOf i, G.flux with
          | .error _, some _ => .stop (.next (s.stopFlux s.curGang))
          | .error cause, none =>
            let src := match encode i with
              | some e => ((shape e).elim [] (readsOf e), e.form.bytes)
              | none => ([], 0)
            .stop (.next (s.decodeFault s.curGang G T C s.curSec src.1 src.2 0x01 cause))
          | .ok o, some f => vetFlux o s.curGang G T C f s
          | .ok o, none =>
            vetPool o (mkCtx s.curGang G T C s.curSec X o.e.form.bytes o) o.e.form.bytes s

/-- The outcome of an effect: a word that waits keeps its PC. -/
def settle (c : Ctx) : Res → Out
  | .done s => .next s
  | .wait w s => .next (s.modGang c.gid fun g =>
      { g.setWait c.sec w with regs := g.regs.setPc c.sec c.X, fluxDone := c.G.fluxDone, walked := (g.walked ++ c.G.walked).eraseDups,
                               walkMhz := if c.G.walkMhz = 0 then g.walkMhz else c.G.walkMhz })

/-- A word of a pass: its effect runs on the view with the PC past the word; a pool poison fault is suppressed and counted
(R382). -/
def runPass (o : Opn) (c : Ctx) (G : Gang) (f : Flux) (s : State) (eff : Ctx → State → Res) (act : FluxAct) : State :=
  let hits := (poolFaults (o.reads.filter fun r => (f.entry? r).isNone) G c.amask).length
  let s1 := s.setGang c.gid { c.G with regs := c.G.regs.setPc false c.next,
                                       fluxFaults := (List.range hits).foldl (fun w _ => satInc w) c.G.fluxFaults }
  fluxWord o.i o.e o.sh 1 c G f s s1 eff act

/-- Issues an instruction with the effect `eff`; `act` is what a memory instruction does in a pass (R380). -/
def issueF (i : Instr) (s : State) (act : FluxAct) (eff : Ctx → State → Res) : Out :=
  match vet i s with
  | .stop o => o
  | .go c s1 runs => if runs then settle c (eff c s1) else .next s1
  | .pass o c G f s => .next (runPass o c G f s eff act)

/-- Issues an instruction that is no load in a pass. -/
def issue (i : Instr) (s : State) (eff : Ctx → State → Res) : Out := issueF i s (fun _ _ f s => some (f, s)) eff

/-! ### Releases and acquires (R239) -/

/-- Waits until every access of the gang is performed and its core has published: what a release asks for. One within the L1's
reach publishes too, so that everything written before it is published before everything written after it (R231, R239, log 73). -/
def Ctx.release (c : Ctx) (s : State) : Option Wait × State :=
  if s.accesses.any (·.gang = c.gid) then (some .drain, s)
  else
    let r := s.publishCore c.core
    (if r.1 then none else some .drain, r.2)
/-- An acquire of a scope wider than the L1's reach (R239). -/
def Ctx.acquire (c : Ctx) (wide : Bool) (s : State) : State := if wide then s.dropCleanAll c.core else s

end Machine
end Sys2Proof
end

