-- ==== Sys2Proof/Machine/Fetch.lean ====
section
/-!
DEFINITION. Translation of a page for a gang (R193–R196), instruction fetch through the instruction cache (R75,
R392), the merge of split slots (R157), the choice of slot (R156), paired words (R69–R72), and how a program's
first word is placed (log 4).
-/
namespace Sys2Proof
namespace Machine

/-! ### Translation -/

/-- What a page translates to for a gang: an entry; a walk fault with its cause and bits [3:0] of the leaf read; or a walk that
is still running. -/
inductive Trans where
  | ok (e : Tlb)
  | flt (cause leaf : Nat) (s : State)
  | wait (s : State)

/-- Translates page `page` of a tenant's tables on device `dev` for a gang of core `ck` (R193–R196). -/
def State.translate (s : State) (ck tenant dev page gid : Nat) (fab : Bool) : Trans :=
  match s.look ck tenant dev page with
  | .hit e => .ok e
  | .miss =>
    let mine (w : Walk) : Bool := w.die = ck / 48 && w.tenant = tenant && w.dev = dev && w.page = page
    match s.walks.find? fun w => mine w && w.waiters.contains gid && w.res.isSome with
    | some w =>
      match w.res with
      | some (.flt c leaf) => .flt c leaf (s.dropWaiter w.id gid)
      | some (.ok e) => .ok e
      | none => .wait s
    | none => .wait ((s.startWalk (ck / 48) tenant dev page gid fab).2.modGang gid fun g =>
        { g with walked := if g.walked.contains (dev, page) then g.walked else (dev, page) :: g.walked })

/-! ### Fetch -/

/-- Instruction-cache key of a block of 32 bytes. -/
def icKey (tenant va : Nat) : Nat := tenant * 2 ^ 47 + va / 32

/-- What a fetch gives: the 32-byte block, a fault cause of trap 0x0E, or a walk in flight. -/
inductive Block where
  | ok (b : BitVec 256) (s : State)
  | flt (cause : Nat) (s : State)
  | wait (s : State)

/-- The block of instruction memory that holds `va`, through the core's instruction cache (R75, R391, R392). -/
def State.fetchBlock (s : State) (ck tenant dev gid : Nat) (va : DWord) : Block :=
  if !codeOk va then .flt 14 s
  else
    let a := va.toNat
    match s.translate ck tenant dev (a / 65536) gid false with
    | .wait s => .wait s
    | .flt c _ s => .flt c s
    | .ok e =>
      if !e.x then .flt 13 s
      else
        let pa := e.pa (a / 32 * 32)
        match Store.find (s.core ck).icache (icKey tenant a) with
        | some b => .ok b s
        | none =>
          if s.poisonAt dev pa then .flt 9 s
          else
            let b := BitVec.ofNat 256 (ofBytes (s.sysRead dev pa 32))
            .ok b (s.modCore ck fun c => { c with icache := Store.insert c.icache (icKey tenant a) b })

/-- The slot that a pass or the gang itself issues from. -/
def Gang.pc (g : Gang) (sec : Bool) : DWord :=
  match g.flux with
  | some f => f.ctx.pri.pc
  | none => (g.regs.slot sec).pc
/-- Moves the PC of the slot a gang issues from. -/
def Gang.toPc (g : Gang) (sec : Bool) (pc : DWord) : Gang :=
  match g.flux with
  | some f => { g with flux := some { f with ctx := f.ctx.setPc false pc } }
  | none => { g with regs := g.regs.setPc sec pc }

/-- Whether a major opcode is lane-local (R156). -/
def laneLocal (opc : Nat) : Bool :=
  opc = 0 || (0x20 ≤ opc && opc ≤ 0x3C) || (0x40 ≤ opc && opc ≤ 0x4F) || (0x60 ≤ opc && opc ≤ 0x69) ||
  (0x70 ≤ opc && opc ≤ 0x73) || opc = 0x76 || (0x78 ≤ opc && opc ≤ 0x7A)

/-- What a fetch and decode give: a word, or the state in which no word issues. -/
inductive Fetched where
  | one (i : Instr) (s : State)
  | two (a b : Instr) (s : State)
  | no (s : State)

/-- A fetch fault, which in a pass only ends the pass (R382). -/
def State.fetchFault (s : State) (gid : Nat) (sec : Bool) (cause : Nat) : State :=
  match s.gang? gid with
  | none => s
  | some g =>
    if g.flux.isSome then s.stopFlux gid
    else s.deliver gid sec 0x0E cause (g.regs.active sec) (g.pc sec) (g.pc sec) (g.pc sec)
/-- The registers that the sources of a word's operations read, and its length. -/
def wordReads (w : BitVec 128) : List RegRef × Nat :=
  ((wordEncs w).1.flatMap fun e => (shape e).elim [] (readsOf e), (wordEncs w).2)
/-- Whether every operation of a word is lane-local by its major opcode (R156). -/
def wordLocal (w : BitVec 128) : Bool := (wordEncs w).1.all fun e => laneLocal e.pl.opc.toNat

/-- Fetches and decodes the next word of a slot; fetch, illegal-instruction and pairing faults are delivered here. With `loc`, only
a lane-local word issues or traps at decode (R156); a fetch fault, of a word that is not known, is delivered even then (DESIGN
CHOICE, log 88). -/
def State.fetch (s : State) (gid : Nat) (sec loc : Bool) : Fetched :=
  match s.gang? gid with
  | none => .no s
  | some g =>
    match s.team? g.team with
    | none => .no s
    | some t =>
      match s.cohort? t.cohort with
      | none => .no s
      | some c =>
        let X := g.pc sec
        match s.fetchBlock (coreKey t.die g.core) c.tenant t.dev gid X with
        | .wait s => .no (s.park gid sec .walk)
        | .flt cause s => .no (s.fetchFault gid sec cause)
        | .ok b s =>
          let off := X.toNat % 32
          let w := (b >>> (8 * off)).setWidth 128
          let bad (code cause : Nat) : Fetched :=
            if g.flux.isSome then .no (s.stopFlux gid)
            else .no (s.decodeFault gid g t c sec (wordReads w).1 (wordReads w).2 code cause)
          if loc && !wordLocal w then .no (s.park gid sec .interlock)
          else match decodeWord w off with
          | .one i _ => .one i s
          | .two a b => .two a b s
          | .illegal cause => bad 0x01 cause
          | .pairing => bad 0x02 0

/-! ### Slots -/

/-- A fault split whose PC has come to the primary slot's PC merges (R157). -/
def State.mergeSplit (s : State) (gid : Nat) : State :=
  s.modGang gid fun g =>
    let p := g.regs.pri
    let q := g.regs.sec
    if q.valid && q.kind = 1 && p.valid && q.pc = p.pc then
      { g with regs := { g.regs with pri := { p with lmask := p.lmask ||| q.lmask }, sec := {} } }
    else g

/-- Whether the secondary slot of a gang issues before the primary: it holds a fault split that no event must wake (R156). -/
def State.secFirst (s : State) (gid : Nat) : Bool :=
  match s.gang? gid with
  | some g => g.split && !g.wait2.blocked
  | none => false
/-- Whether the primary slot may issue where the secondary cannot: it holds lanes and no event must wake it (R156). -/
def State.priFree (s : State) (gid : Nat) : Bool :=
  match s.gang? gid with
  | some g => g.regs.pri.valid && !g.wait.blocked
  | none => false
/-! ### Paired words (R72) -/

/-- The checks on the sources of both halves together; `some` state when the word does not issue (R72). -/
def pairStop (a b : Instr) (s : State) : Option State :=
  match s.gang? s.curGang, opnOf a, opnOf b with
  | some G, .ok x, .ok y =>
    match s.team? G.team with
    | none => none
    | some T =>
      match s.cohort? T.cohort with
      | none => none
      | some C =>
        if G.flux.isSome || !G.resident || G.bar.isSome then none
        else
          let c := mkCtx s.curGang G T C s.curSec (G.regs.slot s.curSec).pc 16 x
          match checkWord [x, y] G C.lr with
          | .ok => none
          | .trap code cause => some (c.trapTo code cause 0 c.X s)
          | .wait w => some (s.park c.gid c.sec w)
  | _, _, _ => none

/-- Lanes with pool poison on a source of either half leave before both halves (R72, R270). -/
def pairPool (a b : Instr) (s : State) : Bool × State :=
  match s.gang? s.curGang, opnOf a, opnOf b with
  | some G, .ok x, .ok y =>
    match s.team? G.team with
    | none => (true, s)
    | some T =>
      match s.cohort? T.cohort with
      | none => (true, s)
      | some C =>
        if G.flux.isSome then (true, s)
        else
          let c := mkCtx s.curGang G T C s.curSec (G.regs.slot s.curSec).pc 16 x
          match poolFaults (x.reads ++ y.reads) G c.amask with
          | [] => (true, s)
          | fs => c.laneTrapTo fs c.next (s.setGang c.gid (G.clearPool (x.reads ++ y.reads) c.amask))
  | _, _, _ => (true, s)

/-- The PC of a gang's slot set to `pc`. -/
def State.pairPc (s : State) (gid : Nat) (sec : Bool) (pc : DWord) : State := s.modGang gid fun g => g.toPc sec pc
/-- The pass of a gang, if any, changed by `f`. -/
def State.modFlux (s : State) (gid : Nat) (f : Flux → Flux) : State :=
  s.modGang gid fun g => { g with flux := g.flux.map f }
/-- The budget of a pass while the first half of a pair issues, which counts with the second half as one word (R382). -/
def State.pairOpen (s : State) (gid : Nat) : State := s.modFlux gid fun f => { f with budget := f.budget + 1 }
/-- The budget and count of a pass as the second half of a pair issues. -/
def State.pairShut (s : State) (gid : Nat) : State :=
  s.modFlux gid fun f => { f with budget := f.budget - 1, words := f.words - 1 }
/-- The PC of a gang's slot. -/
def State.pcOf (s : State) (gid : Nat) (sec : Bool) : DWord :=
  match s.gang? gid with
  | some g => g.pc sec
  | none => 0
/-- Whether a word that began in a pass has left it over. -/
def State.fluxOver (s : State) (gid : Nat) : Bool := ((s.gang? gid).map (·.passOver)).getD false

/-! ### Whether a gang issues at all -/

/-- The operations of the word at an address that is in the instruction cache or can be read, `none` when it cannot issue. -/
def State.wordAt (s : State) (gid : Nat) (g : Gang) (t : Team) (c : Cohort) (X : DWord) : Option (List Opn) :=
  match s.fetchBlock (coreKey t.die g.core) c.tenant t.dev gid X with
  | .ok b _ =>
    let off := X.toNat % 32
    match decodeWord ((b >>> (8 * off)).setWidth 128) off with
    | .one i _ => (match opnOf i with | .ok o => some [o] | .error _ => none)
    | .two i j => (match opnOf i, opnOf j with | .ok o, .ok p => some [o, p] | _, _ => none)
    | _ => none
  | _ => none
/-- Whether a gang sits on a core and issues there but for its place: its team runs, its die is up, and no barrier holds
it. -/
def Gang.seated (g : Gang) (t : Team) (d : Die) : Bool :=
  g.resident && t.state = .resident && !g.regs.retired && !d.fenced && d.relock.isNone && g.bar.isNone && !g.blocked
/-- The operations of a slot's next word, none when it cannot be read. -/
def State.slotOps (s : State) (gid : Nat) (g : Gang) (sec : Bool) : List Opn :=
  match s.team? g.team with
  | none => []
  | some t => ((s.cohort? t.cohort).bind fun c => s.wordAt gid g t c (g.regs.slot sec).pc).getD []
/-- The slot a gang issues from first, after a merge and the end of a pass that is over (R156, R157, R382). -/
def State.readyIssue (s : State) (gid : Nat) : State :=
  let s := if s.fluxOver gid then s.endFlux gid else s
  let s := s.mergeSplit gid
  { s with curGang := gid, curSec := s.secFirst gid }

/-! ### How a program's word is placed (log 4) -/

/-- The page that `withFetchWord` places its word in. -/
def bootVa : Nat := 0x10000
/-- The role that may issue a major opcode. -/
def bootRole (opc : Nat) : Role := if opc = 0xA8 then .link else if opc = 0x89 then .mtx else .gen
/-- The control cohort, team and gang that a load of one word installs on die 0 of device 0, as START CONTROL COHORT
would (R439): one team of one gang whose entry is the word. -/
def State.boot (s : State) (role : Role) : State :=
  let pword : Word := BitVec.ofNat 32 (1 + 64 * 1 + 4096 * 40)
  let lr : LaunchRec :=
    { entry := BitVec.ofNat 64 bootVa, vbud := 32, kbud := 16, tiles := 40, share := 65536, pword := pword }
  let c : Cohort := { tenant := 0, dev := 0, control := true, lr := lr, roles := [role], state := .run, placed := 1,
                      started := 1 }
  let t : Team :=
    { cohort := 0, tidx := 0, hall := 1, slotKey := 0, state := .resident, die := 0, cores := [0], tileMap := List.range 40 }
  let g : Gang := { team := 0, idx := 0, role := role, resident := true,
                    regs := { pri := { pc := BitVec.ofNat 64 bootVa, lmask := BitVec.allOnes 32, valid := true } } }
  let e : Tlb := { tenant := 0, dev := 0, group := 0, pfn0 := 0, mask := 2, w := true, x := true }
  let s := { s with cohSlots := Store.upd {} s.cohSlots 0 fun sl => { sl with cohort := some c },
                    teamSlots := Store.upd {} s.teamSlots 0 fun sl => { sl with team := some 0 } }
  let s := (s.setTeam 0 t).setGang 0 g
  s.modCore 0 fun k => { k with pword := pword, ltlb := [e], icache := Store.erase k.icache (icKey 0 bootVa) }

/-- The state with a word stored where the next step fetches: its bytes at the boot page, the cohort that runs it, and
that gang next on the agenda. -/
def State.placeWord (s : State) (nbits w : Nat) : State :=
  let n := (nbits + 7) / 8
  let v := w % 2 ^ nbits
  let s := s.boot (bootRole (v / 4 % 256))
  { s with mem := writeBytes s.mem (memKey 0 bootVa) (toBytes (max n 16) v), agenda := .issue 0 :: s.agenda }

end Machine
end Sys2Proof
end

