-- ==== Sys2Proof/Machine/Float.lean ====
section
/-!
DEFINITION. Number formats and exact arithmetic (R91–R99): decoding to exact values, the one rounding function,
operations on exact values, the special functions of R109, and the shared-exponent blocks.
-/
namespace Sys2Proof
namespace Machine

/-! ### Exact values -/

/-- An exact value: NaN, a signed infinity, or a signed magnitude `num / den` with `den` not 0. -/
inductive Fx where
  | nan
  | inf (neg : Bool)
  | fin (neg : Bool) (num den : Nat)
  deriving DecidableEq, Repr

/-- Floor of the base-2 logarithm of `num / den`, both not 0. -/
def flog2 (num den : Nat) : Int :=
  let d : Int := (Nat.log2 num : Int) - Nat.log2 den
  let le : Bool := if 0 ≤ d then den * 2 ^ d.toNat ≤ num else den ≤ num * 2 ^ (-d).toNat
  if le then d else d - 1

/-- The integer that mode `m` chooses for the magnitude `a / b` of a value of sign `neg` (R93). -/
def rintMag (m : Rm) (neg : Bool) (a b : Nat) : Nat :=
  let k := a / b
  let r := a % b
  let up : Bool := match m with
    | .rne => b < 2 * r || (2 * r = b && k % 2 = 1)
    | .rtz => false
    | .rup => !neg && r ≠ 0
    | .rdn => neg && r ≠ 0
  if up then k + 1 else k

/-! ### Interchange formats (R91, R92) -/

/-- An interchange format: exponent and fraction widths, bias, code of the largest finite value, NaN code (`none` for
E2M1), and whether it has infinities. -/
structure FFmt where
  ebits  : Nat
  fbits  : Nat
  bias   : Nat
  maxFin : Nat
  nan    : Option Nat
  infs   : Bool
  deriving DecidableEq, Repr

def fmt32 : FFmt := ⟨8, 23, 127, 0x7F7FFFFF, some 0x7FC00000, true⟩
def fmt16 : FFmt := ⟨5, 10, 15, 0x7BFF, some 0x7E00, true⟩
def fmtBf : FFmt := ⟨8, 7, 127, 0x7F7F, some 0x7FC0, true⟩
def fmtE5 : FFmt := ⟨5, 2, 15, 0x7B, some 0x7E, true⟩
def fmtE4 : FFmt := ⟨4, 3, 7, 0x7E, some 0x7F, false⟩
def fmtE2 : FFmt := ⟨2, 1, 1, 0x7, none, false⟩

/-- Bits of a format. -/
def FFmt.width (f : FFmt) : Nat := 1 + f.ebits + f.fbits
/-- The code's sign bit. -/
def FFmt.sign (f : FFmt) (neg : Bool) : Nat := if neg then 2 ^ (f.ebits + f.fbits) else 0

/-- The exact value of a code (R91, R92). -/
def FFmt.dec (f : FFmt) (n : Nat) : Fx :=
  let mag := n % 2 ^ (f.ebits + f.fbits)
  let neg : Bool := n / 2 ^ (f.ebits + f.fbits) % 2 = 1
  let e := mag / 2 ^ f.fbits
  let m := mag % 2 ^ f.fbits
  if mag ≤ f.maxFin then
    let k := if e = 0 then m else m + 2 ^ f.fbits
    let p : Int := (if e = 0 then 1 else e : Nat) - (f.bias + f.fbits : Nat)
    if 0 ≤ p then .fin neg (k * 2 ^ p.toNat) 1 else .fin neg k (2 ^ (-p).toNat)
  else if f.infs && m = 0 then .inf neg
  else .nan

/-- The canonical NaN; +0 where the format has none (R92, R93). -/
def FFmt.nanCode (f : FFmt) : Nat := f.nan.getD 0
/-- What an infinite result becomes in a format (R93). -/
def FFmt.infCode (f : FFmt) (neg : Bool) : Nat :=
  if f.infs then f.sign neg + (2 ^ f.ebits - 1) * 2 ^ f.fbits
  else match f.nan with
    | some n => n
    | none => f.sign neg + f.maxFin
/-- The outcome of an overflow (R93); `sat` replaces an infinite one by the largest finite value (R94). -/
def FFmt.ovf (f : FFmt) (m : Rm) (sat neg : Bool) : Nat :=
  let inf : Bool := match m with
    | .rne => true
    | .rtz => false
    | .rup => !neg
    | .rdn => neg
  if inf && !sat then f.infCode neg else f.sign neg + f.maxFin

/-- `rnd` and, under `sat`, `rnd_sat` (R93, R94): the code of an exact value in a format. -/
def FFmt.rnd (f : FFmt) (m : Rm) (sat : Bool) : Fx → Nat
  | .nan => f.nanCode
  | .inf neg => if sat then f.sign neg + f.maxFin else f.infCode neg
  | .fin neg num den =>
    if num = 0 then f.sign neg
    else
      let emin : Int := 1 - (f.bias : Int)
      let e := max (flog2 num den) emin
      let sh := e - f.fbits
      let k := if 0 ≤ sh then rintMag m neg num (den * 2 ^ sh.toNat) else rintMag m neg (num * 2 ^ (-sh).toNat) den
      let code := (e - emin).toNat * 2 ^ f.fbits + k
      if f.maxFin < code then f.ovf m sat neg else f.sign neg + code

/-- An FP32 register as an exact value. -/
def f32 (w : Word) : Fx := fmt32.dec w.toNat
/-- An exact value rounded to FP32. -/
def r32 (m : Rm) (x : Fx) : Word := BitVec.ofNat 32 (fmt32.rnd m false x)

/-! ### Operations on exact values (R95, R104, R105) -/

namespace Fx
/-- Sign, NaN taken as positive. -/
def neg? : Fx → Bool
  | .nan => false
  | .inf n => n
  | .fin n _ _ => n
/-- Whether a value is a zero. -/
def isZero : Fx → Bool
  | .fin _ num _ => num = 0
  | _ => false
def isNan : Fx → Bool
  | .nan => true
  | _ => false
def isInf : Fx → Bool
  | .inf _ => true
  | _ => false
/-- The negative of a value. -/
def negate : Fx → Fx
  | .nan => .nan
  | .inf n => .inf (!n)
  | .fin n a b => .fin (!n) a b
/-- The magnitude. -/
def abs : Fx → Fx
  | .nan => .nan
  | .inf _ => .inf false
  | .fin _ a b => .fin false a b
/-- The exact value of an integer; zero is +0. -/
def ofInt (v : Int) : Fx := .fin (v < 0) v.natAbs 1
/-- A sum; `m` decides the sign of an exact zero (R95). -/
def add (m : Rm) (x y : Fx) : Fx :=
  match x, y with
  | .nan, _ => .nan
  | _, .nan => .nan
  | .inf a, .inf b => if a = b then .inf a else .nan
  | .inf a, .fin .. => .inf a
  | .fin .., .inf b => .inf b
  | .fin a n d, .fin b p q =>
    if n = 0 && p = 0 then .fin (if a = b then a else m = .rdn) 0 1
    else if n = 0 then .fin b p q
    else if p = 0 then .fin a n d
    else
      let u := n * q
      let v := p * d
      if a = b then .fin a (u + v) (d * q)
      else if u = v then .fin (m = .rdn) 0 1
      else if v < u then .fin a (u - v) (d * q)
      else .fin b (v - u) (d * q)
/-- A difference. -/
def sub (m : Rm) (x y : Fx) : Fx := add m x y.negate
/-- A product (R95, R105). -/
def mul (x y : Fx) : Fx :=
  match x, y with
  | .nan, _ => .nan
  | _, .nan => .nan
  | .inf a, .inf b => .inf (a != b)
  | .inf a, .fin b p _ => if p = 0 then .nan else .inf (a != b)
  | .fin a n _, .inf b => if n = 0 then .nan else .inf (a != b)
  | .fin a n d, .fin b p q => .fin (a != b) (n * p) (d * q)
/-- A quotient (R104, R105). -/
def div (x y : Fx) : Fx :=
  match x, y with
  | .nan, _ => .nan
  | _, .nan => .nan
  | .inf _, .inf _ => .nan
  | .inf a, .fin b _ _ => .inf (a != b)
  | .fin a _ _, .inf b => .fin (a != b) 0 1
  | .fin a n d, .fin b p q =>
    if p = 0 then (if n = 0 then .nan else .inf (a != b)) else .fin (a != b) (n * q) (d * p)
/-- `a · b + c` with no intermediate rounding. -/
def fma (m : Rm) (a b c : Fx) : Fx := add m (mul a b) c
/-- Multiplication by a power of two. -/
def scale (x : Fx) (n : Int) : Fx :=
  match x with
  | .fin s a b => if 0 ≤ n then .fin s (a * 2 ^ n.toNat) b else .fin s a (b * 2 ^ (-n).toNat)
  | x => x
/-- Sign of the difference of two numbers, −0 equal to +0: negative, zero or positive. -/
def cmp (x y : Fx) : Int :=
  match x, y with
  | .fin a n d, .fin b p q =>
    let u : Int := (if a then -1 else 1) * (n * q : Nat)
    let v : Int := (if b then -1 else 1) * (p * d : Nat)
    if u < v then -1 else if u = v then 0 else 1
  | .inf a, .inf b => if a = b then 0 else if a then -1 else 1
  | .inf a, _ => if a then -1 else 1
  | _, .inf b => if b then 1 else -1
  | _, _ => 0
end Fx

/-- Floor of the square root, one bit of the root at a time from bit `i - 1`. -/
def isqrtFrom (n : Nat) : Nat → Nat → Nat
  | 0, r => r
  | i + 1, r => isqrtFrom n i (if (r + 2 ^ i) * (r + 2 ^ i) ≤ n then r + 2 ^ i else r)
/-- Floor of the square root. -/
def isqrt (n : Nat) : Nat := isqrtFrom n (Nat.log2 n / 2 + 1) 0
/-- The square root of `num / den` to 256 fraction bits and more, with a half unit when it is not exact, so that every
rounding of it to a format of R91 is right. -/
def sqrtFx (num den : Nat) : Fx :=
  let n := num * den * 2 ^ 512
  let r := isqrt n
  if r * r = n then .fin false r (den * 2 ^ 256) else .fin false (2 * r + 1) (den * 2 ^ 257)

/-! ### Special functions (R109) to 320 fraction bits (log 10) -/

/-- Fraction bits of the fixed-point evaluations. -/
def fxP : Nat := 320
/-- π in fixed point. -/
def piFx : Nat := 0x3243f6a8885a308d313198a2e03707344a4093822299f31d0082efa98ec4e6c89452821e638d01377
/-- ln 2 in fixed point. -/
def ln2Fx : Nat := 0xb17217f7d1cf79abc9e3b39803f2f6af40f343267298b62d8a0d175b8baafa2be7b876206debac98
/-- A fixed-point value that is not exact: the middle of its last unit. -/
def ofFix (neg : Bool) (v : Nat) : Fx := .fin neg (2 * v + 1) (2 ^ (fxP + 1))

/-- Sum of `x^k / k!` from a running term. -/
def expFrom (x : Nat) : Nat → Nat → Nat → Nat → Nat
  | 0, _, _, sum => sum
  | n + 1, k, term, sum =>
    let t := term * x / (k * 2 ^ fxP)
    expFrom x n (k + 1) t (sum + t)
/-- `e^x` of a fixed-point `x` below 1. -/
def expFix (x : Nat) : Nat := expFrom x 90 1 (2 ^ fxP) (2 ^ fxP)
/-- Alternating sum of the sine series from a running term. -/
def sinFrom (x2 : Nat) : Nat → Nat → Nat → Int → Int
  | 0, _, _, sum => sum
  | n + 1, k, term, sum =>
    let t := term * x2 / (2 * k * (2 * k + 1) * 2 ^ fxP)
    sinFrom x2 n (k + 1) t (if k % 2 = 1 then sum - t else sum + t)
/-- `sin(π·r)` for `r = num / den` from 0 to 1/2. -/
def sinPi (num den : Nat) : Nat :=
  let x := piFx * num / den
  (sinFrom (x * x / 2 ^ fxP) 60 1 x x).toNat
/-- Sum of the series of atanh from a running power. -/
def atanhFrom (z2 : Nat) : Nat → Nat → Nat → Nat → Nat
  | 0, _, _, sum => sum
  | n + 1, k, pw, sum =>
    let p := pw * z2 / 2 ^ fxP
    atanhFrom z2 n (k + 1) p (sum + p / (2 * k + 1))
/-- `ln(num / den)` for a ratio from 1 to 2. -/
def lnFix (num den : Nat) : Nat :=
  let z := (num - den) * 2 ^ fxP / (num + den)
  2 * atanhFrom (z * z / 2 ^ fxP) 120 1 z z

/-- `2^(num / den)` for a ratio below 1. -/
def exp2Frac (num den : Nat) : Nat := expFix (ln2Fx * num / den)
/-- FEXP2 of R109. -/
def fexp2 : Fx → Fx
  | .nan => .nan
  | .inf n => if n then .fin false 0 1 else .inf false
  | .fin neg num den =>
    if num = 0 then .fin false 1 1
    else if 300 * den ≤ num then (if neg then .fin false 1 (2 ^ 300) else .fin false (2 ^ 300) 1)
    else
      let i := num / den
      let r := num % den
      if r = 0 then (if neg then .fin false 1 (2 ^ i) else .fin false (2 ^ i) 1)
      else if neg then (ofFix false (exp2Frac (den - r) den)).scale (-(i + 1 : Nat))
      else (ofFix false (exp2Frac r den)).scale i
/-- FLOG2 of R109. -/
def flog2Fx : Fx → Fx
  | .nan => .nan
  | .inf n => if n then .nan else .inf false
  | .fin neg num den =>
    if num = 0 then .inf true
    else if neg then .nan
    else
      let e := flog2 num den
      let n := if 0 ≤ e then num else num * 2 ^ (-e).toNat
      let d := if 0 ≤ e then den * 2 ^ e.toNat else den
      if n = d then Fx.ofInt e
      else
        let v : Int := e * 2 ^ fxP + (lnFix n d * 2 ^ fxP / ln2Fx : Nat)
        if 0 ≤ v then ofFix false v.toNat else ofFix true ((-v).toNat - 1)
/-- The sine of half-turns `num / den`, of a positive argument, with sign `neg` when it is in the first half-turn. -/
def sinHalfTurns (neg : Bool) (num den : Nat) : Fx :=
  let r := num % (2 * den)
  let flip := den ≤ r
  let q := r % den
  if q = 0 then .fin neg 0 1
  else if 2 * q = den then .fin (neg != flip) 1 1
  else ofFix (neg != flip) (sinPi (if 2 * q < den then q else den - q) den)
/-- FSIN of R109: the argument is in half-turns, and an integer gives a zero of its sign. -/
def fsin : Fx → Fx
  | .fin neg num den => if num = 0 then .fin neg 0 1 else sinHalfTurns neg num den
  | _ => .nan
/-- FCOS of R109. -/
def fcos : Fx → Fx
  | .fin _ num den =>
    if num = 0 then .fin false 1 1
    else match sinHalfTurns false (2 * num + den) (2 * den) with
      | .fin n a b => .fin (n && a ≠ 0) a b
      | x => x
  | _ => .nan
/-- FTANH of R109. -/
def ftanh : Fx → Fx
  | .nan => .nan
  | .inf n => .fin n 1 1
  | .fin neg num den =>
    if num = 0 then .fin neg 0 1
    else if 32 * den ≤ num then .fin neg (2 ^ 80 - 1) (2 ^ 80)
    else
      let x := 2 * num * 2 ^ fxP / den
      let n := x / ln2Fx
      let e := expFix (x % ln2Fx) * 2 ^ n
      let v := (e - 2 ^ fxP) * 2 ^ fxP / (e + 2 ^ fxP)
      ofFix neg v
/-- FRSQ of R109. -/
def frsq : Fx → Fx
  | .nan => .nan
  | .inf n => if n then .nan else .fin false 0 1
  | .fin neg num den => if num = 0 then .inf neg else if neg then .nan else sqrtFx den num
/-- FSQRT of R109. -/
def fsqrt : Fx → Fx
  | .nan => .nan
  | .inf n => if n then .nan else .inf false
  | .fin neg num den => if num = 0 then .fin neg 0 1 else if neg then .nan else sqrtFx num den

/-! ### Integers and fractions (R94, R112, R119) -/

/-- `rint(M, x)` of a finite value, with its sign. -/
def rintFx (m : Rm) (neg : Bool) (num den : Nat) : Int :=
  let k := rintMag m neg num den
  if neg then -(k : Int) else k
/-- FROUND of R119. -/
def fround (m : Rm) : Fx → Fx
  | .fin neg num den => .fin neg (rintMag m neg num den) 1
  | x => x
/-- FFRAC of R119. -/
def ffrac (m : Rm) (x : Fx) : Word :=
  match x with
  | .fin neg num den =>
    let r := num % den
    let f := if r = 0 then 0 else if neg then den - r else r
    BitVec.ofNat 32 (min (fmt32.rnd m false (.fin false f den)) 0x3F7FFFFF)
  | _ => 0x7FC00000

/-! ### Shared-exponent blocks (R96–R98) -/

/-- Magnitude bits of a block format. -/
def sxBits : SxFmt → Nat
  | .sx2 => 2
  | .sx4 => 4
  | .sx7 => 7
/-- Bytes of a block. -/
def sxBytes (f : SxFmt) : Nat := 4 + 2 * sxBits f
/-- `mag(i, E, u)` of R98; `none` is infinite. -/
def sxMag (m : Nat) (rm : Rm) (x : Fx) (e u : Nat) : Option Nat :=
  match x with
  | .fin neg num den =>
    let p : Int := (e : Int) - 127 - u - (m - 1 : Nat)
    some (if 0 ≤ p then rintMag rm neg num (den * 2 ^ p.toNat) else rintMag rm neg (num * 2 ^ (-p).toNat) den)
  | _ => none
/-- Whether a magnitude fits `m` bits. -/
def sxFits (m : Nat) : Option Nat → Bool
  | some k => k ≤ 2 ^ m - 1
  | none => false
/-- The greatest magnitude of a list of numbers. -/
def maxMag (xs : List Fx) : Fx := xs.foldl (fun a x => if 0 < Fx.cmp x.abs a then x.abs else a) (.fin false 0 1)
/-- The shared exponent of R98. -/
def sxExp (m : Nat) (rm : Rm) (xs : List Fx) : Nat :=
  match maxMag xs with
  | .fin _ num den =>
    if num = 0 then 0
    else
      let e := (max 0 (flog2 num den + 127)).toNat
      let e := if xs.any fun x => !sxFits m (sxMag m rm x e 0) then e + 1 else e
      min e 254
  | _ => 254
/-- Packs fields of `w` bits, the first lowest. -/
def packBits (w : Nat) : List Nat → Nat
  | [] => 0
  | x :: rest => x + 2 ^ w * packBits w rest
/-- `sx_enc` (R98): the bytes of the block of sixteen values. -/
def sxEnc (f : SxFmt) (rm : Rm) (sat : Bool) (xs : List Fx) : List Byte :=
  let m := sxBits f
  if xs.any fun x => x.isNan || (!sat && x.isInf) then 0xFF :: List.replicate (sxBytes f - 1) 0
  else
    let e := sxExp m rm xs
    let x (i : Nat) : Fx := xs.getD i (.fin false 0 1)
    let fine (j : Nat) : Bool := sxFits m (sxMag m rm (x (2 * j)) e 1) && sxFits m (sxMag m rm (x (2 * j + 1)) e 1)
    let field (i : Nat) : Nat :=
      let k := match sxMag m rm (x i) e (if fine (i / 2) then 1 else 0) with
        | some k => min k (2 ^ m - 1)
        | none => 2 ^ m - 1
      (if (x i).neg? then 2 ^ m else 0) + k
    let mu := packBits 1 ((List.range 8).map fun j => if fine j then 1 else 0)
    toBytes 1 e ++ toBytes 1 mu ++ toBytes (sxBytes f - 2) (packBits (m + 1) ((List.range 16).map field))
/-- The value of element `i` of a block (R97). -/
def sxDec (f : SxFmt) (bs : List Byte) (i : Nat) : Fx :=
  let m := sxBits f
  let n := ofBytes bs
  let e := n % 256
  if e = 255 then .nan
  else
    let u := n / 2 ^ (8 + i / 2) % 2
    let fld := n / 2 ^ (16 + (m + 1) * i) % 2 ^ (m + 1)
    Fx.scale (.fin (2 ^ m ≤ fld) (fld % 2 ^ m) 1) ((e : Int) - 127 - u - (m - 1 : Nat))

/-! ### The matrix accumulator format (R99) -/

/-- `rne26` (R99): the value after narrowing to the 26-bit accumulator format. -/
def rne26 : Fx → Fx
  | .fin neg num den =>
    if num = 0 then .fin neg 0 1
    else
      let sh := flog2 num den - 17
      let k := if 0 ≤ sh then rintMag .rne neg num (den * 2 ^ sh.toNat) else rintMag .rne neg (num * 2 ^ (-sh).toNat) den
      let y := Fx.scale (.fin neg k 1) sh
      if 0 ≤ Fx.cmp y.abs (.fin false (2 ^ 128) 1) then .inf neg
      else if Fx.cmp y.abs (.fin false 1 (2 ^ 126)) < 0 then .fin neg 0 1
      else y
  | x => x

end Machine
end Sys2Proof
end

