-- ==== Sys2Proof/Machine/FloatOps.lean ====
section
/-!
DEFINITION. Floating-point instructions, major opcodes 0x40–0x4F (R100–R119).
-/
namespace Sys2Proof
namespace Machine

/-- An operation of one FP32 operand, rounded once (R104, R109). -/
def Ctx.f1 (c : Ctx) (s : State) (rm : Rm) (d : RegNum) (a : Src) (f : Fx → Fx) : Res :=
  c.putV s d fun l => r32 rm (f (f32 (c.r.src a l)))
/-- An operation of two FP32 operands, rounded once (R104). -/
def Ctx.f2 (c : Ctx) (s : State) (rm : Rm) (d : RegNum) (a : Src) (b : SrcI) (f : Fx → Fx → Fx) : Res :=
  c.putV s d fun l => r32 rm (f (f32 (c.r.src a l)) (f32 (c.r.srcI b l)))

/-- FADD (R104). -/
def execFadd (g : Guard) (rm : Rm) (d : RegNum) (a : Src) (b : SrcI) (s : State) : Out :=
  issue (.fadd g rm d a b) s fun c s => c.f2 s rm d a b (Fx.add rm)
/-- FSUB (R104). -/
def execFsub (g : Guard) (rm : Rm) (d : RegNum) (a : Src) (b : SrcI) (s : State) : Out :=
  issue (.fsub g rm d a b) s fun c s => c.f2 s rm d a b (Fx.sub rm)
/-- FMUL (R104). -/
def execFmul (g : Guard) (rm : Rm) (d : RegNum) (a : Src) (b : SrcI) (s : State) : Out :=
  issue (.fmul g rm d a b) s fun c s => c.f2 s rm d a b Fx.mul
/-- FFMA (R104). -/
def execFfma (g : Guard) (rm : Rm) (d : RegNum) (a : Src) (b : SrcI) (x : Src) (s : State) : Out :=
  issue (.ffma g rm d a b x) s fun c s =>
    c.putV s d fun l => r32 rm (Fx.fma rm (f32 (c.r.src a l)) (f32 (c.r.srcI b l)) (f32 (c.r.src x l)))
/-- FDIV (R104). -/
def execFdiv (g : Guard) (rm : Rm) (d : RegNum) (a : Src) (b : SrcI) (s : State) : Out :=
  issue (.fdiv g rm d a b) s fun c s => c.f2 s rm d a b Fx.div

/-- Order of FP32 codes that are not NaN, −0 below +0 (R106). -/
def f32Key (w : Word) : Int := if 2 ^ 31 ≤ w.toNat then -((w.toNat % 2 ^ 31 : Nat) : Int) - 1 else w.toNat
/-- Whether an FP32 code is a NaN (R91). -/
def f32Nan (w : Word) : Bool := 0x7F800000 < w.toNat % 2 ^ 31
/-- FMIN and FMAX of R106: the one that `first` prefers of two numbers. -/
def fminmax (num : Bool) (first : Int → Int → Bool) (a b : Word) : Word :=
  if f32Nan a && f32Nan b then 0x7FC00000
  else if f32Nan a then (if num then b else 0x7FC00000)
  else if f32Nan b then (if num then a else 0x7FC00000)
  else if first (f32Key a) (f32Key b) then a else b
/-- FMIN (R106). -/
def execFmin (g : Guard) (num : Bool) (d : RegNum) (a : Src) (b : SrcI) (s : State) : Out :=
  issue (.fmin g num d a b) s fun c s =>
    c.putV s d fun l => fminmax num (fun x y => x ≤ y) (c.r.src a l) (c.r.srcI b l)
/-- FMAX (R106). -/
def execFmax (g : Guard) (num : Bool) (d : RegNum) (a : Src) (b : SrcI) (s : State) : Out :=
  issue (.fmax g num d a b) s fun c s =>
    c.putV s d fun l => fminmax num (fun x y => y ≤ x) (c.r.src a l) (c.r.srcI b l)

/-- FCMP's relation on two FP32 codes (R107). -/
def fcmpW (rel : FRel) (u : Bool) (a b : Word) : Bool :=
  let un := f32Nan a || f32Nan b
  let o := Fx.cmp (f32 a) (f32 b)
  match rel with
  | .num => !un
  | .nan => un
  | .eq => if un then u else o = 0
  | .ne => if un then u else o ≠ 0
  | .lt => if un then u else o < 0
  | .le => if un then u else o ≤ 0
  | .gt => if un then u else 0 < o
  | .ge => if un then u else 0 ≤ o
/-- FCMP (R107). -/
def execFcmp (g : Guard) (rel : FRel) (u : Bool) (p : PredNum) (a : Src) (b : SrcI) (s : State) : Out :=
  issue (.fcmp g rel u p a b) s fun c s => c.putP s p fun l => fcmpW rel u (c.r.src a l) (c.r.srcI b l)

/-- The class bit of an FP32 code (R108). -/
def fclassW (w : Word) : Nat :=
  let neg : Bool := 2 ^ 31 ≤ w.toNat
  let m := w.toNat % 2 ^ 31
  if m = 0 then (if neg then 3 else 4)
  else if m < 0x800000 then (if neg then 2 else 5)
  else if m < 0x7F800000 then (if neg then 1 else 6)
  else if m = 0x7F800000 then (if neg then 0 else 7)
  else if w = 0x7FC00000 then 10
  else if w = 0x7FC00E00 then 11
  else if w.getLsbD 22 then 9
  else 8
/-- FCLASS (R108). -/
def execFclass (g : Guard) (d : RegNum) (a : Src) (s : State) : Out :=
  issue (.fclass g d a) s fun c s => c.putV s d fun l => BitVec.ofNat 32 (2 ^ fclassW (c.r.src a l))

/-- FRCP (R109). -/
def execFrcp (g : Guard) (rm : Rm) (d : RegNum) (a : Src) (s : State) : Out :=
  issue (.frcp g rm d a) s fun c s => c.f1 s rm d a (Fx.div (.fin false 1 1))
/-- FRSQ (R109). -/
def execFrsq (g : Guard) (d : RegNum) (a : Src) (s : State) : Out :=
  issue (.frsq g d a) s fun c s => c.f1 s .rne d a frsq
/-- FSQRT (R109). -/
def execFsqrt (g : Guard) (rm : Rm) (d : RegNum) (a : Src) (s : State) : Out :=
  issue (.fsqrt g rm d a) s fun c s => c.f1 s rm d a fsqrt
/-- FEXP2 (R109). -/
def execFexp2 (g : Guard) (d : RegNum) (a : Src) (s : State) : Out :=
  issue (.fexp2 g d a) s fun c s => c.f1 s .rne d a fexp2
/-- FLOG2 (R109). -/
def execFlog2 (g : Guard) (d : RegNum) (a : Src) (s : State) : Out :=
  issue (.flog2 g d a) s fun c s => c.f1 s .rne d a flog2Fx
/-- FSIN (R109). -/
def execFsin (g : Guard) (d : RegNum) (a : Src) (s : State) : Out :=
  issue (.fsin g d a) s fun c s => c.f1 s .rne d a fsin
/-- FCOS (R109). -/
def execFcos (g : Guard) (d : RegNum) (a : Src) (s : State) : Out :=
  issue (.fcos g d a) s fun c s => c.f1 s .rne d a fcos
/-- FTANH (R109). -/
def execFtanh (g : Guard) (d : RegNum) (a : Src) (s : State) : Out :=
  issue (.ftanh g d a) s fun c s => c.f1 s .rne d a ftanh

/-- The 16-bit format of the packed pairs (R110). -/
def pairFmt (bf : Bool) : FFmt := if bf then fmtBf else fmt16
/-- A packed pair operation on three words (R110). -/
def pairW (bf : Bool) (rm : Rm) (f : Fx → Fx → Fx → Fx) (a b c : Word) : Word :=
  let F := pairFmt bf
  let h (i : Nat) : Nat :=
    let e (w : Word) : Fx := F.dec (w.toNat / 2 ^ (16 * i) % 2 ^ 16)
    F.rnd rm false (f (e a) (e b) (e c))
  BitVec.ofNat 32 (h 0 + 2 ^ 16 * h 1)
/-- XADD2 (R110). -/
def execXadd2 (g : Guard) (bf : Bool) (rm : Rm) (d : RegNum) (a : Src) (b : SrcI) (s : State) : Out :=
  issue (.xadd2 g bf rm d a b) s fun c s =>
    c.putV s d fun l => pairW bf rm (fun x y _ => Fx.add rm x y) (c.r.src a l) (c.r.srcI b l) 0
/-- XMUL2 (R110). -/
def execXmul2 (g : Guard) (bf : Bool) (rm : Rm) (d : RegNum) (a : Src) (b : SrcI) (s : State) : Out :=
  issue (.xmul2 g bf rm d a b) s fun c s =>
    c.putV s d fun l => pairW bf rm (fun x y _ => Fx.mul x y) (c.r.src a l) (c.r.srcI b l) 0
/-- XFMA2 (R110). -/
def execXfma2 (g : Guard) (bf : Bool) (rm : Rm) (d : RegNum) (a : Src) (b : SrcI) (x : Src) (s : State) : Out :=
  issue (.xfma2 g bf rm d a b x) s fun c s =>
    c.putV s d fun l => pairW bf rm (Fx.fma rm) (c.r.src a l) (c.r.srcI b l) (c.r.src x l)

/-! ### Conversions (R111–R115) -/

end Machine
/-- Width of a conversion type (R111). -/
def CvtT.width : CvtT → Nat
  | .i8 | .n8 => 8
  | .i16 | .n16 => 16
  | .i32 | .n32 => 32
  | .i64 | .n64 => 64
/-- Whether a conversion type is signed. -/
def CvtT.isSigned : CvtT → Bool
  | .i8 | .i16 | .i32 | .i64 => true
  | _ => false
namespace Machine

/-- CVTFI of R112 on one value. -/
def cvtfiV (t : CvtT) (rm : Rm) (x : Fx) : Int :=
  match x with
  | .nan => 0
  | .inf n => if n then wmin t.isSigned t.width else wmax t.isSigned t.width
  | .fin neg num den => wsat t.isSigned t.width (rintFx rm neg num den)
/-- CVTFI (R112). -/
def execCvtfi (g : Guard) (t : CvtT) (rm : Rm) (d : RegNum) (a : Src) (s : State) : Out :=
  issue (.cvtfi g t rm d a) s fun c s =>
    let v (l : Nat) : Int := cvtfiV t rm (f32 (c.r.src a l))
    if t.width = 64 then c.putV2 s d fun l => BitVec.ofInt 64 (v l) else c.putV s d fun l => BitVec.ofInt 32 (v l)
/-- CVTIF (R113). -/
def execCvtif (g : Guard) (t : CvtT) (rm : Rm) (d : RegNum) (a : Src) (s : State) : Out :=
  issue (.cvtif g t rm d a) s fun c s =>
    c.putV s d fun l =>
      let n := if t.width = 64 then (c.r.src2 a l).toNat else (c.r.src a l).toNat
      r32 rm (Fx.ofInt (wval t.isSigned t.width n))

/-- The format that a narrow format names (R111). -/
def nfmt : NFmt → FFmt
  | .f16 => fmt16
  | .bf16 => fmtBf
  | .e4m3 => fmtE4
  | .e5m2 => fmtE5
  | .e2m1 => fmtE2
/-- CVTFF (R114). -/
def execCvtff (g : Guard) (f : NFmt) (rm : Rm) (sat : Bool) (d : RegNum) (a b : Src) (s : State) : Out :=
  issue (.cvtff g f rm sat d a b) s fun c s =>
    let F := nfmt f
    c.putV s d fun l =>
      BitVec.ofNat 32 (F.rnd rm sat (f32 (c.r.src a l)) + 2 ^ F.width * F.rnd rm sat (f32 (c.r.src b l)))
/-- CVTFF.wide (R115). -/
def execCvtffWide (g : Guard) (f : NFmt) (idx : BitVec 3) (d : RegNum) (a : Src) (s : State) : Out :=
  issue (.cvtffWide g f idx d a) s fun c s =>
    let F := nfmt f
    c.putV s d fun l => r32 .rne (F.dec ((c.r.src a l).toNat / 2 ^ (F.width * idx.toNat) % 2 ^ F.width))

/-! ### Blocks (R116, R117) -/

/-- CVTBK (R116). -/
def execCvtbk (g : Guard) (f : SxFmt) (rm : Rm) (sat : Bool) (d : RegNum) (a : Src) (s : State) : Out :=
  issue (.cvtbk g f rm sat d a) s fun c s =>
    let blk (b : Nat) : Nat := ofBytes (sxEnc f rm sat ((List.range 16).map fun i =>
      if c.emask.getLsbD (16 * b + i) then f32 (c.r.src a (16 * b + i)) else .fin false 0 1))
    let b0 := blk 0
    let b1 := blk 1
    c.putV s d fun l => BitVec.ofNat 32 ((if l < 16 then b0 else b1) / 2 ^ (32 * (l % 16)) % 2 ^ 32)
/-- CVTBK.wide (R117). -/
def execCvtbkWide (g : Guard) (f : SxFmt) (d : RegNum) (a : Src) (s : State) : Out :=
  issue (.cvtbkWide g f d a) s fun c s =>
    let bytes (b : Nat) : List Byte := (List.range 5).flatMap fun k => toBytes 4 (c.r.src a (16 * b + k)).toNat
    let b0 := (bytes 0).take (sxBytes f)
    let b1 := (bytes 1).take (sxBytes f)
    c.putV s d fun l => r32 .rne (sxDec f (if l < 16 then b0 else b1) (l % 16))

/-! ### FSCALE, FROUND, FFRAC (R118, R119) -/

/-- Multiplication by `2^n`, for which any exponent past 400 rounds as 400 does (R118). -/
def fscaleX (x : Fx) (n : Int) : Fx := x.scale (max (-400) (min n 400))
/-- FSCALE (R118). -/
def execFscale (g : Guard) (rm : Rm) (d : RegNum) (a : Src) (b : SrcI) (s : State) : Out :=
  issue (.fscale g rm d a b) s fun c s =>
    c.putV s d fun l => r32 rm (fscaleX (f32 (c.r.src a l)) (c.r.srcI b l).toInt)
/-- FROUND (R119). -/
def execFround (g : Guard) (rm : Rm) (d : RegNum) (a : Src) (s : State) : Out :=
  issue (.fround g rm d a) s fun c s => c.f1 s rm d a (fround rm)
/-- FFRAC (R119). -/
def execFfrac (g : Guard) (rm : Rm) (d : RegNum) (a : Src) (s : State) : Out :=
  issue (.ffrac g rm d a) s fun c s => c.putV s d fun l => ffrac rm (f32 (c.r.src a l))

end Machine
end Sys2Proof
end

