-- ==== Sys2Proof/Machine/Moment.lean ====
section
/-!
DEFINITION. The moment triple: its image (R37), normalisation, leaves, the merge with every rounding point, the lane
tree and the drains (R172–R178).
-/
namespace Sys2Proof
namespace Machine

/-- A moment triple with its status bits (R37). -/
structure Trip where
  w     : Word
  mean  : Word
  m2    : Word
  empty : Bool
  nan   : Bool
  inf   : Bool
  negw  : Bool
  inex  : Bool
  ovf   : Bool
  deriving DecidableEq, Repr

/-- The triple that an image holds (R37). -/
def Trip.ofBits (b : BitVec 128) : Trip :=
  ⟨b.extractLsb' 0 32, b.extractLsb' 32 32, b.extractLsb' 64 32, b.getLsbD 96, b.getLsbD 97, b.getLsbD 98,
   b.getLsbD 99, b.getLsbD 100, b.getLsbD 101⟩
/-- Status bits [101:96] (R180). -/
def Trip.status (t : Trip) : BitVec 6 :=
  BitVec.ofBool t.ovf ++ BitVec.ofBool t.inex ++ BitVec.ofBool t.negw ++ BitVec.ofBool t.inf ++ BitVec.ofBool t.nan ++
    BitVec.ofBool t.empty
/-- The image of a triple, bits [127:102] zero (R37). -/
def Trip.toBits (t : Trip) : BitVec 128 := (0 : BitVec 26) ++ t.status ++ t.m2 ++ t.mean ++ t.w

/-- The empty triple with clear status. -/
def Trip.none : Trip := ⟨0, 0x7FC00E00, 0, true, false, false, false, false, false⟩
/-- Degenerate: not empty, and NAN, INF or OVF set. -/
def Trip.degenerate (t : Trip) : Bool := !t.empty && (t.nan || t.inf || t.ovf)
/-- `norm` (R172). -/
def Trip.norm (t : Trip) : Trip :=
  if t.empty then { t with w := 0, mean := 0x7FC00E00, m2 := 0 }
  else if t.nan || t.inf || t.ovf then { t with mean := 0x7FC00000, m2 := 0x7FC00000 }
  else t

/-- The leaf of a lane of E (R173). -/
def leaf (w x : Word) : Trip :=
  let W := f32 w
  let X := f32 x
  if W.isZero then Trip.none
  else if W.isNan then { Trip.none with nan := true }
  else if W.neg? then { Trip.none with negw := true }
  else
    let t : Trip := ⟨w, x, 0, false, !W.isInf && X.isNan, W.isInf || X.isInf, false, false, false⟩
    t.norm

/-- An exact value rounded by rne32, whether the rounding was inexact, and whether the result is infinite. -/
def rneX (x : Fx) : Word × Bool × Bool :=
  let w := r32 .rne x
  let y := f32 w
  let inexact : Bool := match x, y with
    | .fin .., .fin .. => Fx.cmp x y ≠ 0
    | .fin .., .inf _ => true
    | _, _ => false
  (w, inexact, y.isInf)

/-- `mrg(a, b)` (R174). -/
def mrg (a b : Trip) : Trip :=
  let t : Trip := ⟨0, 0, 0, false, a.nan || b.nan, a.inf || b.inf, a.negw || b.negw, a.inex || b.inex, a.ovf || b.ovf⟩
  if a.empty && b.empty then ({ t with empty := true } : Trip).norm
  else if a.empty then ({ t with w := b.w, mean := b.mean, m2 := b.m2 } : Trip).norm
  else if b.empty then ({ t with w := a.w, mean := a.mean, m2 := a.m2 } : Trip).norm
  else
    let W := rneX (Fx.add .rne (f32 a.w) (f32 b.w))
    let tooBig : Bool := W.2.2 && !(f32 a.w).isInf && !(f32 b.w).isInf
    let t := { t with w := W.1, inex := t.inex || W.2.1, ovf := t.ovf || tooBig }
    if a.degenerate || b.degenerate then t.norm
    else
      let r := rneX (Fx.div (f32 b.w) (f32 W.1))
      let d := rneX (Fx.sub .rne (f32 b.mean) (f32 a.mean))
      let mu := rneX (Fx.fma .rne (f32 d.1) (f32 r.1) (f32 a.mean))
      let c := rneX (Fx.mul (f32 a.w) (f32 r.1))
      let e := rneX (Fx.mul (f32 d.1) (f32 c.1))
      let S := rneX (Fx.add .rne (f32 a.m2) (f32 b.m2))
      let M2 := rneX (Fx.fma .rne (f32 d.1) (f32 e.1) (f32 S.1))
      let all := [r, d, mu, c, e, S, M2]
      ({ t with mean := mu.1, m2 := M2.1, inex := t.inex || all.any (·.2.1), ovf := t.ovf || all.any (·.2.2) } : Trip).norm

/-- One level of the aligned tree of R169 over a list. -/
def pairUp {α : Type} (f : α → α → α) : List α → List α
  | a :: b :: rest => f a b :: pairUp f rest
  | l => l
/-- `n` levels of the aligned tree. -/
def tree {α : Type} (f : α → α → α) : Nat → List α → List α
  | 0, l => l
  | n + 1, l => tree f n (pairUp f l)
/-- The lane tree of 32 leaves (R175). -/
def momTree (ls : List Trip) : Trip := (tree mrg 5 ls).headD Trip.none

/-- A zero read as +0 (R177). -/
def plusZero (x : Fx) : Fx := if x.isZero then .fin false 0 1 else x
/-- `M2 / W` of a triple; with a W of zero, which only a loaded image has, it is what FDIV gives (DESIGN CHOICE, log 91). -/
def Trip.variance (t : Trip) : Fx := Fx.div (plusZero (f32 t.m2)) (f32 t.w)
/-- MOMD.rstd of a triple with ε (R177). -/
def Trip.rstd (t : Trip) (eps : Word) : Word :=
  if t.empty then 0x7FC00E00
  else if t.degenerate then 0x7FC00000
  else r32 .rne (match plusZero (Fx.add .rne t.variance (plusZero (f32 eps))) with
    | .fin neg num den => if num = 0 then .inf false else if neg then .nan else sqrtFx den num
    | .inf n => if n then .nan else .fin false 0 1
    | .nan => .nan)
/-- MOMD of a triple (R177); `.std` of a loaded image whose M2 and W are both below zero, or W infinite, goes by the sign of the
quotient (DESIGN CHOICE, log 90). -/
def Trip.drain (t : Trip) (k : MomdKind) (eps : Word) : Word :=
  match k with
  | .rstd _ => t.rstd eps
  | k =>
    if t.empty then 0x7FC00E00
    else if t.degenerate then 0x7FC00000
    else
      let w := f32 t.w
      let small : Bool := !w.isNan && Fx.cmp w (.fin false 1 1) ≤ 0
      match k with
      | .mean => r32 .rne (f32 t.mean)
      | .var => r32 .rne (plusZero t.variance)
      | .svar =>
        if small then 0x7FC00000
        else r32 .rne (plusZero (Fx.div (plusZero (f32 t.m2)) (Fx.sub .rne w (.fin false 1 1))))
      | _ => r32 .rne (plusZero (fsqrt (plusZero t.variance)))
/-- MOMN of a value against a triple (R178). -/
def Trip.normalise (t : Trip) (x eps : Word) : Word :=
  let v := t.rstd eps
  if v = 0x7FC00E00 then 0x7FC00E00
  else if (f32 x).isNan || (f32 v).isNan then 0x7FC00000
  else r32 .rne (Fx.mul (Fx.sub .rne (f32 x) (f32 t.mean)) (f32 v))

end Machine
end Sys2Proof
end

