-- ==== Sys2Proof/Machine/Access.lean ====
section
/-!
DEFINITION. Memory accesses: the checks of a lane (R187, R219), scopes and places (R201, R217, R218), performing an
access in the scratchpad, the L1 or a slice, the accesses left in flight, and the loads of a flux pass (R380).
-/
namespace Sys2Proof
namespace Machine

/-! ### Operations on the old bytes (R220, R221) -/

/-- Functions of ATOM and ARED (R220). -/
def atomInt (op : AtomOp) (t : IntT) (old b : Nat) : Nat :=
  match op with
  | .add => (old + b) % 2 ^ t.width
  | .and => old &&& b
  | .or => old ||| b
  | .xor => old ^^^ b
  | .min => if t.val old ≤ t.val b then old else b
  | .max => if t.val old ≤ t.val b then b else old
  | .exch => b
/-- `fadd` of R221. -/
def atomF (t : FaddT) (old b : Nat) : Nat :=
  let x : Word := BitVec.ofNat 32 old
  let y : Word := BitVec.ofNat 32 b
  (match t with
   | .f32 => r32 .rne (Fx.add .rne (f32 x) (f32 y))
   | .f16 => pairW false .rne (fun p q _ => Fx.add .rne p q) x y 0
   | .bf16 => pairW true .rne (fun p q _ => Fx.add .rne p q) x y 0).toNat
/-- Whether an operation is an atomic. -/
def AccOp.isAtomic : AccOp → Bool
  | .int .. | .fadd _ | .cas => true
  | _ => false
/-- The bytes an operation writes over the old ones; `none` for no write (R220). -/
def AccOp.new (op : AccOp) (old b c : Nat) : Option Nat :=
  match op with
  | .load _ => none
  | .store => some b
  | .int o t => some (atomInt o t old b)
  | .fadd t => some (atomF t old b)
  | .cas => if old = b then some c else none

/-! ### Translation of an access (R196, R197) -/

/-- The private base of a lane (R359). -/
def Ctx.privBase (c : Ctx) (l : Nat) : Nat :=
  c.C.lr.privb.toNat + ((c.T.tidx * c.C.lr.gangs + c.G.idx) * 32 + l) * c.C.lr.privsz
/-- The device whose tables translate a pointer, the VA there, and whether the pointer is fabric of another group
(R196); `none` in the spaces that have no tables. -/
def Ctx.tables (c : Ctx) (p : DWord) (l : Nat) : Option (Nat × Nat × Bool) :=
  let a := ptrAddr p
  match ptrSpace p with
  | 0 => some (c.dev, a, false)
  | 2 => some (c.dev, (c.privBase l + a) % 2 ^ 52, false)
  | 3 => some (c.dev / 32 * 32 + a / 2 ^ 52, a % 2 ^ 52, false)
  | 6 => some (a / 2 ^ 51 * 32 + a / 2 ^ 46 % 32, a % 2 ^ 46, a / 2 ^ 51 ≠ c.dev / 32)
  | _ => none
/-- The checks before translation: R54 and R55, then alignment (R187, R219). -/
def Ctx.preCheck (c : Ctx) (p : DWord) (size l : Nat) : Option LaneFault :=
  match ptrCause p c.C.scratchBytes c.C.lr.privsz with
  | some k => some ⟨l, 0x10, k, p⟩
  | none => if p.toNat % size ≠ 0 then some ⟨l, 0x11, 0, p⟩ else none

/-- What is known of a page for a gang: a TLB entry, or the fault of a finished walk; `none` before its walk ends. -/
def State.peek (s : State) (ck tenant dev page gid : Nat) : Option WalkRes :=
  match s.look ck tenant dev page with
  | .hit e => some (.ok e)
  | .miss =>
    match s.walks.find? fun w => w.die = ck / 48 && w.tenant = tenant && w.dev = dev && w.page = page &&
        w.waiters.contains gid && w.res.isSome with
    | some w => w.res
    | none => none
/-- The gang has seen the fault of a page's walk: a later access walks again (R193). -/
def State.seen (s : State) (ck tenant dev page gid : Nat) : State :=
  match s.walks.find? fun w => w.die = ck / 48 && w.tenant = tenant && w.dev = dev && w.page = page &&
      w.waiters.contains gid && w.res.isSome with
  | some w => s.dropWaiter w.id gid
  | none => s
/-- A page of an access: device, page number, fabric mark. -/
abbrev Page := Nat × Nat × Bool
/-- The distinct pages of the lanes that pass the first checks (R197). -/
def Ctx.pages (c : Ctx) (size : Nat) (ls : List (Nat × DWord)) : List Page :=
  (ls.filterMap fun (l, p) =>
    if (c.preCheck p size l).isSome then none
    else (c.tables p l).map fun t => (t.1, t.2.1 / 65536, t.2.2)).eraseDups
/-- What a page translates to for a word, once it is known: as `peek` has it, or what its tables say where its walk for this
word has ended and its entry has left the TLBs since. -/
def Ctx.known (c : Ctx) (s : State) (dev page : Nat) : Option WalkRes :=
  match s.peek c.core c.tenant dev page c.gid with
  | some r => some r
  | none =>
    if c.G.walked.contains (dev, page) && (s.findWalk c.die c.tenant dev page).isNone then some (s.walk dev c.tenant page) else none
/-- What a page that is known translates to. -/
def Ctx.page (c : Ctx) (s : State) (dev page : Nat) : WalkRes := (c.known s dev page).getD (.flt 1 0)
/-- A gang waits for the walk of a page, started or joined where a walker is free (R195); the clock at the first is kept (R376). -/
def Ctx.walkFor (c : Ctx) (p : Page) (s : State) : State :=
  let s := (s.startWalk c.die c.tenant p.1 p.2.1 c.gid p.2.2).2
  if (s.findWalk c.die c.tenant p.1 p.2.1).isNone then s
  else s.modGang c.gid fun g =>
    { g with walked := if g.walked.contains (p.1, p.2.1) then g.walked else (p.1, p.2.1) :: g.walked,
             walkMhz := if g.walkMhz = 0 then (s.dieNow c.die).mhz else g.walkMhz }
/-- Whether every page is known; the walks of the others are started (R195). -/
def Ctx.walkAll (c : Ctx) (ps : List Page) (s : State) : Bool × State :=
  ps.foldl (fun (acc : Bool × State) p =>
    match c.known acc.2 p.1 p.2.1 with
    | some _ => acc
    | none => (false, c.walkFor p acc.2)) (true, s)
/-- The faults of the pages' walks have been seen. -/
def Ctx.seenAll (c : Ctx) (ps : List Page) (s : State) : State :=
  ps.foldl (fun s p => s.seen c.core c.tenant p.1 p.2.1 c.gid) s
/-- A word that translates pages (R195): it waits for the walks of those that miss, and then has its effect. -/
def Ctx.withPages (c : Ctx) (ps : List Page) (s : State) (f : State → Res) : Res :=
  let w := c.walkAll ps s
  if !w.1 then .wait .walk w.2
  else match f w.2 with
    | .done s => .done (c.seenAll ps s)
    | r => r

/-! ### The checks of a lane (R187, R219) -/

/-- What the checks make of a lane: its location, the zero of a probe, or its fault. -/
inductive LaneChk where
  | at_ (loc : Loc)
  | zero
  | flt (f : LaneFault)
  deriving DecidableEq, Repr

/-- The location of a window offset (R196, R271). -/
def Ctx.window (c : Ctx) (s : State) (p : DWord) (l : Nat) : LaneChk :=
  let t := s.tenant c.tk
  let off := ptrAddr p
  if ptrSpace p = 4 then
    if off < t.hwsz.toNat then .at_ (.host (c.dev * 2 ^ 64 + t.hwin.toNat + off)) else .flt ⟨l, 0x12, 7, p⟩
  else if t.pwsz.toNat ≤ off then .flt ⟨l, 0x12, 7, p⟩
  else if t.fenced then .flt ⟨l, 0x12, 8, p⟩
  else .at_ (.pool (t.shelf * 2 ^ 64 + t.pwin.toNat + off))

/-- The checks of one lane, once every page is known: `wr` for a store or atomic, `pois` where poison is checked,
`probe` under `.probe`. -/
def Ctx.check (c : Ctx) (s : State) (wr pois probe : Bool) (size : Nat) (p : DWord) (l : Nat) : LaneChk :=
  match c.preCheck p size l with
  | some f => .flt f
  | none =>
    match c.tables p l with
    | none => if ptrSpace p = 1 then .at_ (.scr (ptrAddr p)) else c.window s p l
    | some (dev, va, _) =>
      match c.page s dev (va / 65536) with
      | .flt k _ => if probe && k = 2 then .zero else .flt ⟨l, 0x12, k, p⟩
      | .ok e =>
        if wr && !e.w then .flt ⟨l, 0x12, 3, p⟩
        else if pois && s.poisonAt dev (e.pa va) then if probe then .zero else .flt ⟨l, 0x13, 0, p⟩
        else .at_ (if ptrSpace p = 2 then .priv dev (e.pa va) else .dram dev (e.pa va))

/-! ### Scopes and places (R201, R206, R217, R218, R267) -/

/-- The scope an access is performed at (R217). -/
def fitScope (p : DWord) (sc : Scope) : Scope :=
  match ptrSpace p with
  | 0 => sc
  | 1 => if sc = .gang then .gang else .team
  | 2 => .gang
  | 3 => match sc with
    | .pod | .fab | .sys => sc
    | _ => .pod
  | 4 | 5 => .sys
  | _ => match sc with
    | .fab | .sys => sc
    | _ => .fab
/-- Whether a scope lies within the reach of the core's L1 (R201, R218). -/
def Ctx.narrow (c : Ctx) (sc : Scope) : Bool := sc = .gang || (sc = .team && c.C.lr.ncores = 1)
/-- Whether an access hits in a core's L1: a load when every byte it reads is valid there, a store when some byte of the sector is. -/
def State.l1Serves (s : State) (ck sec off n : Nat) (op : AccOp) : Bool :=
  if op.isLoad then ((s.l1Of ck sec).read off n).isSome else (s.l1Of ck sec).valid ≠ 0
/-- Whether a die's slice holds a sector. -/
def State.sliceHas (s : State) (di sec : Nat) : Bool := (s.holdOf sec (holderOfDie di)).readable
/-- Where an access to device memory is performed: `weak` or at scope `sc`, under policy `pol`. -/
def Ctx.dramPlace (c : Ctx) (s : State) (p : DWord) (dev pa n : Nat) (op : AccOp) (weak : Bool) (sc : Scope) (pol : Nat) :
    Place :=
  let sec := sectorOf dev pa
  if ptrSpace p = 6 || s.hostBias dev pa then .home
  else if op.isAtomic then
    if c.narrow sc then .l1 else match sc with
      | .team | .die => .slice
      | _ => .home
  else if pol = 4 then .home
  else
    let bypass := (pol = 2 && !s.sliceHas c.die sec) || s.bypasses c.die (lineOfSec sec)
    if weak || c.narrow sc then
      if s.l1Serves c.core sec (pa % 64) n op || (!op.isLoad && pol ≠ 2) then .l1
      else if bypass then .home
      else if pol = 2 then .slice
      else .l1
    else if bypass then .home
    else .slice
/-- Where an access is performed. -/
def Ctx.place (c : Ctx) (s : State) (p : DWord) (loc : Loc) (n : Nat) (op : AccOp) (weak : Bool) (sc : Scope) (pol : Nat) :
    Place :=
  match loc with
  | .dram dev pa => c.dramPlace s p dev pa n op weak sc pol
  | .host _ => .host
  | .pool _ => .pool
  | .scr _ | .priv .. => .l1

/-! ### Performing one lane's access -/

/-- Sector of a location in device memory. -/
def Loc.sec? : Loc → Option Nat
  | .dram dev pa | .priv dev pa => some (sectorOf dev pa)
  | _ => none
/-- Bytes of a lane's private line, filled from memory where the L1 has none. -/
def State.privRead (s : State) (ck dev pa n : Nat) : Nat :=
  let sec := sectorOf dev pa
  secGet ((s.l1Of ck (l1Key sec true)).fill (s.curData sec)).data (pa % 64) n
/-- Drops what the core's L1 holds clean of a sector. -/
def State.dropClean (s : State) (ck sec : Nat) : State :=
  let x := s.l1Of ck sec
  if x.valid = 0 then s else s.setL1 ck sec x.onlyDirty
/-- A strong access within the L1's reach does not read clean bytes that were filled 32 µs ago or longer (R239, R240). -/
def State.dropStale (s : State) (ck sec : Nat) : State :=
  if (s.l1Of ck sec).fillAt + 32000 ≤ s.time then s.dropClean ck sec else s
/-- An access in the L1 (R201, R218): a store writes its bytes; anything else needs the sector, filled from the
slice. -/
def State.tryL1 (s : State) (ck dev pa n : Nat) (op : AccOp) (b c pol : Nat) : Option (Nat × State) :=
  let sec := sectorOf dev pa
  let di := ck / 48
  let go (s : State) (old : Nat) : Nat × State :=
    (old, (match op.new old b c with
      | some v => s.l1Write ck sec false (pa % 64) n v
      | none => s).l1Used ck sec (pol = 1))
  if op = .store then some (go s 0)
  else match (s.l1Of ck sec).read (pa % 64) n with
    | some old => some (go s old)
    | none =>
      if s.sliceHas di sec then
        let d := (s.holdOf sec (holderOfDie di)).data
        let x := (s.l1Of ck sec).fill d
        let s := (s.l1Fill ck sec d (pol = 1)).touchLine di (lineOfSec sec) (pol = 1) (pol = 3)
        some (go s (secGet x.data (pa % 64) n))
      else none
/-- An access in slice s of a die (R244): a load needs a token, a write all of them, after the marked cores have
published (R239). What it reads is the sector as it stands, by R233, which allows what the text of litmus test 5 calls forbidden
(DESIGN CHOICE, log 94). -/
def State.trySlice (s : State) (ck dev pa n : Nat) (op : AccOp) (b c pol : Nat) : Option (Nat × State) :=
  let sec := sectorOf dev pa
  let di := ck / 48
  let h := holderOfDie di
  let r := s.forcePublish di sec
  let s := r.2
  let o := s.holdOf sec h
  if !r.1 || !o.readable then none
  else
    let old := secGet o.data (pa % 64) n
    let used (s : State) : State :=
      if pol = 2 && (Store.get none s.l2 (l2Key di (lineOfSec sec))).isNone then s
      else s.touchLine di (lineOfSec sec) (pol = 1) (pol = 3)
    if op.isLoad then some (old, used s)
    else if o.count = 256 then
      match op.new old b c with
      | none => some (old, used s)
      | some v =>
        some (old, (used (s.setHold sec h { o with data := secPut o.data (pa % 64) n v, dirty := true })).dropClean ck sec)
    else none
/-- The L1 notes which team stored into a sector, where, and under which policy (R201, R412). -/
def State.l1Note (s : State) (tid ck key : Nat) (a : LaneAcc) (wrote : Bool) : State :=
  if wrote then s.setL1 ck key ((s.l1Of ck key).stored tid a.ptr a.pol) else s
/-- Performs a lane's access at once where it can be; `none` when it must wait for tokens or go elsewhere. -/
def State.tryLane (s : State) (tid ck : Nat) (op : AccOp) (a : LaneAcc) : Option (Nat × State) :=
  match a.loc with
  | .scr off =>
    match s.team? tid with
    | none => some (0, s)
    | some t =>
      let old := ofBytes (readBytes t.scratch off a.size)
      some (old, match op.new old a.b a.c with
        | some v => s.setTeam tid { t with scratch := writeBytes t.scratch off (toBytes a.size v) }
        | none => s)
  | .priv dev pa =>
    let old := s.privRead ck dev pa a.size
    some (old, match op.new old a.b a.c with
      | some v => ((s.l1Write ck (sectorOf dev pa) true (pa % 64) a.size v).l1Used ck (l1Key (sectorOf dev pa) true) false).l1Note
          tid ck (l1Key (sectorOf dev pa) true) a true
      | none => s)
  | .dram dev pa =>
    match a.place with
    | .l1 => (s.tryL1 ck dev pa a.size op a.b a.c a.pol).map fun r =>
        (r.1, r.2.l1Note tid ck (sectorOf dev pa) a (op.new r.1 a.b a.c).isSome)
    | .slice => s.trySlice ck dev pa a.size op a.b a.c a.pol
    | _ => none
  | _ => none

/-! ### Accesses in flight -/

/-- Registers and predicates that an access will write. -/
def AccDest.refs : AccDest → List RegRef
  | .none => []
  | .v r n => (List.range n).map fun i => .v (r + i)
  | .k r n => (List.range n).map fun i => .k (r + i)
  | .mom m => [.m m]
/-- Registers an access owes until it ends (R189). -/
def Access.owes (a : Access) : List RegRef := (a.dest.refs ++ (a.probe.map RegRef.p).toList).filter fun r => !r.fixed
/-- Whether every lane has its value. -/
def Access.bound (a : Access) : Bool := a.lanes.all (·.got.isSome)
/-- The value a load of `size` bytes gives its register. -/
def AccOp.result (op : AccOp) (size v : Nat) : Nat :=
  match op with
  | .load true => (BitVec.ofInt 32 (wval true (8 * size) v)).toNat
  | _ => v
/-- Writes the destination of an access whose lanes all have their values (R187, R189, R220); lanes with pool poison
are left for their reader (R270). -/
def State.writeDest (s : State) (a : Access) : State :=
  let good := a.lanes.filter fun x => !x.pois
  let val (l : Nat) : Nat := match good.find? (·.lane = l) with
    | some x => a.op.result x.size (x.got.getD 0)
    | none => 0
  let m := maskOf fun l => good.any (·.lane = l)
  let s := if good.isEmpty then s else s.modRegs a.gang fun x => match a.dest with
    | .none => x
    | .v r n => (List.range n).foldl (fun x i => x.setV (r + i) m fun l => BitVec.ofNat 32 (val l / 2 ^ (32 * i))) x
    | .k r n => (List.range n).foldl (fun x i =>
        x.setK (r + i) (BitVec.ofNat 32 (val (((good.head?).map (·.lane)).getD 0) / 2 ^ (32 * i)))) x
    | .mom n => x.setM n (BitVec.ofNat 128 (val (((good.head?).map (·.lane)).getD 0) % 2 ^ 102))
  let s := match a.probe with
    | some p => s.modRegs a.gang fun x => x.setP p (maskOf fun l => a.lanes.any (·.lane = l)) fun l =>
        a.lanes.any fun y => y.lane = l && y.flag
    | none => s
  let bad := a.lanes.filter (·.pois)
  if bad.isEmpty then s
  else s.modGang a.gang fun g => { g with pois := g.pois ++ (a.dest.refs.flatMap fun r =>
    bad.map fun y => ⟨r, (match a.dest with | .v .. => maskOf (· = y.lane) | _ => a.who), y.ptr⟩) }
/-- A store that writes every byte of a sector clears its poison (R190), and again when what of it lies in the L1 is published. -/
def State.clearSec (s : State) (ck key sec : Nat) : State :=
  let s := if (s.smetaOf sec).pois then s.modSmeta sec fun x => { x with pois := false } else s
  let x := s.l1Of ck key
  if x.dirty = BitVec.allOnes 64 then s.setL1 ck key { x with whole := true } else s
/-- The sectors that the lanes of one store together write whole, each with its L1 key (R190). -/
def Access.wholeSecs (a : Access) : List (Nat × Nat) :=
  let part (y : LaneAcc) : Option ((Nat × Nat) × BitVec 64) := match y.loc with
    | .dram dev pa => some ((sectorOf dev pa, sectorOf dev pa), byteMask (pa % 64) y.size)
    | .priv dev pa => some ((l1Key (sectorOf dev pa) true, sectorOf dev pa), byteMask (pa % 64) y.size)
    | _ => none
  let parts := a.lanes.filterMap part
  ((parts.map (·.1)).eraseDups).filter fun k =>
    (parts.filter (·.1 = k)).foldl (fun m p => m ||| p.2) (0 : BitVec 64) = BitVec.allOnes 64
/-- A store clears the poison of the sectors that it writes whole. -/
def State.clearPoison (s : State) (a : Access) : State :=
  if a.op ≠ .store then s else a.wholeSecs.foldl (fun s k => s.clearSec a.core k.1 k.2) s
/-- What an access does when all its lanes have their values. -/
def State.finish (s : State) (a : Access) : State :=
  let s := (s.writeDest a).clearPoison a
  if a.drop then s.dropCleanAll a.core else s
/-- Tells the core that an access has been performed, once every lane has its value. -/
def State.reportAccess (s : State) (a : Access) : State :=
  let e : Ev := if a.op.isLoad || a.dest ≠ .none then .loadDataReturn a.id else .storePerformed a.id
  if a.bound && !s.net.contains e then s.send e else s
/-- Performs the waiting lanes of an access that a die's slice can now serve. -/
def State.bindAccess (s : State) (a : Access) : State × Access :=
  let r := a.lanes.foldl (fun (acc : State × List LaneAcc) y =>
    if y.got.isSome || (y.place ≠ .l1 && y.place ≠ .slice) then (acc.1, acc.2 ++ [y])
    else match acc.1.tryLane (a.gang / 256) a.core a.op y with
      | some (v, s) => (s, acc.2 ++ [{ y with got := some v }])
      | none => (acc.1, acc.2 ++ [y])) (s, [])
  (r.1, { a with lanes := r.2 })
/-- Replaces an access. -/
def State.setAccess (s : State) (a : Access) : State :=
  { s with accesses := s.accesses.map fun x => if x.id = a.id then a else x }
/-- Whether an access has an unbound lane in a sector. -/
def Access.wants (a : Access) (sec : Nat) : Bool :=
  a.lanes.any fun y => y.got.isNone && y.loc.sec? = some sec && (y.place = .l1 || y.place = .slice)
/-- Performs what a die's slice holds back for a sector, in issue order (R256). -/
def State.bindWaiting (s : State) (di sec : Nat) : State :=
  (s.accesses.filter fun a => a.die = di && a.wants sec).foldl (fun s a =>
    let r := s.bindAccess a
    (r.1.setAccess r.2).reportAccess r.2) s

/-- The predicted time of a lane's source in ns (R376). -/
def predictNs (di : Nat) (y : LaneAcc) : Nat :=
  match y.loc with
  | .host _ | .pool _ => 1500
  | .dram dev pa =>
    let sec := sectorOf dev pa
    if y.got.isSome then 0
    else if dev ≠ devOfDie di then 3500
    else if homeDie sec = some di then 413
    else if homePlace sec < 8 then 600
    else 733
  | _ => 0
/-- Whether the page of a lane has been walked for the word (R376). -/
def Ctx.hasWalked (c : Ctx) (y : LaneAcc) : Bool :=
  match c.tables y.ptr y.lane with
  | some (dev, va, _) => c.G.walked.contains (dev, va / 65536)
  | none => false
/-- Predicted time of a walk in ns (R376). -/
def walkNs : Nat := 413
/-- Whether a time at a clock is long (R376): more than 400 clk. -/
def longNs (ns mhz : Nat) : Bool := 400000 < ns * mhz
/-- Whether a load that misses is predicted long (R376): by its source, or by the walk of its page, at the clock of the moment when
its walk was sent, or now that its first line request is. -/
def Ctx.isLong (c : Ctx) (s : State) (ls : List LaneAcc) : Bool :=
  ls.any fun y => y.got.isNone && longNs (max (predictNs c.die y) (if c.hasWalked y then walkNs else 0))
    (if c.G.walkMhz = 0 then (s.dieNow c.die).mhz else c.G.walkMhz)
/-- Whether a lane that is left waiting has missed in the L2 (R361). -/
def State.missed (s : State) (di : Nat) (y : LaneAcc) : Bool :=
  y.got.isNone && (match y.place, y.loc.sec? with
    | .l1, some sec | .slice, some sec => !s.sliceHas di sec
    | _, _ => true)

/-! ### The issue of an access -/

/-- What an instruction asks of memory: operation, size, order and scope, policy override, destination, the probe
flag, and each lane's pointer and operands. `uni` marks the instructions that deliver a fault to all of E. -/
structure MemReq where
  op    : AccOp
  size  : Nat
  weak  : Bool := true
  acq   : Bool := false
  rel   : Bool := false
  scope : Scope := .dflt
  pov   : PolOv := .none
  dest  : AccDest := .none
  probe : Option Nat := none
  uni   : Bool := false
  lanes : List (Nat × DWord × Nat × Nat)
  deriving DecidableEq, Repr

/-- The scope of a lane's access. -/
def MemReq.scopeAt (q : MemReq) (p : DWord) : Scope := fitScope p (scopeOf p q.scope)
/-- Whether a lane's access is weak: a fabric access is strong (R217). -/
def MemReq.weakAt (q : MemReq) (p : DWord) : Bool := q.weak && ptrSpace p ≠ 6
/-- Whether some lane's access has a scope wider than the L1 reaches. -/
def Ctx.wide (c : Ctx) (q : MemReq) : Bool := q.lanes.any fun x => !c.narrow (q.scopeAt x.2.1)
/-- Whether a scratchpad range overlaps a transfer or matrix operation of the team (R208). -/
def State.boarded (s : State) (tid lo hi : Nat) : Bool :=
  let hit (b : Board) : Bool := b.lo < hi && lo < b.hi
  (s.xfers.any fun x => x.team = tid && x.board.any hit) || s.mats.any fun m => m.team = tid && m.board.any hit
/-- Whether a gang has an access in flight to a sector of one of these locations, not both being loads. -/
def State.overlapsOwn (s : State) (gid : Nat) (load : Bool) (ls : List Loc) : Bool :=
  let secs := ls.filterMap Loc.sec?
  s.accesses.any fun a => a.gang = gid && !(load && a.op.isLoad) && a.lanes.any fun y => match y.loc with
    | .host a => ls.any fun l => match l with | .host b => a / 16 = b / 16 | _ => false
    | .pool a => ls.any fun l => match l with | .pool b => a / 16 = b / 16 | _ => false
    | l => match l.sec? with | some x => secs.contains x | none => false
/-- What a memory instruction waits for before its accesses: an acquire (R230), the scoreboard (R208), an earlier
access to the same bytes, or, for a release, every earlier access. -/
def Ctx.memWait (c : Ctx) (q : MemReq) (locs : List Loc) (s : State) : Option Wait :=
  if s.acquireOut c.gid then some .interlock
  else if locs.any fun l => match l with
      | .scr o => s.boarded c.tid o (o + q.size)
      | _ => false then some .board
  else if s.overlapsOwn c.gid q.op.isLoad locs then some .interlock
  else if q.rel && s.accesses.any (·.gang = c.gid) then some .drain
  else none

/-- Before an uncached access, the core's L1 writes the line back and drops it, both sectors (R201); false while it must wait. -/
def State.flushL1 (s : State) (ck sec : Nat) : Bool × State :=
  [2 * lineOfSec sec, 2 * lineOfSec sec + 1].foldl (fun (acc : Bool × State) sec =>
    let r := acc.2.pubAsk ck sec
    if r.1 then (acc.1, r.2.setL1 ck sec {}) else (false, r.2)) (true, s)
/-- A lane placed: its access, with an uncached lane's L1 line written back; false while that must wait. -/
def Ctx.placeLane (c : Ctx) (q : MemReq) (s : State) (x : Nat × DWord × Nat × Nat) (loc : Loc) :
    LaneAcc × Bool × State :=
  let p := x.2.1
  let pl := c.place s p loc q.size q.op (q.weakAt p) (q.scopeAt p) (policyOf p q.pov)
  let y : LaneAcc := { lane := x.1, ptr := p, loc := loc, place := pl, size := q.size, b := x.2.2.1, c := x.2.2.2, got := none,
                       flag := true, pois := false, pol := policyOf p q.pov, sys := q.scopeAt p = .sys }
  match pl, loc.sec? with
  | .home, some sec =>
    let r := s.flushL1 c.core sec
    (y, r.1, r.2)
  | .l1, some sec => (y, true, if q.weakAt p then s else s.dropStale c.core sec)
  | _, _ => (y, true, s)
/-- The lines that placed lanes of a demand access bypass, each once (R206). -/
def Ctx.bypassed (c : Ctx) (q : MemReq) (ys : List LaneAcc) (s : State) : List Nat :=
  (ys.filterMap fun y => match y.place, y.loc.sec? with
    | .home, some sec =>
      if !q.op.isAtomic && y.pol ≠ 4 && ptrSpace y.ptr ≠ 6 && !s.hostBias (secDev sec) (secPa sec) &&
        s.bypasses c.die (lineOfSec sec) then some (lineOfSec sec) else none
    | _, _ => none).eraseDups
/-- Sends the requests of the lanes that are left waiting; one for another group joins its circuit queue (R423). -/
def State.askLanes (s : State) (a : Access) : State :=
  let s := a.lanes.foldl (fun s y => match y.got, y.place, y.loc.sec? with
    | none, .l1, some sec => s.request (holderOfDie a.die) sec false false
    | none, .slice, some sec => s.request (holderOfDie a.die) sec (!a.op.isLoad) false
    | _, _, _ => s) s
  if a.lanes.any fun y => y.got.isNone && (y.place = .home || y.place = .host || y.place = .pool) then
    let groups := (a.lanes.filterMap fun y => if y.got.isNone && y.place = .home then y.loc.sec?.map (secDev · / 32) else none).eraseDups
    (groups.foldl (fun s g => s.circJoin (devOfDie a.die) g a.id ((a.lanes.map (·.size)).foldl (· + ·) 0)) s).send
      (.homeAccessRequest a.id)
  else s
/-- Whether a request has a strong load or atomic: it acts as an acquire (R226, log 74). -/
def MemReq.acquires (q : MemReq) : Bool := q.op ≠ .store && q.lanes.any fun x => !q.weakAt x.2.1
/-- Whether a request has a strong store or atomic. -/
def MemReq.strongWrite (q : MemReq) : Bool := !q.op.isLoad && q.lanes.any fun x => !q.weakAt x.2.1
/-- A request as it stands after a FENCE that releases: the next strong store or atomic is a release (R226). -/
def Ctx.armed (c : Ctx) (q : MemReq) : MemReq := if c.G.relArm.isSome && q.strongWrite then { q with rel := true } else q
/-- Performs the accesses of the placed lanes: at once when every lane's can be, otherwise an access stays in flight
and owes its destinations (R189). -/
def Ctx.launchAcc (c : Ctx) (q : MemReq) (ys zs : List LaneAcc) (s : State) : State :=
  let (id, s) := s.newId
  let a : Access :=
    { id := id, gang := c.gid, core := c.core, die := c.die, op := q.op, dest := q.dest, probe := q.probe, acq := q.acquires,
      drop := q.acquires, rel := q.rel, long := false, lanes := ys ++ zs, at_ := s.time, who := c.emask }
  let r := a.lanes.foldl (fun (acc : State × List LaneAcc) y =>
    if y.got.isSome then (acc.1, acc.2 ++ [y])
    else match acc.1.tryLane c.tid c.core q.op y with
      | some (v, s) => (s, acc.2 ++ [{ y with got := some v }])
      | none => (acc.1, acc.2 ++ [y])) (s, [])
  let a := { a with lanes := r.2 }
  if a.bound then r.1.finish a
  else
    let long := a.op.isLoad && c.isLong r.1 a.lanes
    let a := { a with long := long, miss := a.op.isLoad && a.lanes.any (r.1.missed c.die) }
    let s := ({ r.1 with accesses := r.1.accesses ++ [a] }).owe c.gid id a.owes
    let s := if long then s.modGang c.gid fun g => { g with long := g.long ++ [id] } else s
    s.askLanes a
/-- Stores to sectors homed on a fenced die are dropped and logged (R412). -/
def Ctx.dropFenced (c : Ctx) (q : MemReq) (ys : List LaneAcc) (s : State) : List LaneAcc × State :=
  if q.op ≠ .store then (ys, s)
  else
    let gone (y : LaneAcc) : Bool := match y.loc.sec? with | some sec => s.homeFenced sec | none => false
    ((ys.filter fun y => !gone y), (ys.filter gone).foldl (fun s y =>
      s.logError c.C.dev c.tenant 3 c.T.hall y.ptr.toNat (s.handle c.T.cohort) 0) s)
/-- Whether an instruction ends the idempotent region: a store outside space 0x1, or an atomic (R372). -/
def MemReq.endsRegion (q : MemReq) (ys : List LaneAcc) : Bool :=
  !q.op.isLoad && ys.any fun y => q.op.isAtomic || ptrSpace y.ptr ≠ 1
/-- Destination registers set full when no lane is left to receive data (R189). -/
def Ctx.fillEmpty (c : Ctx) (q : MemReq) (s : State) : State :=
  c.mod s fun x => match q.dest with
    | .v r n => (List.range n).foldl (fun x i => x.setVFull (r + i) true) x
    | _ => x
/-- Performs the placed lanes of a request and those of a probe that read zero: bypassed fills are counted (R206), stores to a
fenced home dropped (R412), a release that a FENCE left open is spent (R226), and the region may end (R372). -/
def Ctx.perform (c : Ctx) (q : MemReq) (ys zs : List LaneAcc) (s : State) : State :=
  let lines := c.bypassed q ys s
  let d := c.dropFenced q ys s
  let s := if lines.isEmpty then d.2 else d.2.countBypass c.die lines.length
  let s := if q.strongWrite then s.modGang c.gid fun g => { g with relArm := none } else s
  let s := c.launchAcc q d.1 zs s
  if q.endsRegion ys then c.endRegion s else s
/-- Publication before a release (R239, log 73). -/
def Ctx.publishFor (c : Ctx) (q : MemReq) (s : State) : Bool × State := if q.rel then s.publishCore c.core else (true, s)

/-- The pages of a request's lanes (R197). -/
def Ctx.reqPages (c : Ctx) (q : MemReq) : List Page := c.pages q.size (q.lanes.map fun x => (x.1, x.2.1))
/-- The lanes of a request with what their checks make of them. -/
def Ctx.checks (c : Ctx) (q : MemReq) (s : State) : List ((Nat × DWord × Nat × Nat) × LaneChk) :=
  q.lanes.map fun x => (x, c.check s (!q.op.isLoad) (q.op ≠ .store) q.probe.isSome q.size x.2.1 x.1)
/-- The locations of the lanes that have one. -/
def locsOf (cs : List ((Nat × DWord × Nat × Nat) × LaneChk)) : List Loc :=
  cs.filterMap fun p => match p.2 with | .at_ l => some l | _ => none
/-- The faults of the lanes that have one. -/
def faultsOf (cs : List ((Nat × DWord × Nat × Nat) × LaneChk)) : List LaneFault :=
  cs.filterMap fun p => match p.2 with | .flt f => some f | _ => none
/-- Sector of a location in ordinary device memory. -/
def Loc.open? : Loc → Option Nat
  | .dram dev pa => some (sectorOf dev pa)
  | _ => none
/-- Whether a place lies farther from the core than another. -/
def Place.beyond : Place → Place → Bool
  | .home, .l1 | .home, .slice | .slice, .l1 => true
  | _, _ => false
/-- The lanes of one store or atomic in one sector are performed at one place, the farthest of theirs, so that in lane order the
highest lane's bytes remain (R187). -/
def unifyLanes (ys : List LaneAcc) : List LaneAcc :=
  ys.map fun y => { y with place := ys.foldl (fun b z =>
    if y.loc.open?.isSome && z.loc.open? = y.loc.open? && z.place.beyond b then z.place else b) y.place }
/-- Places the lanes that have a location; false while an uncached lane must wait. -/
def Ctx.placeAll (c : Ctx) (q : MemReq) (cs : List ((Nat × DWord × Nat × Nat) × LaneChk)) (s : State) :
    List LaneAcc × Bool × State :=
  let r := cs.foldl (fun (acc : List LaneAcc × Bool × State) p => match p.2 with
    | .at_ l =>
      let r := c.placeLane q acc.2.2 p.1 l
      (acc.1 ++ [r.1], acc.2.1 && r.2.1, r.2.2)
    | _ => acc) (([] : List LaneAcc), true, s)
  if q.op.isLoad then r else (unifyLanes r.1, r.2)
/-- The lanes of a probe that read zero. -/
def zerosOf (q : MemReq) (cs : List ((Nat × DWord × Nat × Nat) × LaneChk)) : List LaneAcc :=
  cs.filterMap fun p => match p.2 with
    | .zero => some { lane := p.1.1, ptr := p.1.2.1, loc := .scr 0, place := .l1, size := q.size, b := 0, c := 0,
                      got := some 0, flag := false, pois := false }
    | _ => none
/-- Delivers the faults of a request: to all of E where the instruction executes once, otherwise per lane. -/
def Ctx.faultReq (c : Ctx) (q : MemReq) (fs : List LaneFault) (s : State) : Bool × State :=
  match q.uni, fs with
  | true, f :: _ => (false, (c.laneTrap ((lanesOf c.emask).map fun l => { f with lane := l }) s).2)
  | _, _ => c.laneTrap fs s

/-- Issues the accesses of a memory instruction (R187, R209, R220). -/
def Ctx.access (c : Ctx) (q0 : MemReq) (s : State) : Res :=
  let q := c.armed q0
  if q.lanes.isEmpty then .done (c.fillEmpty q s) else
  let ps := c.reqPages q
  let w := c.walkAll ps s
  if !w.1 then .wait .walk w.2
  else
    let cs := c.checks q w.2
    match c.memWait q (locsOf cs) w.2 with
    | some k => .wait k w.2
    | none =>
      let pb := c.publishFor q w.2
      if !pb.1 then .wait .drain pb.2
      else
        let fl := c.faultReq q (faultsOf cs) pb.2
        let s := c.seenAll ps fl.2
        if !fl.1 then .done s
        else
          let pl := c.placeAll q cs s
          if !pl.2.1 then .wait .drain pl.2.2
          else
            let zs := zerosOf q cs
            .done (if pl.1.isEmpty && zs.isEmpty then c.fillEmpty q s else c.perform q pl.1 zs pl.2.2)

/-! ### Loads of a flux pass (R380) -/

/-- Mark of a waiter that is a lane of a flux load, and of one under `.probe`, to which a page that is not resident is no
fault. -/
def fluxWaiter (gid : Nat) (probe : Bool) : Nat := gid + 2 ^ (if probe then 65 else 64)
/-- Starts or joins a walk for one lane of a pass; a walk started is counted (R380). -/
def Ctx.fluxWalk (c : Ctx) (p : Page) (probe : Bool) (s : State) : State :=
  let mark := fluxWaiter c.gid probe
  let mine (w : Walk) : Bool := w.die = c.die && w.tenant = c.tenant && w.dev = p.1 && w.page = p.2.1 && w.res.isNone
  if (s.findWalk c.die c.tenant p.1 p.2.1).isSome then
    { s with walks := s.walks.map fun w => if mine w then { w with waiters := w.waiters ++ [mark] } else w }
  else
    let r := s.startWalk c.die c.tenant p.1 p.2.1 mark p.2.2
    if r.1 then r.2.modGang c.gid fun g => { g with fluxWalks := satInc g.fluxWalks } else r.2
/-- Data of a sector in slice s of a die, when it holds the sector. -/
def State.sliceData (s : State) (di sec : Nat) : Option (BitVec 512) :=
  let o := s.holdOf sec (holderOfDie di)
  if o.readable then some o.data else none
/-- Bytes of a sector that a core's L1 holds, under a key, or slice s of its die. -/
def State.nearRead (s : State) (ck di key sec off n : Nat) : Option Nat :=
  match (s.l1Of ck key).read off n with
  | some v => some v
  | none => (s.sliceData di sec).map fun d => secGet ((s.l1Of ck key).fill d).data off n
/-- The value of a location that a pass can read without a miss (R380). -/
def Ctx.fluxHit (c : Ctx) (s : State) (pl : Place) (loc : Loc) (n : Nat) : Option Nat :=
  match loc with
  | .scr o =>
    if s.boarded c.tid o (o + n) then none
    else (s.team? c.tid).map fun t => ofBytes (readBytes t.scratch o n)
  | .priv dev pa => s.nearRead c.core c.die (l1Key (sectorOf dev pa) true) (sectorOf dev pa) (pa % 64) n
  | .dram dev pa =>
    let sec := sectorOf dev pa
    match pl with
    | .l1 => s.nearRead c.core c.die sec sec (pa % 64) n
    | .slice => (s.sliceData c.die sec).map fun d => secGet d (pa % 64) n
    | _ => none
  | _ => none
/-- Starts the fill of a line into a die's L2 (R210); false when it is in flight already, as a fill or as the request of an
access. -/
def State.startFill (s : State) (f : Fill) (flux : Bool) : Bool × State :=
  let h := holderOfDie f.die
  if (s.net.any fun e => match e with | .lineFillComplete g => g.die = f.die && g.line = f.line | _ => false) ||
      s.misses.any fun m => m.holder = h && lineOfSec m.sector = f.line then (false, s)
  else
    let s := [2 * f.line, 2 * f.line + 1].foldl (fun s sec =>
      if s.sliceHas f.die sec then s else s.request h sec false flux) s
    (true, s.send (.lineFillComplete f))
/-- One lane of a flux load: its value and probe flag, or poison (R380); as for PFT, a line that the policy does not allocate is not
filled (R201, R210). -/
def Ctx.fluxLane (c : Ctx) (q : MemReq) (x : Nat × DWord × Nat × Nat) (s : State) : Option (Nat × Bool) × State :=
  let p := x.2.1
  let l := x.1
  let fault (s : State) : State := s.modGang c.gid fun g => { g with fluxFaults := satInc g.fluxFaults }
  match c.preCheck p q.size l with
  | some _ => (none, fault s)
  | none =>
    let unknown := match c.tables p l with
      | some (dev, va, fab) =>
        if (s.peek c.core c.tenant dev (va / 65536) c.gid).isNone then some (dev, va / 65536, fab) else none
      | none => none
    match unknown with
    | some pg => (none, c.fluxWalk pg q.probe.isSome s)
    | none =>
      match c.check s false true q.probe.isSome q.size p l with
      | .flt _ => (none, fault s)
      | .zero => (some (0, false), s)
      | .at_ loc =>
        let weak := q.weakAt p
        let pol := policyOf p q.pov
        let pl := c.place s p loc q.size q.op weak (q.scopeAt p) pol
        match c.fluxHit s pl loc q.size, loc with
        | some v, _ => (some (q.op.result q.size v, true), s)
        | none, .dram dev pa =>
          if weak && (ptrSpace p = 0 || ptrSpace p = 3) && pol ≠ 4 && pol ≠ 2 && !s.hostBias dev pa && q.probe.isNone then
            let r := s.startFill ⟨c.die, none, lineOf dev pa, pol = 3, pol = 1, false⟩ true
            (none, if r.1 then r.2.modGang c.gid fun g => { g with fluxPref := satInc g.fluxPref } else r.2)
          else (none, s)
        | none, _ => (none, s)
/-- A flux load (R380): `bad` lanes have a poisoned address or guard. The destination is written in the executing
and the guard-poisoned lanes, or once; its other lanes keep what the pass reads there, in a new entry too (R378). -/
def fluxLoad (q : MemReq) (gp bad : BitVec 32) : FluxAct := fun c arch f s =>
  let free := s.fluxFree c.gid arch c.die
  let live := q.lanes.filter fun x => !bad.getLsbD x.1
  let r := live.foldl (fun (acc : State × List (Nat × Nat × Bool)) x =>
    let y := c.fluxLane q x acc.1
    (y.2, match y.1 with | some v => acc.2 ++ [(x.1, v)] | none => acc.2)) (s, [])
  let good := maskOf fun l => r.2.any (·.1 = l)
  let once := match q.dest with | .v .. => false | _ => true
  let w : BitVec 32 :=
    if once then (if c.emask = 0 && gp &&& c.amask = 0 then 0 else BitVec.allOnes 32)
    else c.emask ||| (c.amask &&& gp)
  let p : BitVec 32 := if once then (if r.2.isEmpty || gp &&& c.amask ≠ 0 then BitVec.allOnes 32 else 0) else ~~~good
  let pieces := match q.dest.refs with
    | [a, b, c, d] => [[a, b], [c, d]]
    | [] => []
    | l => [l]
  let pieces := pieces ++ (q.probe.map fun n => [RegRef.p n]).toList
  let f? := pieces.foldl (fun (f? : Option Flux) d => f?.bind fun f => f.write arch free d w p) (some f)
  f?.map fun f =>
    let val (l : Nat) : Nat := ((r.2.find? (·.1 = l)).map (·.2.1)).getD 0
    let one : Nat := ((r.2.head?).map (·.2.1)).getD 0
    let x := match q.dest with
      | .none => c.r
      | .v n k => (List.range k).foldl (fun x i => x.setV (n + i) good fun l => BitVec.ofNat 32 (val l / 2 ^ (32 * i))) c.r
      | .k n k => if r.2.isEmpty then c.r else
        (List.range k).foldl (fun x i => x.setK (n + i) (BitVec.ofNat 32 (one / 2 ^ (32 * i)))) c.r
      | .mom n => if r.2.isEmpty then c.r else c.r.setM n (BitVec.ofNat 128 (one % 2 ^ 102))
    let x := match q.probe with
      | some n => x.setP n good fun l => r.2.any fun y => y.1 = l && y.2.2
      | none => x
    ({ f with ctx := x }, r.1)

end Machine
end Sys2Proof
end

