-- ==== Sys2Proof/Machine/Memory.lean ====
section
/-!
DEFINITION. Load, store and translation instructions, major opcodes 0x60–0x69, and MOMLD and MOMST (R179,
R183–R213).
-/
namespace Sys2Proof

/-- Bytes of an access type (R183). -/
def MemT.bytes : MemT → Nat
  | .n8 | .i8 => 1
  | .n16 | .i16 => 2
  | .b32 => 4
  | .b64 => 8
  | .b128 => 16
/-- Registers of an access type. -/
def MemT.words (t : MemT) : Nat := (t.bytes + 3) / 4
/-- Whether a load of the type sign-extends (R187). -/
def MemT.sext : MemT → Bool
  | .i8 | .i16 => true
  | _ => false
/-- Scope of a memory operand; code 0 outside the 128-bit form (R186). -/
def MOff.scope : MOff → Scope
  | .ext _ sc _ _ => sc
  | _ => .dflt
/-- Order of a memory operand; weak outside the 128-bit form (R186). -/
def MOff.ord : MOff → Order
  | .ext _ _ o _ => o
  | _ => .weak
/-- Policy override of a memory operand. -/
def MOff.pov : MOff → PolOv
  | .ext _ _ _ p => p
  | _ => .none

namespace Machine

/-! ### Requests -/

/-- Value of `n` vector registers of a lane, the lowest first. -/
def Regs.vN (x : Regs) (r n l : Nat) : Nat :=
  (List.range n).foldl (fun a i => a + (x.v (r + i) l).toNat * 2 ^ (32 * i)) 0
/-- Value of one or two uniform registers. -/
def Regs.kN (x : Regs) (r n : Nat) : Nat :=
  (List.range n).foldl (fun a i => a + (x.k (r + i)).toNat * 2 ^ (32 * i)) 0
/-- The lanes of a per-lane access with their addresses and data. -/
def Ctx.perLane (c : Ctx) (base : Base) (off : DWord) (b x : Nat → Nat) : List (Nat × DWord × Nat × Nat) :=
  (lanesOf c.emask).map fun l => (l, c.r.addr base off l, b l, x l)
/-- The one access of an instruction that executes once, under the lowest lane of E (R209). -/
def Ctx.onceAt (c : Ctx) (a : DWord) (b : Nat) : List (Nat × DWord × Nat × Nat) :=
  match lowLane c.emask with
  | some l => [(l, a, b, 0)]
  | none => []
/-- The address of a uniform pair with an offset. -/
def Ctx.kaddr (c : Ctx) (base : Src) (off : DWord) : DWord := c.r.ks2 base + off
/-- The request of LD (R187). -/
def Ctx.ldReq (c : Ctx) (t : MemT) (d : RegNum) (base : Base) (off : MOff) (probe : Option PredNum) : MemReq :=
  { op := .load t.sext, size := t.bytes, weak := off.ord = .weak, acq := off.ord = .acq, scope := off.scope,
    pov := off.pov, dest := .v d.toNat t.words, probe := probe.map (·.toNat),
    lanes := c.perLane base off.off (fun _ => 0) fun _ => 0 }
/-- The request of ST (R187). -/
def Ctx.stReq (c : Ctx) (t : MemT) (base : Base) (off : MOff) (b : Src) : MemReq :=
  { op := .store, size := t.bytes, weak := off.ord = .weak, rel := off.ord = .rel, scope := off.scope,
    pov := off.pov, lanes := c.perLane base off.off (c.r.vN b.reg.toNat t.words) fun _ => 0 }
/-- The request of LDK (R209). -/
def Ctx.ldkReq (c : Ctx) (t : MemT) (d : RegNum) (base : Src) (off : MOff) : MemReq :=
  { op := .load t.sext, size := t.bytes, weak := off.ord = .weak, acq := off.ord = .acq, scope := off.scope,
    pov := off.pov, dest := .k d.toNat t.words, uni := true, lanes := c.onceAt (c.kaddr base off.off) 0 }
/-- The request of STK (R209). -/
def Ctx.stkReq (c : Ctx) (t : MemT) (base : Src) (off : MOff) (b : Src) : MemReq :=
  { op := .store, size := t.bytes, weak := off.ord = .weak, rel := off.ord = .rel, scope := off.scope,
    pov := off.pov, uni := true, lanes := c.onceAt (c.kaddr base off.off) (c.r.kN b.reg.toNat t.words) }
/-- The request of MOMLD (R179). -/
def Ctx.momldReq (c : Ctx) (d : MomNum) (base : Src) (off : Word) : MemReq :=
  { op := .load false, size := 16, dest := .mom d.toNat, uni := true,
    lanes := c.onceAt (c.kaddr base (off.signExtend 64)) 0 }
/-- The request of MOMST (R179): bits [127:102] are stored as zero. -/
def Ctx.momstReq (c : Ctx) (base : Src) (m : MomNum) (off : Word) : MemReq :=
  { op := .store, size := 16, uni := true,
    lanes := c.onceAt (c.kaddr base (off.signExtend 64)) ((c.r.m m.toNat).toNat % 2 ^ 102) }

/-- Poison of an address operand in a pass (R378). -/
def Flux.basePoison (f : Flux) (G : Gang) : Base → BitVec 32
  | .vpair s => f.poison G (.v s.reg.toNat) ||| f.poison G (.v (s.reg.toNat + 1))
  | .kpair s => f.poison G (.k s.reg.toNat) ||| f.poison G (.k (s.reg.toNat + 1))
  | .scr s => f.poison G (.v s.reg.toNat)
/-- A load of a pass by a guard and an address operand. -/
def fluxLoadAt (g : Guard) (base : Base) (q : Ctx → MemReq) : FluxAct := fun c arch f s =>
  let gp := f.poison arch (.p g.pred.toNat)
  fluxLoad (q c) gp (gp ||| f.basePoison arch base) c arch f s

/-! ### LD, ST, LDK, STK, MOMLD, MOMST -/

/-- LD (R187). -/
def execLd (g : Guard) (t : MemT) (d : RegNum) (base : Base) (off : MOff) (probe : Option PredNum) (s : State) : Out :=
  issueF (.ld g t d base off probe) s (fluxLoadAt g base fun c => c.ldReq t d base off probe) fun c s =>
    c.access (c.ldReq t d base off probe) s
/-- ST (R187). -/
def execSt (g : Guard) (t : MemT) (base : Base) (off : MOff) (b : Src) (s : State) : Out :=
  issue (.st g t base off b) s fun c s => c.access (c.stReq t base off b) s
/-- LDK (R209). -/
def execLdk (g : Guard) (t : MemT) (d : RegNum) (base : Src) (off : MOff) (s : State) : Out :=
  issueF (.ldk g t d base off) s (fluxLoadAt g (.kpair base) fun c => c.ldkReq t d base off) fun c s =>
    c.access (c.ldkReq t d base off) s
/-- STK (R209). -/
def execStk (g : Guard) (t : MemT) (base : Src) (off : MOff) (b : Src) (s : State) : Out :=
  issue (.stk g t base off b) s fun c s => c.access (c.stkReq t base off b) s
/-- MOMLD (R179). -/
def execMomld (g : Guard) (d : MomNum) (base : Src) (off : Word) (s : State) : Out :=
  issueF (.momld g d base off) s (fluxLoadAt g (.kpair base) fun c => c.momldReq d base off) fun c s =>
    c.access (c.momldReq d base off) s
/-- MOMST (R179). -/
def execMomst (g : Guard) (base : Src) (m : MomNum) (off : Word) (s : State) : Out :=
  issue (.momst g base m off) s fun c s => c.access (c.momstReq base m off) s

/-! ### Translation by a word (R195) -/

/-- The device and address of a byte of a page that is known, when it translates. -/
def Ctx.paOf (c : Ctx) (s : State) (dev va : Nat) : Option Nat :=
  match c.page s dev (va / 65536) with
  | .ok e => some (e.pa va)
  | .flt .. => none
/-- Where a device-memory pointer of a lane lands, when it translates. -/
def Ctx.landing (c : Ctx) (s : State) (p : DWord) (l : Nat) : Option (Nat × Nat) :=
  (c.tables p l).bind fun t => (c.paOf s t.1 t.2.1).map fun pa => (t.1, pa)
/-- The pages of the pointers of some lanes. -/
def Ctx.lanePages (c : Ctx) (addr : Nat → DWord) (ls : List Nat) : List Page :=
  (ls.filterMap fun l => (c.tables (addr l) l).map fun t => (t.1, t.2.1 / 65536, t.2.2)).eraseDups
/-- Lanes whose pointers fail R54 or R55. -/
def Ctx.badPtrs (c : Ctx) (addr : Nat → DWord) : List LaneFault :=
  (lanesOf c.emask).filterMap fun l =>
    (ptrCause (addr l) c.C.scratchBytes c.C.lr.privsz).map fun k => ⟨l, 0x10, k, addr l⟩
/-- The executing lanes that are left after faults. -/
def Ctx.left (c : Ctx) (fs : List LaneFault) : List Nat :=
  (lanesOf c.emask).filter fun l => !fs.any (·.lane = l)

/-! ### PFT, PGREQ, XLAT -/

/-- Lanes of a mask whose prefetch passes the checks of a pointer (R210). -/
def Ctx.pftLanes (c : Ctx) (base : Base) (off : MOff) (m : BitVec 32) : List Nat :=
  (lanesOf m).filter fun l =>
    let p := c.r.addr base off.off l
    (ptrCause p c.C.scratchBytes c.C.lr.privsz).isNone && (ptrSpace p = 0 || ptrSpace p = 2 || ptrSpace p = 3)
/-- The line that a prefetch of a lane fills, when it fills one (R210). -/
def Ctx.pftLine (c : Ctx) (pov : PolOv) (s : State) (p : DWord) (l : Nat) : Option Nat :=
  match c.landing s p l with
  | some (dev, pa) =>
    if policyOf p pov = 4 || policyOf p pov = 2 || s.hostBias dev pa || s.poisonAt dev pa then none else some (lineOf dev pa)
  | none => none
/-- Prefetches lanes (R210). -/
def Ctx.prefetch (c : Ctx) (l1 : Bool) (base : Base) (off : MOff) (ls : List Nat) (s : State) : State :=
  ls.foldl (fun s l =>
    let p := c.r.addr base off.off l
    match c.pftLine off.pov s p l with
    | some line =>
      (s.startFill ⟨c.die, if l1 then some c.core else none, line, policyOf p off.pov = 3, policyOf p off.pov = 1, ptrSpace p = 2⟩
        false).2
    | none => s) s
/-- Mark of a walk's waiter that is a prefetch of a pass: its fault is counted nowhere. -/
def pftWaiter (gid : Nat) : Nat := gid + 2 ^ 66
/-- A prefetch in a pass (R379): lanes whose pages are unknown start their walks and are dropped. -/
def Ctx.pftPass (c : Ctx) (l1 : Bool) (base : Base) (off : MOff) (m : BitVec 32) (s : State) : State :=
  let ls := c.pftLanes base off m
  let miss := (c.lanePages (c.r.addr base off.off) ls).filter fun p => (c.known s p.1 p.2.1).isNone
  c.prefetch l1 base off ls
    (miss.foldl (fun s p => (s.startWalk c.die c.tenant p.1 p.2.1 (pftWaiter c.gid) p.2.2).2) s)
/-- PFT (R210). -/
def execPft (g : Guard) (l1 : Bool) (base : Base) (off : MOff) (s : State) : Out :=
  issueF (.pft g l1 base off) s
    (fun c arch f s => some (f, c.pftPass l1 base off
      (c.emask &&& ~~~(f.poison arch (.p g.pred.toNat) ||| f.basePoison arch base)) s)) fun c s =>
    let ls := c.pftLanes base off c.emask
    c.withPages (c.lanePages (c.r.addr base off.off) ls) s fun s => .done (c.prefetch l1 base off ls s)

/-- Whether a page's request stands in the tenant's ring (R200). -/
def State.pageStands (s : State) (dev tenant page : Nat) : Bool :=
  let t := s.tenant (tenantKey dev tenant)
  let size := 64 * 2 ^ (t.prq.toNat % 16)
  let used := (t.prqtl - t.prqhd).toNat
  (List.range used).any fun i =>
    match s.ptrLoad dev tenant (t.prq.toNat / 65536 * 65536 + 8 * ((t.prqhd.toNat + i) % 2 ^ 32 % size)) 8 with
    | .ok b => ofBytes b = page * 65536
    | .error _ => false
/-- Appends a page to the tenant's ring; false when it was not accepted (R402). -/
def State.appendPage (s : State) (dev tenant page : Nat) (hall : Word) (handle : Nat) : Bool × State :=
  let tk := tenantKey dev tenant
  let t := s.tenant tk
  let base := t.prq.toNat / 65536 * 65536
  let size := 64 * 2 ^ (t.prq.toNat % 16)
  let used := (t.prqtl - t.prqhd).toNat
  if base = 0 || size ≤ used then (false, s)
  else
    let a := base + 8 * (t.prqtl.toNat % size)
    match s.ptrStore dev tenant a (toBytes 8 (page * 65536)) with
    | .error _ => (false, s.logError dev tenant 7 hall a handle 0)
    | .ok s =>
      let s := s.modTenant tk fun t => { t with prqtl := t.prqtl + 1 }
      (true, if used = 0 || used + 1 = size then s.raise dev tenant (t.msix.toNat / 2 ^ 16 % 256) else s)
/-- PGREQ's answer for one page of a device's tables (R200). -/
def Ctx.pageAsk (c : Ctx) (s : State) (dev page : Nat) : Bool × State :=
  match c.page s dev page with
  | .ok _ => (true, s)
  | .flt k _ =>
    if k ≠ 2 then (false, s)
    else if s.pageStands c.C.dev c.tenant page then (true, s)
    else s.appendPage c.C.dev c.tenant page c.T.hall (s.handle c.T.cohort)
/-- Whether PGREQ asks for a page that is not in memory, so that it may store an entry. -/
def Ctx.pageGone (c : Ctx) (s : State) (p : Page) : Bool :=
  match c.page s p.1 p.2.1 with
  | .flt 2 _ => true
  | _ => false
/-- PGREQ's answer for a lane whose pointer passes R54 and R55, given the answers for its pages (R200). -/
def Ctx.pageOk (c : Ctx) (s : State) (addr : Nat → DWord) (ans : List (Page × Bool)) (l : Nat) : Bool :=
  match c.tables (addr l) l with
  | some t => ans.any fun y => y.1.1 = t.1 && y.1.2.1 = t.2.1 / 65536 && y.2
  | none => if ptrSpace (addr l) = 1 then true else match c.window s (addr l) l with
    | .at_ _ => true
    | _ => false
/-- PGREQ's answers for pages in turn. -/
def Ctx.askPages (c : Ctx) (ps : List Page) (s : State) : List (Page × Bool) × State :=
  ps.foldl (fun (acc : List (Page × Bool) × State) q =>
    let x := c.pageAsk acc.2 q.1 q.2.1
    (acc.1 ++ [(q, x.1)], x.2)) (([] : List (Page × Bool)), s)
/-- PGREQ (R200): the store of an entry is a release, so what the gang did before is performed and published first (R402). -/
def execPgreq (g : Guard) (p : PredNum) (base : Base) (off : Option Word) (s : State) : Out :=
  issue (.pgreq g p base off) s fun c s =>
    let addr (l : Nat) : DWord := c.r.addr base (offOf off) l
    let fs := c.badPtrs addr
    let rest := c.left fs
    let ps := c.lanePages addr rest
    c.withPages ps s fun s =>
      match (if ps.any (c.pageGone s) then c.release s else (none, s)) with
      | (some w, s) => .wait w s
      | (none, s) =>
        let r := c.laneTrap fs s
        if !r.1 then .done r.2
        else
          let ask := c.askPages ps r.2
          .done (c.mod ask.2 fun x => x.setP p.toNat (maskOf fun l => rest.contains l) (c.pageOk r.2 addr ask.1))

/-- The status word of XLAT (R211): of a walk that faulted, the bits of the leaf it read. -/
def xlatWord (r : WalkRes) (hit : Bool) : Nat :=
  let b (x : Bool) (i : Nat) : Nat := if x then 2 ^ i else 0
  match r with
  | .ok e => 3 + b e.w 2 + b e.x 3 + b hit 4 + e.mask.toNat * 2 ^ 8
  | .flt cause leaf => leaf % 16 + b (cause ≠ 2) 5
/-- XLAT in one lane (R211). -/
def Ctx.xlat (c : Ctx) (s : State) (pa : Bool) (p : DWord) (l : Nat) : Nat :=
  if pa then ((c.landing s p l).map (·.2)).getD (2 ^ 64 - 1)
  else if ptrSpace p ≠ 0 then 2 ^ 31
  else xlatWord (c.page s c.dev (ptrAddr p / 65536)) (!c.G.walked.contains (c.dev, ptrAddr p / 65536))
/-- The lanes of XLAT whose pages are looked up (R211). -/
def xlatLanes (pa : Bool) (addr : Nat → DWord) (ls : List Nat) : List Nat :=
  ls.filter fun l => pa || ptrSpace (addr l) = 0
/-- XLAT (R211). -/
def execXlat (g : Guard) (pa : Bool) (d : RegNum) (base : Base) (off : Option Word) (s : State) : Out :=
  let n := if pa then 2 else 1
  issueF (.xlat g pa d base off) s
    (fun c arch f s =>
      let gp := f.poison arch (.p g.pred.toNat)
      let bad := gp ||| f.basePoison arch base
      let addr (l : Nat) : DWord := c.r.addr base (offOf off) l
      let flts := (lanesOf (c.emask &&& ~~~bad)).filter fun l => (c.preCheck (addr l) 1 l).isSome
      let s := flts.foldl (fun s _ => s.modGang c.gid fun g => { g with fluxFaults := satInc g.fluxFaults }) s
      let ok := (lanesOf (c.emask &&& ~~~bad)).filter fun l => !flts.contains l
      let s := ((xlatLanes pa addr ok).filterMap fun l => (c.tables (addr l) l).map fun t => (t.1, t.2.1 / 65536, t.2.2)).foldl
          (fun s q => if (s.peek c.core c.tenant q.1 q.2.1 c.gid).isNone then c.fluxWalk q false s else s) s
      let w := c.emask ||| (c.amask &&& gp)
      (f.write arch (s.fluxFree c.gid arch c.die) ((AccDest.v d.toNat n).refs) w w).map fun f => (f, s)) fun c s =>
    let addr (l : Nat) : DWord := c.r.addr base (offOf off) l
    let fs := c.badPtrs addr
    let rest := c.left fs
    c.withPages (c.lanePages addr (xlatLanes pa addr rest)) s fun s =>
      let r := c.laneTrap fs s
      if !r.1 then .done r.2
      else
        .done (c.mod r.2 fun y => (List.range n).foldl
          (fun y i => y.setV (d.toNat + i) (maskOf fun l => rest.contains l) fun l =>
            BitVec.ofNat 32 (c.xlat s pa (addr l) l / 2 ^ (32 * i))) y)

/-! ### CCTL (R212) -/

/-- Byte range of the lines that overlap [a, a + len). -/
def lineRange (a len : Nat) : Nat × Nat := if len = 0 then (a, a) else (a / 128 * 128, (a + len + 127) / 128 * 128)
/-- The parts of a VA range page by page: VA of the part and its length. -/
def pageParts (lo hi : Nat) : List (Nat × Nat) :=
  if hi ≤ lo then []
  else (List.range ((hi - 1) / 65536 - lo / 65536 + 1)).map fun i =>
    let p := (lo / 65536 + i) * 65536
    (max lo p, min hi (p + 65536) - max lo p)
/-- The pages of a range of lines at a pointer; one past the top of the 52-bit device space goes on at VA 0 (R204, R212; DESIGN CHOICE,
log 92). -/
def Ctx.rangePages (c : Ctx) (p : DWord) (l len : Nat) : List Page :=
  match c.tables p l with
  | none => []
  | some (dev, va, fab) =>
    let r := lineRange va len
    (pageParts r.1 r.2).map fun q => (dev, q.1 / 65536, fab)
/-- The physical parts of a range of lines at a pointer; pages that fail translation are skipped (R204, R212), and one past the top of
the 52-bit device space goes on at VA 0 (DESIGN CHOICE, log 92). -/
def Ctx.physParts (c : Ctx) (s : State) (p : DWord) (l len : Nat) : List (Nat × Nat × Nat) :=
  match c.tables p l with
  | none => []
  | some (dev, va, _) =>
    let r := lineRange va len
    (pageParts r.1 r.2).filterMap fun q => (c.paOf s dev q.1).map fun pa => (dev, pa, q.2)
/-- Whether a sector lies in a physical part. -/
def inPart (sec : Nat) (q : Nat × Nat × Nat) : Bool :=
  secDev sec = q.1 && q.2.1 ≤ secPa sec && secPa sec < q.2.1 + q.2.2
/-- Writes back, and drops under `drop`, the L1 sectors of physical parts; false while tokens are missing. -/
def Ctx.l1Back (c : Ctx) (drop : Bool) (parts : List (Nat × Nat × Nat)) (s : State) : Bool × State :=
  (s.core c.core).l1.foldl (fun (acc : Bool × State) e =>
    let sec := if e.2.priv then e.1 - 2 ^ 50 else e.1
    if !parts.any (inPart sec) then acc
    else
      let r := if e.2.priv then (true, acc.2.privBack c.core sec) else acc.2.pubAsk c.core sec
      (acc.1 && r.1, if drop && r.1 then r.2.setL1 c.core e.1 {} else r.2)) (true, s)
/-- The pointer of a CCTL and what its space makes of it: `none` for no effect, a fault, or go on (R212). -/
def Ctx.cctlPtr (c : Ctx) (p : DWord) (priv : Bool) : Option (Option Nat) :=
  let sp := ptrSpace p
  if sp = 1 || sp = 6 then none
  else if sp = 2 && !priv then some (some 2)
  else some (ptrCause p c.C.scratchBytes c.C.lr.privsz)
/-- A CCTL by its operation on the physical parts of its range. In space 0x2 it names the private memory of the lowest lane of E,
which the rule does not say (DESIGN CHOICE, log 64). -/
def Ctx.cctl (c : Ctx) (base len : Src) (off : Option Word) (priv : Bool)
    (f : List (Nat × Nat × Nat) → State → Bool × State) (s : State) : Res :=
  match lowLane c.emask with
  | none => .done s
  | some l =>
    let p := c.kaddr base (offOf off)
    match c.cctlPtr p priv with
    | none => .done s
    | some (some k) => c.allTrap 0x10 k p s
    | some none =>
      let n := (c.r.ks len).toNat
      c.withPages (c.rangePages p l n) s fun s =>
        let x := f (c.physParts s p l n) s
        if x.1 then .done x.2 else .wait .drain x.2
/-- Whether an instruction-cache block lies in the range of a CCTL `.iinv`, in a page that translates (R75, R212). -/
def Ctx.codeHit (c : Ctx) (p : DWord) (len : Nat) (s : State) (k : Nat) : Bool :=
  match c.tables p 0 with
  | some (dev, va, _) =>
    let r := lineRange va len
    k / 2 ^ 47 = c.tenant && dev = c.dev && r.1 ≤ k % 2 ^ 47 * 32 && k % 2 ^ 47 * 32 < r.2 &&
      (c.paOf s dev (k % 2 ^ 47 * 32)).isSome
  | none => false
/-- Drops the instruction-cache blocks of a range in every core of the die (R75, R212). -/
def Ctx.dropCode (c : Ctx) (p : DWord) (len : Nat) (s : State) : State :=
  (List.range 48).foldl (fun t i => t.modCore (coreKey c.die i) fun x =>
    { x with icache := x.icache.filter fun e => !c.codeHit p len s e.1 }) s
/-- CCTL `.iinv` (R75, R212). -/
def execCctlIinv (g : Guard) (base len : Src) (off : Option Word) (s : State) : Out :=
  issue (.cctlIinv g base len off) s fun c s =>
    c.cctl base len off false (fun _ s => (true, c.dropCode (c.kaddr base (offOf off)) (c.r.ks len).toNat s)) s
/-- CCTL `.l1wb` (R212). -/
def execCctlL1wb (g : Guard) (base len : Src) (off : Option Word) (s : State) : Out :=
  issue (.cctlL1wb g base len off) s fun c s => c.cctl base len off true (c.l1Back false) s
/-- CCTL `.l1inv` (R212). -/
def execCctlL1inv (g : Guard) (base len : Src) (off : Option Word) (s : State) : Out :=
  issue (.cctlL1inv g base len off) s fun c s => c.cctl base len off true (c.l1Back true) s
/-- Whether a die's L2 holds a line pinned. -/
def State.pinned (s : State) (di line : Nat) : Bool := ((Store.get none s.l2 (l2Key di line)).bind (·.pin)).isSome
/-- The unpinned lines of physical parts that a die holds tokens of. -/
def State.linesHeld (s : State) (di : Nat) (parts : List (Nat × Nat × Nat)) : List Nat :=
  (s.hold.filterMap fun e =>
    let sec := e.1 / 512
    if e.1 % 512 = holderOfDie di && secPod sec = di / 256 && parts.any (inPart sec) && !s.pinned di (lineOfSec sec) then
      some (lineOfSec sec)
    else none).eraseDups
/-- CCTL `.l2evict` (R212). -/
def execCctlL2evict (g : Guard) (base len : Src) (off : Option Word) (s : State) : Out :=
  issue (.cctlL2evict g base len off) s fun c s =>
    c.cctl base len off false (fun parts s =>
      (true, (s.linesHeld c.die parts).foldl (fun s line => s.evictLine c.die line) s)) s

/-! ### PIN and UNPIN (R204–R206) -/

/-- Lines of physical parts. -/
def linesOf (parts : List (Nat × Nat × Nat)) : List Nat :=
  parts.flatMap fun q => (List.range (q.2.2 / 128)).map fun i => lineOf q.1 (q.2.1 + 128 * i)
/-- Fetches a sector of a line to be pinned with a read token, unless it has come for the word already (R256). -/
def Ctx.fetchSec (c : Ctx) (sec : Nat) (s : State) : Bool × State :=
  if (c.G.sight sec (holderOfDie c.die)).isSome then (true, s)
  else
    let r := s.shareAsk sec c.die
    (r.1, if r.1 then r.2 else r.2.awaits c.gid sec (holderOfDie c.die))
/-- Fetches both sectors of a line where they are missing; false while tokens are missing. -/
def Ctx.fetchLine (c : Ctx) (line : Nat) (s : State) : Bool × State :=
  let a := c.fetchSec (2 * line) s
  let b := c.fetchSec (2 * line + 1) a.2
  (a.1 && b.1, b.2)
/-- Pins one line: whether it could act, whether the mark changed, and the state (R204). A line of a page in host bias, which no
die caches (R267), is skipped and not counted: the rule is silent (DESIGN CHOICE, log 65). -/
def Ctx.pinLine (c : Ctx) (line : Nat) (s : State) : Bool × Bool × State :=
  if s.pinned c.die line || s.setPinned c.die line || s.hostBias (line / 2 ^ 35) (line % 2 ^ 35 * 128) then
    (true, false, s)
  else
    let r := c.fetchLine line s
    if !r.1 then (false, false, r.2)
    else
      let s := r.2
      let k := l2Key c.die line
      let old := (Store.get none s.l2 k).getD { age := s.freshAge c.die line false }
      let s := { s with l2 := Store.set none s.l2 k (some { old with pin := some c.tk }) }
      (true, true, s.trimSet c.die line 64)
/-- Unpins one line of the tenant. -/
def Ctx.unpinLine (c : Ctx) (line : Nat) (s : State) : Bool × Bool × State :=
  match Store.get none s.l2 (l2Key c.die line) with
  | some x =>
    if x.pin = some c.tk then
      (true, true, { s with l2 := Store.set none s.l2 (l2Key c.die line) (some { x with pin := none }) })
    else (true, false, s)
  | none => (true, false, s)
/-- An act on lines in turn: whether each could act, how many marks changed, and the state. -/
def pinFold (f : Nat → State → Bool × Bool × State) (lines : List Nat) (s : State) : Bool × Nat × State :=
  lines.foldl (fun (acc : Bool × Nat × State) line =>
    let y := f line acc.2.2
    (acc.1 && y.1, if y.2.1 then acc.2.1 + 1 else acc.2.1, y.2.2)) (true, 0, s)
/-- PIN and UNPIN by their act on one line (R204); a PIN that misses tokens changes nothing and waits. -/
def Ctx.pinAll (c : Ctx) (d : RegNum) (base len : Src) (off : Option Word)
    (f : Nat → State → Bool × Bool × State) (s : State) : Res :=
  match lowLane c.emask with
  | none => .done s
  | some l =>
    let p := c.kaddr base (offOf off)
    match ptrCause p c.C.scratchBytes c.C.lr.privsz with
    | some k => c.allTrap 0x10 k p s
    | none =>
      if ptrSpace p ≠ 0 then c.allTrap 0x10 2 p s
      else
        let n := (c.r.ks len).toNat
        c.withPages (c.rangePages p l n) s fun s =>
          let x := pinFold f (linesOf (c.physParts s p l n)) s
          if x.1 then c.putK x.2.2 d (BitVec.ofNat 32 x.2.1)
          else .wait .drain (({ x.2.2 with l2 := s.l2 } : State).modGang c.gid fun g => { g with eye := (c.G.eye ++ g.eye).eraseDups })
/-- PIN (R204). -/
def execPin (g : Guard) (d : RegNum) (base len : Src) (off : Option Word) (s : State) : Out :=
  issue (.pin g d base len off) s fun c s => c.pinAll d base len off c.pinLine s
/-- UNPIN (R204). -/
def execUnpin (g : Guard) (d : RegNum) (base len : Src) (off : Option Word) (s : State) : Out :=
  issue (.unpin g d base len off) s fun c s => c.pinAll d base len off c.unpinLine s

end Machine
end Sys2Proof
end

