-- ==== Sys2Proof/Machine/Atomics.lean ====
section
/-!
DEFINITION. Atomic instructions and fences, major opcodes 0x70–0x75 (R214–R227).
-/
namespace Sys2Proof

/-- Operand registers of an atomic addition in floating point: one word in every format (R219). -/
def AredOp.words : AredOp → Nat
  | .int _ t => if t.is64 then 2 else 1
  | .fadd _ => 1
namespace Machine

/-! ### ATOM, ACAS, AFADD, ARED (R219, R220) -/

/-- The request of an atomic (R216): strong, with the order and scope of its operand. -/
def Ctx.atomReq (c : Ctx) (op : AccOp) (n : Nat) (dest : AccDest) (base : Base) (off : MOff) (b x : Nat → Nat) : MemReq :=
  { op := op, size := 4 * n, weak := false, acq := off.ord = .acq, rel := off.ord = .rel, scope := off.scope,
    dest := dest, lanes := c.perLane base off.off b x }
/-- Words of an integer type. -/
def intWords (t : IntT) : Nat := if t.is64 then 2 else 1
/-- ATOM (R220). -/
def execAtom (g : Guard) (op : AtomOp) (t : IntT) (d : RegNum) (base : Base) (off : MOff) (b : Src) (s : State) : Out :=
  issue (.atom g op t d base off b) s fun c s =>
    let n := intWords t
    c.access (c.atomReq (.int op t) n (.v d.toNat n) base off (c.r.vN b.reg.toNat n) fun _ => 0) s
/-- ACAS (R220). -/
def execAcas (g : Guard) (b64 : Bool) (d : RegNum) (base : Base) (off : MOff) (b x : Src) (s : State) : Out :=
  issue (.acas g b64 d base off b x) s fun c s =>
    let n := if b64 then 2 else 1
    c.access (c.atomReq .cas n (.v d.toNat n) base off (c.r.vN b.reg.toNat n) (c.r.vN x.reg.toNat n)) s
/-- AFADD (R220, R221). -/
def execAfadd (g : Guard) (t : FaddT) (d : RegNum) (base : Base) (off : MOff) (b : Src) (s : State) : Out :=
  issue (.afadd g t d base off b) s fun c s =>
    c.access (c.atomReq (.fadd t) 1 (.v d.toNat 1) base off (c.r.vN b.reg.toNat 1) fun _ => 0) s
/-- The operation of ARED on the old bytes. -/
def aredOp : AredOp → AccOp
  | .int op t => .int op t
  | .fadd t => .fadd t
/-- ARED (R220). -/
def execAred (g : Guard) (op : AredOp) (base : Base) (off : MOff) (b : Src) (s : State) : Out :=
  issue (.ared g op base off b) s fun c s =>
    c.access (c.atomReq (aredOp op) op.words .none base off (c.r.vN b.reg.toNat op.words) fun _ => 0) s

/-! ### FENCE and XFENCE (R226, R227) -/

/-- FENCE (R226): every earlier access is performed; one that releases publishes and makes the gang's next strong store or atomic
a release, and a wide one that acquires drops clean lines. -/
def execFence (g : Guard) (o : FenceOrd) (scope : Scope) (s : State) : Out :=
  issue (.fence g o scope) s fun c s =>
    if s.accesses.any (·.gang = c.gid) then .wait .drain s
    else
      let wide := !c.narrow scope
      let r := if o ≠ .acq then s.publishCore c.core else (true, s)
      if !r.1 then .wait .drain r.2
      else
        let s := if wide && o ≠ .rel then r.2.dropCleanAll c.core else r.2
        .done (if o ≠ .acq then s.modGang c.gid fun g => { g with relArm := some wide } else s)
/-- XFENCE (R227): every earlier store of the gang is performed where the engines read. -/
def execXfence (g : Guard) (s : State) : Out :=
  issue (.xfence g) s fun c s =>
    if s.storesOut c.gid then .wait .drain s
    else
      let r := s.publishCore c.core
      if r.1 then .done r.2 else .wait .drain r.2

end Machine
end Sys2Proof
end

