-- ==== Sys2Proof/Machine/Coherence.lean ====
section
/-!
DEFINITION. The coherence instructions, major opcodes 0x78–0x7B (R272–R276), and the surrender of a page's tokens.
-/
namespace Sys2Proof
namespace Machine

/-- Publishes both sectors of a line from a core's L1 (R274). -/
def State.pubLine (s : State) (ck line : Nat) : Bool × State :=
  let a := s.pubAsk ck (2 * line)
  let b := a.2.pubAsk ck (2 * line + 1)
  (a.1 && b.1, b.2)
/-- The lanes that the coherence instructions act on (R273): spaces 0x0 and 0x3. -/
def cohLanes (addr : Nat → DWord) (ls : List Nat) : List Nat := ls.filter fun l => ptrSpace (addr l) = 0 || ptrSpace (addr l) = 3
/-- The sectors of the lanes whose page translates (R273). -/
def Ctx.cohSectors (c : Ctx) (addr : Nat → DWord) (ls : List Nat) (s : State) : List Nat :=
  (ls.filterMap fun l => (c.landing s (addr l) l).map fun q => sectorOf q.1 q.2).eraseDups
/-- Publishes lines from a core's L1; false while tokens are missing. -/
def State.pubAll (s : State) (ck : Nat) (ls : List Nat) : Bool × State :=
  ls.foldl (fun (acc : Bool × State) line =>
    let r := acc.2.pubLine ck line
    (acc.1 && r.1, r.2)) (true, s)
/-- Publishes the lines of sectors; false while tokens are missing. -/
def Ctx.pubLines (c : Ctx) (secs : List Nat) (s : State) : Bool × State := s.pubAll c.core (secs.map lineOfSec).eraseDups
/-- CWB of one sector in the issuing die's slice (R274). -/
def Ctx.cwbSec (c : Ctx) (inv : Bool) (s : State) (sec : Nat) : State :=
  let h := holderOfDie c.die
  let o := s.holdOf sec h
  if inv then
    if s.pinned c.die (lineOfSec sec) then s.retTokens c.die sec else s.evictLine c.die (lineOfSec sec)
  else if o.owner && o.dirty then
    let kept : Hold := if o.count = 1 then {} else { o with count := o.count - 1, owner := false, dirty := false }
    (s.setHold sec h kept).send (.tret ⟨sec, homeH, o.cast, 1, true, true, h, s.time, o.data⟩)
  else s
/-- CWB (R274). -/
def execCwb (g : Guard) (inv : Bool) (base : Base) (off : Option Word) (s : State) : Out :=
  issue (.cwb g inv base off) s fun c s =>
    let addr (l : Nat) : DWord := c.r.addr base (offOf off) l
    let fs := c.badPtrs addr
    let ls := cohLanes addr (c.left fs)
    c.withPages (c.lanePages addr ls) s fun s =>
      let secs := c.cohSectors addr ls s
      let r := c.pubLines secs s
      if !r.1 then .wait .drain r.2
      else
        let t := c.laneTrap fs r.2
        .done (if t.1 then secs.foldl (c.cwbSec inv) t.2 else t.2)
/-- CPUB (R274). -/
def execCpub (g : Guard) (base : Base) (off : Option Word) (s : State) : Out :=
  issue (.cpub g base off) s fun c s =>
    let addr (l : Nat) : DWord := c.r.addr base (offOf off) l
    let fs := c.badPtrs addr
    let ls := cohLanes addr (c.left fs)
    c.withPages (c.lanePages addr ls) s fun s =>
      let secs := c.cohSectors addr ls s
      let r := c.pubLines secs s
      if !r.1 then .wait .drain r.2
      else .done (c.laneTrap fs (((secs.map lineOfSec).eraseDups).foldl (fun s line => s.unmark c.core line) r.2)).2

/-- State code of a holding (R245). -/
def Hold.code (o : Hold) : Nat :=
  if o.count = 0 then 0
  else if o.owner && o.dirty then (if o.count = 256 then 4 else 3)
  else if o.count = 256 then 2 else 1
/-- The word of TKQ (R275). CLAMP reads 1 until the last CLACK of the clamp has come, so in DEACT as well: the rule says only
that a clamp is active (DESIGN CHOICE, log 66). -/
def State.tkqWord (s : State) (di sec : Nat) : Nat :=
  let o := s.holdOf sec (holderOfDie di)
  let m := s.smetaOf sec
  let u := s.home (unitOf sec)
  let b (x : Bool) (i : Nat) : Nat := if x then 2 ^ i else 0
  m.cast.toNat * 2 ^ 24 + b m.pois 23 + b (u.active.any fun a => a.req.sector = sec) 22 + o.code * 2 ^ 19 +
    b (s.hostBias (secDev sec) (secPa sec)) 18 + b o.dirty 17 + b o.owner 16 + o.count
/-- The word of TKQ in one lane (R273, R275). -/
def Ctx.tkqLane (c : Ctx) (s : State) (p : DWord) (l : Nat) : Nat :=
  if ptrSpace p = 0 || ptrSpace p = 3 then match c.landing s p l with
    | some q => s.tkqWord c.die (sectorOf q.1 q.2)
    | none => 0
  else 0
/-- TKQ (R275). -/
def execTkq (g : Guard) (d : RegNum) (base : Base) (off : Option Word) (s : State) : Out :=
  issue (.tkq g d base off) s fun c s =>
    let addr (l : Nat) : DWord := c.r.addr base (offOf off) l
    let fs := c.badPtrs addr
    c.withPages (c.lanePages addr (cohLanes addr (c.left fs))) s fun s =>
      let r := c.laneTrap fs s
      if !r.1 then .done r.2
      else .done (c.mod r.2 fun y => y.setV d.toNat (maskOf fun l => (c.left fs).contains l) fun l =>
        BitVec.ofNat 32 (c.tkqLane s (addr l) l))

/-- Asks the host holders for what they have of a sector (R262, R266). -/
def State.askHost (s : State) (sec : Nat) : State :=
  ((s.holders sec).filter fun p => 256 ≤ p.1 && 0 < p.2.count).foldl (fun s p =>
    let m : TokMsg := ⟨sec, p.1, (s.smetaOf sec).cast, 0, false, false, homeH, s.time, 0⟩
    let out : Bool := (s.net.any fun e => match e with | .twr x => x.sector = sec && x.dest = p.1 && x.req = homeH | _ => false) ||
      (s.hub (64 * secPod sec + (p.1 - 256))).recalls.any (·.sector = sec)
    if out then s else s.send (.twr m)) s

/-! ### BIAS (R268, R276) -/

/-- The pointers of a BIAS's pages (R276). -/
def biasPtrs (p : DWord) (n : Nat) : List DWord := (List.range (min n 64)).map fun i => p + BitVec.ofNat 64 (i * 65536)
/-- The pages that a BIAS translates. -/
def Ctx.biasPages (c : Ctx) (p : DWord) (n : Nat) : List Page :=
  ((biasPtrs p n).filterMap fun q => (c.tables q 0).map fun t => (t.1, t.2.1 / 65536, t.2.2)).eraseDups
/-- The device and physical page of a BIAS pointer, when it translates with W = 1. -/
def Ctx.biasPage (c : Ctx) (s : State) (p : DWord) : Option (Nat × Nat) :=
  match c.tables p 0 with
  | none => none
  | some (dev, va, _) =>
    match c.page s dev (va / 65536) with
    | .ok e => if e.w then some (dev, e.pa va / 65536) else none
    | .flt .. => none
/-- Whether a page has the bias asked for and no flip of it is under way. -/
def State.biased (s : State) (toHost : Bool) (p : Nat × Nat) : Bool :=
  Store.get false (s.dev p.1).bias p.2 = toHost && !(s.dev p.1).flips.any (·.page = p.2)
/-- Takes the next page whose bias differs and starts its flip at the hub of its device; with none left the answer is written
(R276). -/
def State.nextFlip (s : State) (toHost : Bool) (pages : List (Nat × Nat)) (id gang : Nat) (dst : RegNum) (count : Nat) : State :=
  match pages.dropWhile (s.biased toHost) with
  | [] => (s.modRegs gang fun x => x.setK dst.toNat (BitVec.ofNat 32 count)).repay gang id
  | p :: rest => s.modDev p.1 fun d => { d with flips := d.flips ++ [⟨p.2, toHost, rest, id, gang, dst, count⟩] }
/-- BIAS (R276). -/
def execBias (g : Guard) (host : Bool) (d : RegNum) (base n : Src) (off : Option Word) (s : State) : Out :=
  issue (.bias g host d base n off) s fun c s =>
    let p := c.kaddr base (offOf off)
    match ptrCause p c.C.scratchBytes c.C.lr.privsz with
    | some k => c.trapAt 0x10 k p s
    | none =>
      if ptrSpace p ≠ 0 && ptrSpace p ≠ 3 then c.trapAt 0x10 2 p s
      else if p.toNat % 65536 ≠ 0 then c.trapAt 0x11 0 p s
      else
        let k := (c.r.ks n).toNat
        c.withPages (c.biasPages p k) s fun s =>
          let (id, s) := (c.endRegion s).newId
          .done ((s.owe c.gid id ([RegRef.k d.toNat].filter fun r => !r.fixed)).nextFlip host
            ((biasPtrs p k).filterMap (c.biasPage s)) id c.gid d 0)

/-- Every token that a die holds of a sector goes to the home memory, dirty data with it (R268). -/
def State.surrender (s : State) (sec : Nat) : State :=
  let ds := (s.holders sec).filter fun p => p.1 < 256
  let s := match ds.find? fun p => p.2.owner && p.2.dirty with
    | some (_, o) => s.putMemSec sec o.data
    | none => s
  let t := s.homeTokOf sec
  let s := s.setHomeTok sec (t.1 + ds.foldl (fun a p => a + p.2.count) 0, t.2 || ds.any fun p => p.2.owner)
  ds.foldl (fun s p => s.setHold sec p.1 {}) s
/-- Whether a sector lies in a page of a device. -/
def inPage (dev page sec : Nat) : Bool := secDev sec = dev && secPa sec / 65536 = page
/-- The L1 lines of a page: what is dirty is published where its tokens are at hand, and otherwise kept to be published by the
page's new bias; the rest is dropped (R268, log 37). -/
def State.clearPageL1 (s : State) (dev page : Nat) : State :=
  s.cores.foldl (fun s k =>
    k.2.l1.foldl (fun s e =>
      if e.2.priv || !inPage dev page e.1 then s
      else match s.pubSec k.1 e.1 with
        | some s => s.setL1 k.1 e.1 {}
        | none => s.setL1 k.1 e.1 { (s.l1Of k.1 e.1).onlyDirty with asked := false }) s) s
/-- Accesses that wait for tokens of a page that has gone to host bias are performed at the home (R267). -/
def State.rehome (s : State) (dev page : Nat) : State :=
  let hit (y : LaneAcc) : Bool := y.got.isNone && match y.loc with
    | .dram d pa => d = dev && pa / 65536 = page
    | _ => false
  let s := { s with misses := s.misses.filter fun m => 256 ≤ m.holder || !inPage dev page m.sector }
  (s.accesses.filter fun a => a.lanes.any hit).foldl (fun s a =>
    (s.setAccess { a with lanes := a.lanes.map fun y => if hit y then { y with place := .home } else y }).send
      (.homeAccessRequest a.id)) s

end Machine
end Sys2Proof
end

