-- ==== Sys2Proof/Machine/Lanes.lean ====
section
/-!
DEFINITION. Cross-lane and moment instructions of major opcodes 0x50–0x5D and 0x5F (R163–R180).
-/
namespace Sys2Proof
namespace Machine

/-! ### SHFL, VOTE, LRED, LSCAN, LMATCH (R166–R171) -/

/-- SHFL (R166). -/
def execShfl (g : Guard) (mode : ShflMode) (w : BitVec 3) (d : RegNum) (a : Src) (b : SrcI) (p : PredNum) (s : State) :
    Out :=
  issue (.shfl g mode w d a b p) s fun c s =>
    let pick (l : Nat) := shflLane mode (32 / 2 ^ w.toNat) l (c.r.srcI b l).toNat
    .done (c.mod s fun x =>
      (x.setV d.toNat c.emask fun l => c.r.src a (if (pick l).2 then (pick l).1 else l)).setP p.toNat c.emask
        fun l => (pick l).2)

/-- VOTE (R167). -/
def execVote (g : Guard) (k : VoteKind) (uni inv : Bool) (d : RegNum) (p : PredNum) (s : State) : Out :=
  issue (.vote g k uni inv d p) s fun c s =>
    let t := c.emask &&& (if inv then ~~~(c.r.p p.toNat) else c.r.p p.toNat)
    let b : Bool := match k with
      | .any => t ≠ 0
      | _ => t = c.emask
    if c.emask = 0 && (uni || k ≠ .ballot) then .done s
    else match k with
      | .ballot => if uni then c.putK s d t else c.putV s d fun _ => t
      | _ => if uni then c.putQ s (d.setWidth 3) b else c.putP s (d.setWidth 3) fun _ => b

/-- `comb` of two present values (R168). -/
def combW (op : RedOp) (a b : Word) : Word :=
  match op with
  | .add => a + b
  | .minI => if a.toInt ≤ b.toInt then a else b
  | .maxI => if a.toInt ≤ b.toInt then b else a
  | .minN => if a.toNat ≤ b.toNat then a else b
  | .maxN => if a.toNat ≤ b.toNat then b else a
  | .and => a &&& b
  | .or => a ||| b
  | .xor => a ^^^ b
  | .fadd => r32 .rne (Fx.add .rne (f32 a) (f32 b))
  | .fmin => fminmax false (fun x y => x ≤ y) a b
  | .fmax => fminmax false (fun x y => y ≤ x) a b
/-- `comb` with absent values (R168). -/
def comb (op : RedOp) : Option Word → Option Word → Option Word
  | some a, some b => some (combW op a b)
  | some a, none => some a
  | none, b => b
/-- The values of the lanes of a mask, absent elsewhere (R168). -/
def Ctx.present (c : Ctx) (a : Src) : List (Option Word) :=
  lanes.map fun l => if c.emask.getLsbD l then some (c.r.src a l) else none
/-- LRED's aligned tree (R169). -/
def lredW (op : RedOp) (xs : List (Option Word)) : Option Word := (tree (comb op) 5 xs).headD none
/-- LRED (R169). -/
def execLred (g : Guard) (op : RedOp) (uni : Bool) (d : RegNum) (a : Src) (s : State) : Out :=
  issue (.lred g op uni d a) s fun c s =>
    let v := (lredW op (c.present a)).getD 0
    if uni then (if c.emask = 0 then .done s else c.putK s d v) else c.putV s d fun _ => v

/-- One step of the doubling scan at distance `k` (R170). -/
def scanStep (op : RedOp) (xs : List (Option Word)) (k : Nat) : List (Option Word) :=
  (List.range xs.length).map fun l =>
    if k ≤ l then comb op (xs.getD (l - k) none) (xs.getD l none) else xs.getD l none
/-- The identity of an operation (R170). -/
def redId : RedOp → Word
  | .add | .or | .xor | .maxN => 0
  | .minI => 0x7FFFFFFF
  | .maxI => 0x80000000
  | .minN | .and => 0xFFFFFFFF
  | .fadd => 0x80000000
  | .fmin => 0x7F800000
  | .fmax => 0xFF800000
/-- LSCAN (R170). -/
def execLscan (g : Guard) (op : RedOp) (excl : Bool) (d : RegNum) (a : Src) (s : State) : Out :=
  issue (.lscan g op excl d a) s fun c s =>
    let r := [1, 2, 4, 8, 16].foldl (scanStep op) (c.present a)
    c.putV s d fun l =>
      if excl then (if l = 0 then redId op else (r.getD (l - 1) none).getD (redId op)) else (r.getD l none).getD 0

/-- LMATCH (R171). -/
def execLmatch (g : Guard) (all b64 : Bool) (d : RegNum) (a : Src) (s : State) : Out :=
  issue (.lmatch g all b64 d a) s fun c s =>
    let v (l : Nat) : Nat := if b64 then (c.r.src2 a l).toNat else (c.r.src a l).toNat
    if all then
      let same := match lowLane c.emask with
        | some z => (lanesOf c.emask).all fun l => v l = v z
        | none => true
      c.putP s (d.setWidth 3) fun _ => same
    else c.putV s d fun l => c.emask &&& maskOf fun m => v m = v l

/-! ### Moments (R176–R180) -/

/-- A moment register as a triple. -/
def Regs.trip (x : Regs) (m : MomNum) : Trip := Trip.ofBits (x.m m.toNat)
/-- Writes a moment register when E is not empty (R165). -/
def Ctx.putM (c : Ctx) (s : State) (d : MomNum) (t : Trip) : Res :=
  if c.emask = 0 then .done s else .done (c.mod s fun x => x.setM d.toNat t.toBits)
/-- The lane tree of an update (R173, R175). -/
def Ctx.leaves (c : Ctx) (w x : Nat → Word) : Trip :=
  momTree (lanes.map fun l => if c.emask.getLsbD l then leaf (w l) (x l) else Trip.none)

/-- MOMZ (R176). -/
def execMomz (g : Guard) (d : MomNum) (s : State) : Out := issue (.momz g d) s fun c s => c.putM s d Trip.none
/-- MOMU (R176). -/
def execMomu (g : Guard) (d : MomNum) (a : Src) (s : State) : Out :=
  issue (.momu g d a) s fun c s =>
    c.putM s d (mrg (c.r.trip d) (c.leaves (fun _ => 0x3F800000) (c.r.src a)))
/-- MOMW (R176). -/
def execMomw (g : Guard) (d : MomNum) (a : Src) (b : SrcI) (s : State) : Out :=
  issue (.momw g d a b) s fun c s => c.putM s d (mrg (c.r.trip d) (c.leaves (c.r.srcI b) (c.r.src a)))
/-- MOMM (R176). -/
def execMomm (g : Guard) (d a b : MomNum) (s : State) : Out :=
  issue (.momm g d a b) s fun c s => c.putM s d (mrg (c.r.trip a) (c.r.trip b))

/-- MOMD (R177). -/
def execMomd (g : Guard) (k : MomdKind) (d : RegNum) (m : MomNum) (s : State) : Out :=
  issue (.momd g k d m) s fun c s =>
    c.putV s d fun l => (c.r.trip m).drain k (match k with
      | .rstd e => c.r.srcI e l
      | _ => 0)
/-- MOMN (R178). -/
def execMomn (g : Guard) (d : RegNum) (a : Src) (m : MomNum) (eps : SrcI) (s : State) : Out :=
  issue (.momn g d a m eps) s fun c s =>
    c.putV s d fun l => (c.r.trip m).normalise (c.r.src a l) (c.r.srcI eps l)
/-- MOMQ (R180). -/
def execMomq (g : Guard) (f : MomqField) (uni : Bool) (d : RegNum) (m : MomNum) (s : State) : Out :=
  issue (.momq g f uni d m) s fun c s =>
    let t := c.r.trip m
    let v : Word := match f with
      | .w => t.w
      | .mean => t.mean
      | .m2 => t.m2
      | .status => t.status.setWidth 32
    if uni then (if c.emask = 0 then .done s else c.putK s d v) else c.putV s d fun _ => v

end Machine
end Sys2Proof
end

