-- ==== Sys2Proof/Machine/Home.lean ====
section
/-!
DEFINITION. Accesses performed at the home, in the host or in a pool (R218, R262, R267, R269), and accesses whose
data comes back as poison (R270, R271, R412).
-/
namespace Sys2Proof
namespace Machine

/-! ### Poison that comes back (R270, R271, R412, R432) -/

/-- Records a store of a team that is dropped in its tenant's error log (R271, R402, R412). -/
def State.logStore (s : State) (tid : Nat) (ptr : DWord) : State :=
  match s.team? tid with
  | none => s
  | some t =>
    match s.cohort? t.cohort with
    | none => s
    | some c => s.logError c.dev c.tenant 3 t.hall ptr.toNat (s.handle t.cohort) 0
/-- Records a store of a gang that is dropped. -/
def State.logDropped (s : State) (gid : Nat) (ptr : DWord) : State :=
  match s.gang? gid with
  | none => s
  | some g => s.logStore g.team ptr
/-- A lane whose data comes back as poison: a probe has zero and a false flag, a store none (R270). -/
def Access.spoilt (a : Access) (y : LaneAcc) : LaneAcc :=
  if a.probe.isSome then { y with got := some 0, flag := false } else { y with got := some 0, pois := a.op ≠ .store }
/-- Completes the waiting lanes that `hit` names: loads and atomics as poison, a probe with zero and a false flag, stores
dropped and logged. -/
def State.spoil (s : State) (hit : Access → LaneAcc → Bool) : State :=
  (s.accesses.filter fun a => a.lanes.any fun y => y.got.isNone && hit a y).foldl (fun s a =>
    let fix (y : LaneAcc) : LaneAcc := if y.got.isSome || !hit a y then y else a.spoilt y
    let s := if a.op ≠ .store then s else
      (a.lanes.filter fun y => y.got.isNone && hit a y).foldl (fun s y => s.logDropped a.gang y.ptr) s
    let a' := { a with lanes := a.lanes.map fix }
    (s.setAccess a').reportAccess a') s
/-- Whether a lane's window is out of service: the host's link is down, or the shelf is fenced for its tenant. -/
def State.windowDown (s : State) (a : Access) (y : LaneAcc) : Bool :=
  match y.loc with
  | .host x => !s.hostUp (x / 2 ^ 64)
  | .pool _ =>
    (match s.gang? a.gang with
     | some g => (match s.team? g.team with | some t => (s.tenant (s.tenKey t)).fenced | none => false)
     | none => false)
  | _ => false

/-! ### Performing a lane at the home (R262) -/

/-- A lane's operation in the home memory, once it has every token: memory is written and the home keeps the tokens. -/
def State.homeWrite (s : State) (sec off : Nat) (op : AccOp) (y : LaneAcc) : Option (Nat × State) :=
  if s.homeTokOf sec ≠ (256, true) || s.homeFenced sec then none
  else
    let d := s.memSec sec
    let old := secGet d off y.size
    some (old, match op.new old y.b y.c with
      | some v => s.putMemSec sec (secPut d off y.size v)
      | none => s)
/-- A lane's atomic in the home die's slice, which keeps every token as M (R262). -/
def State.homeAtomic (s : State) (sec di off : Nat) (op : AccOp) (y : LaneAcc) : Option (Nat × State) :=
  let h := holderOfDie di
  let r := s.forcePublish di sec
  let o := r.2.holdOf sec h
  if !r.1 || o.count ≠ 256 then none
  else
    let old := secGet o.data off y.size
    let s := r.2.touchLine di (lineOfSec sec) false false
    some (old, match op.new old y.b y.c with
      | some v => s.setHold sec h { o with data := secPut o.data off y.size v, dirty := true }
      | none => s)
/-- A lane's operation on device memory at the home with the tokens there: its old value, or the state in which they have been
asked for, one by TRD for a load and all by TWR otherwise, and in host bias the host's recalled (R262, R267). -/
def State.homeDo (s : State) (op : AccOp) (y : LaneAcc) (dev pa : Nat) : Option Nat × State :=
  let sec := sectorOf dev pa
  let off := pa % 64
  let fin (r : Option (Nat × State)) (h : Nat) : Option Nat × State :=
    match r with
    | some (v, s) => (some v, s)
    | none => (none, (if s.hostBias dev pa then s.askHost sec else s).request h sec true false)
  if op.isLoad then
    if (s.homeTokOf sec).2 then (some (secGet (s.memSec sec) off y.size), s) else (none, s.request homeH sec false false)
  else
    match homeDie sec with
    | some di =>
      if op.isAtomic && !s.hostBias dev pa then fin (s.homeAtomic sec di off op y) (holderOfDie di)
      else fin (s.homeWrite sec off op y) homeH
    | none => fin (s.homeWrite sec off op y) homeH
/-- The cores that the home die's scope filter marks for a sector publish (R239); the hub has no filter. -/
def State.homePublish (s : State) (sec : Nat) : Bool × State :=
  match homeDie sec with
  | some di => s.forcePublish di sec
  | none => (true, s)
/-- A lane of device memory at the home: a home unit in FLIP holds it (R268), and so does one that relocks (R419); one of scope .sys
first recalls what the host holds, and every one has the marked cores of the home die publish (R239, R262). -/
def State.homeLane (s : State) (op : AccOp) (y : LaneAcc) (dev pa : Nat) : Option Nat × State :=
  let sec := sectorOf dev pa
  if s.flipping sec || s.relocking (partOfUnit (unitOf sec)) then (none, s)
  else if y.sys && s.hostHolds sec then (none, s.askHost sec)
  else
    let r := s.homePublish sec
    if r.1 then r.2.homeDo op y dev pa else (none, r.2)
/-- A lane's operation in the host's memory or a pool's (R218, R269). -/
def winLane (op : AccOp) (y : LaneAcc) (m : Store Byte) (a : Nat) : Nat × Store Byte :=
  let old := ofBytes (readBytes m a y.size)
  (old, match op.new old y.b y.c with
    | some v => writeBytes m a (toBytes y.size v)
    | none => m)
/-- Performs one waiting lane placed at the home, the host or a pool; a store or atomic at the home leaves nothing of its line in
the L1 of its core, whatever has filled it since the access issued (R201, R230). -/
def State.farLane (s : State) (a : Access) (y : LaneAcc) : Option Nat × State :=
  match y.loc with
  | .host x => let r := winLane a.op y s.hostMem x; (some r.1, { s with hostMem := r.2 })
  | .pool x => let r := winLane a.op y s.poolMem x; (some r.1, ({ s with poolMem := r.2 } : State).poolStored x)
  | .dram dev pa =>
    if a.op.isLoad then s.homeLane a.op y dev pa
    else
      let f := s.flushL1 a.core (sectorOf dev pa)
      if f.1 then f.2.homeLane a.op y dev pa else (none, f.2)
  | _ => (none, s)
/-- Whether a lane is performed beyond the die's slice. -/
def LaneAcc.far (y : LaneAcc) : Bool := y.place = .home || y.place = .host || y.place = .pool
/-- Whether a lane's load or atomic meets a pool line whose data returns poisoned (R270). -/
def State.shelfPoison (s : State) (a : Access) (y : LaneAcc) : Bool :=
  a.op ≠ .store && (match y.loc with | .pool x => s.poolBad x | _ => false)
/-- Performs those of the waiting far lanes of an access that `hit` names; those that cannot be yet stay waiting. -/
def State.farLanes (s : State) (hit : LaneAcc → Bool) (a : Access) : State × Access :=
  let r := a.lanes.foldl (fun (acc : State × List LaneAcc) y =>
    if y.got.isSome || !y.far || !hit y then (acc.1, acc.2 ++ [y])
    else if acc.1.shelfPoison a y then (acc.1, acc.2 ++ [a.spoilt y])
    else
      let r := acc.1.farLane a y
      (r.2, acc.2 ++ [{ y with got := r.1 }])) (s, [])
  (r.1, { a with lanes := r.2 })
/-- HOME_ACCESS_REQUEST (R201, R218, R262, R269): the request stays in flight until every such lane is performed; one
that waits in a circuit queue has not left its device (R423). -/
def State.homeAccess (s : State) (id : Nat) : State :=
  let s := s.spoil fun a y => a.id = id && (s.windowDown a y ||
    (match y.loc.sec? with | some sec => y.place = .home && s.homeFenced sec | none => false))
  match s.accesses.find? (·.id = id) with
  | none => s
  | some a =>
    let held := s.circWaits (devOfDie a.die) id
    let r := if held then (s, a) else s.farLanes (fun _ => true) a
    let s := if held then s else (r.1.setAccess r.2).reportAccess r.2
    if r.2.lanes.any fun y => y.got.isNone && y.far then s.send (.homeAccessRequest id) else s
/-- A word that waits keeps what has come for it, and the sector that it asks for at a holder. -/
def Ctx.eyeOn (c : Ctx) (needs : Option (Nat × Nat)) (s : State) : State :=
  let new := match needs with
    | some (h, sec) => [(eyeKey sec h, none)]
    | none => []
  s.modGang c.gid fun g => { g with eye := (c.G.eye ++ g.eye ++ new).eraseDups }
/-- Loads, transfers and words that wait at the home are answered from data that has come in TDAT (R262). -/
def State.homeData (s : State) (sec : Nat) (d : BitVec 512) : State :=
  let hit (a : Access) (y : LaneAcc) : Bool :=
    a.op.isLoad && y.got.isNone && y.place = .home && y.loc.sec? = some sec
  (s.accesses.filter fun a => a.lanes.any (hit a)).foldl (fun s a =>
    let off (y : LaneAcc) : Nat := match y.loc with | .dram _ pa => pa % 64 | _ => 0
    let fix (y : LaneAcc) : LaneAcc := if hit a y then { y with got := some (secGet d (off y) y.size) } else y
    let a' := { a with lanes := a.lanes.map fix }
    (s.setAccess a').reportAccess a')
    { s with xfers := s.xfers.map fun q => if q.needs = some (homeH, sec) then { q with feed := some d } else q,
             gangs := s.gangs.map fun p => (p.1, p.2.map fun g => g.sees sec d) }

/-! ### Words that use what they read (R224, R353, R428) -/

/-- The read of a placed lane by a word that uses it at once (log 19): its value once the tokens it needs are at hand, which are
asked for otherwise. -/
def Ctx.readLane (c : Ctx) (y : LaneAcc) (s : State) : Option Nat × State :=
  match y.place, y.loc with
  | .home, .dram dev pa =>
    let sec := sectorOf dev pa
    let f := s.flushL1 c.core sec
    if !f.1 then (none, f.2)
    else match c.G.sight sec homeH with
      | some d => (some (secGet d (pa % 64) y.size), f.2)
      | none =>
        let r := f.2.homeLane (.load false) y dev pa
        (r.1, if r.1.isSome then r.2 else r.2.awaits c.gid sec homeH)
  | .host, .host a => (some (ofBytes (readBytes s.hostMem a y.size)), s)
  | .pool, .pool a => (some (ofBytes (readBytes s.poolMem a y.size)), s)
  | _, loc =>
    match s.tryLane c.tid c.core (.load false) y with
    | some (v, s) => (some v, s)
    | none =>
      match loc with
      | .dram dev pa =>
        let sec := sectorOf dev pa
        let h := holderOfDie c.die
        match c.G.sight sec h with
        | some d => (some (secGet ((s.l1Of c.core sec).fill d).data (pa % 64) y.size), s)
        | none => (none, (s.request h sec false false).awaits c.gid sec h)
      | _ => (none, s)
/-- Whether a lane's read comes back as poison: its pool line is poisoned or the host's link is down (R270, R432). -/
def State.readSpoilt (s : State) (loc : Loc) : Bool :=
  match loc with
  | .pool a => s.poolBad a
  | .host a => !s.hostUp (a / 2 ^ 64)
  | _ => false
/-- What a word that reads memory for its own use comes to: it waits, meets a fault, or has the bytes. -/
inductive WordRead where
  | wait (w : Wait) (s : State)
  | flt (f : LaneFault) (s : State)
  | bytes (bs : List Byte) (s : State)
  deriving DecidableEq, Repr
/-- The bytes of placed lanes in turn; `none` while a token is missing. -/
def Ctx.readLanes (c : Ctx) (ys : List LaneAcc) (s : State) : Option (List Byte) × State :=
  ys.foldl (fun (acc : Option (List Byte) × State) y =>
    let r := c.readLane y acc.2
    ((match acc.1, r.1 with
      | some bs, some v => some (bs ++ toBytes y.size v)
      | _, _ => none), r.2)) (some [], s)
/-- A word reads the bytes of a request's lanes as the gang's loads: it waits for walks, the scoreboard and its own accesses, and for
tokens; the first fault or poison ends it (R187, R195, R208). -/
def Ctx.fetch (c : Ctx) (q : MemReq) (s : State) : WordRead :=
  let ps := c.reqPages q
  let w := c.walkAll ps s
  if !w.1 then .wait .walk w.2
  else
    let cs := c.checks q w.2
    match c.memWait q (locsOf cs) w.2, faultsOf cs with
    | some k, _ => .wait k w.2
    | none, f :: _ => .flt f (c.seenAll ps w.2)
    | none, [] =>
      let pl := c.placeAll q cs (c.seenAll ps w.2)
      match pl.1.find? fun y => pl.2.2.readSpoilt y.loc with
      | some y => .flt ⟨y.lane, 0x13, 0, y.ptr⟩ pl.2.2
      | none =>
        let r := c.readLanes pl.1 pl.2.2
        match pl.2.1, r.1 with
        | true, some bs => .bytes bs r.2
        | _, _ => .wait .drain (r.2.modGang c.gid fun g => { g with eye := (c.G.eye ++ g.eye).eraseDups })

end Machine
end Sys2Proof
end

