-- ==== Sys2Proof/Machine/Engine.lean ====
section
/-!
DEFINITION. What the copy and matrix engines, remote copies and collectives share: reading and writing memory
sector by sector with their faults (R236, R287), fault records, formats (R279), and canonical tiles (R278).
-/
namespace Sys2Proof

/-- Planes of a precision (R278, R296). -/
def Planes.n : Planes → Nat
  | .p2 => 2
  | .p4 => 4
  | .p7 => 7
namespace Machine

/-! ### Sector accesses of an engine -/

/-- The engine of a core as an agent: core, tenant of a device, team, cache policy, and its mark among the waiters of walks. -/
structure Eng where
  core   : Nat
  dev    : Nat
  tenant : Nat
  tid    : Nat
  pol    : Nat
  who    : Nat
  deriving DecidableEq, Repr
/-- Mark of a transfer among the waiters of walks; lower marks are gangs and the lanes of passes. -/
def xferWaiter (id : Nat) : Nat := id + 2 ^ 66

/-- A transfer in progress: the state; what its pieces came to in earlier attempts and have come to in this one; why it goes no
further, with the holder and sector whose tokens it lacks; its faults, the first one first; the sectors of device memory written;
data that has come to the home for it; and the lines that it has bypassed the L2 with (R206). -/
structure EngRun where
  s      : State
  old    : List Piece := []
  log    : List Piece := []
  stall  : Option Wait := none
  needs  : Option (Nat × Nat) := none
  faults : List EngFault := []
  wrote  : List Nat := []
  feed   : List (Nat × BitVec 512) := []
  byp    : List Nat := []
  deriving DecidableEq, Repr

/-- Scratchpad bytes of a team. -/
def State.scratchSize (s : State) (tid : Nat) : Nat :=
  match s.team? tid with
  | some t => (match s.cohort? t.cohort with | some c => c.scratchBytes | none => 0)
  | none => 0
/-- Device, VA and fabric mark of a translated pointer of an engine (R196). -/
def engTables (dev : Nat) (p : DWord) : Option (Nat × Nat × Bool) :=
  let a := ptrAddr p
  match ptrSpace p with
  | 0 => some (dev, a, false)
  | 3 => some (dev / 32 * 32 + a / 2 ^ 52, a % 2 ^ 52, false)
  | 6 => some (a / 2 ^ 51 * 32 + a / 2 ^ 46 % 32, a % 2 ^ 46, a / 2 ^ 51 ≠ dev / 32)
  | _ => none
/-- Where a piece of a transfer lands, a cause of R287, or a walk to wait for. -/
inductive EngLoc where
  | at_ (l : Loc)
  | flt (cause : Nat)
  | walk
  deriving DecidableEq, Repr
/-- Translates a page for an engine: by a TLB, by the walk it has waited for, or by a walk that it starts or joins (R195, R283). -/
def Eng.page (e : Eng) (s : State) (dev va : Nat) (fab wr : Bool) : EngLoc × State :=
  match s.look e.core e.tenant dev (va / 65536) with
  | .hit x => (if wr && !x.w then .flt 3 else .at_ (.dram dev (x.pa va)), s)
  | .miss =>
    match s.walks.find? fun w => w.die = e.core / 48 && w.tenant = e.tenant && w.dev = dev && w.page = va / 65536 &&
        w.waiters.contains e.who && w.res.isSome with
    | some w => (match w.res with
      | some (.flt k _) => (.flt k, s.dropWaiter w.id e.who)
      | _ => (.walk, s))
    | none => (.walk, (s.startWalk (e.core / 48) e.tenant dev (va / 65536) e.who fab).2)
/-- Where a pointer of a transfer lands, or the cause of R287; `sp` is the space it started in. -/
def Eng.loc (e : Eng) (s : State) (sp : Nat) (wr : Bool) (p : DWord) : EngLoc × State :=
  if ptrSpace p ≠ sp then (.flt 10, s)
  else match ptrCause p (s.scratchSize e.tid) 0 with
    | some 3 => (.flt 11, s)
    | some _ => (.flt 10, s)
    | none =>
      match engTables e.dev p with
      | some (dev, va, fab) => e.page s dev va fab wr
      | none =>
        let t := s.tenant (tenantKey e.dev e.tenant)
        let off := ptrAddr p
        match ptrSpace p with
        | 1 => (.at_ (.scr off), s)
        | 4 => (if off < t.hwsz.toNat then .at_ (.host (e.dev * 2 ^ 64 + t.hwin.toNat + off)) else .flt 7, s)
        | 5 =>
          (if t.pwsz.toNat ≤ off then .flt 7 else if t.fenced then .flt 8
           else .at_ (.pool (t.shelf * 2 ^ 64 + t.pwin.toNat + off)), s)
        | _ => (.flt 10, s)
/-- Whether a sector is accessed at its home and not in the issuing die's slice (R201, R267). -/
def Eng.atHome (e : Eng) (s : State) (p : DWord) (sec : Nat) : Bool :=
  ptrSpace p = 6 || e.pol = 4 || s.hostBias (secDev sec) (secPa sec) ||
  (e.pol = 2 && !s.sliceHas (e.core / 48) sec) || s.bypasses (e.core / 48) (lineOfSec sec)
/-- The line of a sector that an engine's access to it bypasses the L2 for, its set being pinned whole (R206). -/
def Eng.bypassed (e : Eng) (s : State) (p : DWord) (sec : Nat) : Option Nat :=
  if ptrSpace p ≠ 6 && e.pol ≠ 4 && !s.hostBias (secDev sec) (secPa sec) && s.bypasses (e.core / 48) (lineOfSec sec) then
    some (lineOfSec sec)
  else none
/-- Whether an engine's access waits at a home that flips the sector's page or relocks (R268, R419). -/
def Eng.homeWaits (e : Eng) (s : State) (p : DWord) (sec : Nat) : Bool :=
  s.flipping sec || (e.atHome s p sec && s.relocking (partOfUnit (unitOf sec)))
/-- The holder whose tokens an engine's access to a sector needs. -/
def Eng.holder (e : Eng) (s : State) (p : DWord) (sec : Nat) : Nat := if e.atHome s p sec then homeH else holderOfDie (e.core / 48)
/-- Reads a sector at its home (R236, R262): from memory when the home has the owner token, or the data that one token has
brought; otherwise one is asked for. -/
def State.homeSec (s : State) (sec : Nat) (feed : List (Nat × BitVec 512)) : Option (BitVec 512) × State :=
  let r := s.forceAll sec
  if !r.1 then (none, r.2)
  else match feed.find? fun f => f.1 = sec with
    | some f => (some f.2, r.2)
    | none => if (r.2.homeTokOf sec).2 then (some (r.2.memSec sec), r.2) else (none, r.2.request homeH sec false false)
/-- Reads bytes of one sector of device memory: at the home, or through the slice with a token (R236, R239). -/
def Eng.readSec (e : Eng) (s : State) (feed : List (Nat × BitVec 512)) (p : DWord) (dev pa n : Nat) :
    Option (List Byte) × State :=
  let sec := sectorOf dev pa
  let out (d : BitVec 512) : List Byte := toBytes n (secGet d (pa % 64) n)
  if e.atHome s p sec then
    let r := s.homeSec sec feed
    (r.1.map out, r.2)
  else
    let di := e.core / 48
    match feed.find? fun f => f.1 = eyeKey sec (holderOfDie di) with
    | some f => (some (out f.2), s)
    | none =>
    let r := s.shareAsk sec di
    if !r.1 then (none, r.2)
    else (some (out (r.2.holdOf sec (holderOfDie di)).data), if e.pol = 2 then r.2
      else r.2.touchLine di (lineOfSec sec) (e.pol = 1) (e.pol = 3))
/-- Writes bytes of one sector of device memory over the old ones: at the home, or in the slice with every token (R286). All 64 bytes
of a poisoned sector leave POIS set: R190 clears it for the lanes of one ST (DESIGN CHOICE, log 95). -/
def Eng.writeSec (e : Eng) (s : State) (p : DWord) (dev pa : Nat) (mix : List Byte → List Byte) (n : Nat) : Bool × State :=
  let sec := sectorOf dev pa
  let new (d : BitVec 512) : BitVec 512 := secPut d (pa % 64) n (ofBytes (mix (toBytes n (secGet d (pa % 64) n))))
  if e.atHome s p sec then
    match s.gatherHome sec with
    | some s => (true, s.putMemSec sec (new (s.memSec sec)))
    | none => (false, (s.askHost sec).request homeH sec true false)
  else
    let di := e.core / 48
    let h := holderOfDie di
    let r := s.gatherAsk sec di
    if !r.1 then r
    else
      let o := r.2.holdOf sec h
      let s := r.2.setHold sec h { o with data := new o.data, dirty := true }
      (true, if e.pol = 2 then s else s.touchLine di (lineOfSec sec) (e.pol = 1) (e.pol = 3))
/-- Cuts `n` bytes from a pointer at sector bounds. -/
def pieces : Nat → DWord → Nat → List (DWord × Nat)
  | 0, _, _ => []
  | f + 1, p, n =>
    if n = 0 then []
    else
      let k := min n (64 - p.toNat % 64)
      (p, k) :: pieces f (p + BitVec.ofNat 64 k) (n - k)

/-- Records a fault of a transfer. -/
def EngRun.fault (x : EngRun) (cause : Nat) (p : DWord) (side row : Nat) : EngRun :=
  { x with faults := x.faults ++ [⟨cause, p, side, row⟩] }
/-- A piece has come to `r`, in the state `s`; a line that it bypassed the L2 for is counted once (R206). -/
def EngRun.note (x : EngRun) (di : Nat) (s : State) (r : Piece) (line : Option Nat) : EngRun :=
  match line with
  | some l =>
    if x.byp.contains l then { x with s := s, log := x.log ++ [r] }
    else { x with s := s.countBypass di 1, log := x.log ++ [r], byp := l :: x.byp }
  | none => { x with s := s, log := x.log ++ [r] }
/-- The transfer goes no further in this attempt, in the state `s`. -/
def EngRun.halt (x : EngRun) (s : State) (w : Wait) (needs : Option (Nat × Nat)) : EngRun :=
  { x with s := s, stall := some w, needs := needs }
/-- What one attempt at a piece comes to: a piece, in a state, with the line it bypassed the L2 for; or the transfer halted. -/
inductive Tried where
  | came (r : Piece) (s : State) (line : Option Nat := none)
  | halt (x : EngRun)
  deriving DecidableEq, Repr
/-- One read: the piece it comes to, or the transfer halted; a sector whose home flips its page, or relocks, waits (R268, R419). -/
def EngRun.tryRead (x : EngRun) (e : Eng) (sp : Nat) (p : DWord) (n : Nat) : Tried :=
  match e.loc x.s sp false p with
  | (.flt k, s) => .came (.flt k) s
  | (.walk, s) => .halt (x.halt s .walk none)
  | (.at_ l, s) =>
    match l with
    | .scr o => .came (.data (match s.team? e.tid with
        | some t => (readBytes t.scratch o n).map some
        | none => List.replicate n none)) s
    | .host a => .came (if !s.hostUp (a / 2 ^ 64) then .flt 9 else .data ((readBytes s.hostMem a n).map some)) s
    | .pool a => .came (if s.poolBad a then .flt 9 else .data ((readBytes s.poolMem a n).map some)) s
    | .dram dev pa | .priv dev pa =>
      let sec := sectorOf dev pa
      if s.poisonAt dev pa then .came (.flt 9) s
      else if e.homeWaits s p sec then .halt (x.halt s .drain none)
      else
        let r := e.readSec s x.feed p dev pa n
        match r.1 with
        | some bs => .came (.data (bs.map some)) r.2 (e.bypassed s p sec)
        | none => .halt (x.halt r.2 .drain (some (e.holder s p sec, sec)))
/-- One write over the old bytes by `mix`: the piece it comes to, or the transfer halted; a sector homed on a fenced die, or host
memory whose port is down, drops it (R412, R432). -/
def EngRun.tryWrite (x : EngRun) (e : Eng) (sp : Nat) (p : DWord) (n : Nat) (mix : List Byte → List Byte) : Tried :=
  match e.loc x.s sp true p with
  | (.flt k, s) => .came (.flt k) s
  | (.walk, s) => .halt (x.halt s .walk none)
  | (.at_ l, s) =>
    match l with
    | .scr o => .came (.wrote none) (match s.team? e.tid with
        | some t => s.setTeam e.tid { t with scratch := writeBytes t.scratch o (mix (readBytes t.scratch o n)) }
        | none => s)
    | .host a => .came (.wrote none) (if !s.hostUp (a / 2 ^ 64) then s.logError e.dev e.tenant 3 0 p.toNat 0 0
        else { s with hostMem := writeBytes s.hostMem a (mix (readBytes s.hostMem a n)) })
    | .pool a => .came (.wrote none)
        (({ s with poolMem := writeBytes s.poolMem a (mix (readBytes s.poolMem a n)) } : State).poolStored a)
    | .dram dev pa | .priv dev pa =>
      let sec := sectorOf dev pa
      if s.homeFenced sec then .came (.wrote none) (s.logError e.dev e.tenant 3 0 p.toNat 0 0)
      else if e.homeWaits s p sec then .halt (x.halt s .drain none)
      else
        let r := e.writeSec s p dev pa mix n
        if r.1 then .came (.wrote (some sec)) r.2 (e.bypassed s p sec) else .halt (x.halt r.2 .drain (some (e.holder s p sec, sec)))
/-- One piece of a transfer: what it came to in an earlier attempt, or what it comes to now; nothing once the attempt has
stopped. -/
def EngRun.piece (x : EngRun) (di : Nat) (go : EngRun → Tried) : Option Piece × EngRun :=
  if x.stall.isSome then (none, x)
  else match x.old with
    | r :: rest => (some r, { x with old := rest, log := x.log ++ [r] })
    | [] => match go x with
      | .came r s line => (some r, x.note di s r line)
      | .halt y => (none, y)
/-- Reads one piece; bytes of a faulting sector are absent. -/
def EngRun.readPiece (x : EngRun) (e : Eng) (sp side row : Nat) (p : DWord) (n : Nat) : List (Option Byte) × EngRun :=
  match x.piece (e.core / 48) fun x => x.tryRead e sp p n with
  | (some (.data bs), x) => (bs, x)
  | (some (.flt k), x) => (List.replicate n none, x.fault k p side row)
  | (_, x) => (List.replicate n none, x)
/-- Reads `n` bytes at a pointer of a transfer. -/
def EngRun.read (x : EngRun) (e : Eng) (sp side row : Nat) (p : DWord) (n : Nat) : List (Option Byte) × EngRun :=
  (pieces (n / 64 + 2) p n).foldl (fun (acc : List (Option Byte) × EngRun) q =>
    let r := acc.2.readPiece e sp side row q.1 q.2
    (acc.1 ++ r.1, r.2)) ([], x)
/-- Writes one piece; bytes that are absent keep their old value. -/
def EngRun.writePiece (x : EngRun) (e : Eng) (sp side row : Nat) (p : DWord) (bs : List (Option Byte)) : EngRun :=
  match x.piece (e.core / 48) fun x => x.tryWrite e sp p bs.length fun old => (old.zip bs).map fun q => q.2.getD q.1 with
  | (some (.flt k), x) => x.fault k p side row
  | (some (.wrote (some sec)), x) => { x with wrote := sec :: x.wrote }
  | (_, x) => x
/-- Writes bytes at a pointer of a transfer. -/
def EngRun.write (x : EngRun) (e : Eng) (sp side row : Nat) (p : DWord) (bs : List (Option Byte)) : EngRun :=
  ((pieces (bs.length / 64 + 2) p bs.length).foldl (fun (acc : List (Option Byte) × EngRun) q =>
    if (acc.1.take q.2).all Option.isNone then (acc.1.drop q.2, acc.2)
    else (acc.1.drop q.2, acc.2.writePiece e sp side row q.1 (acc.1.take q.2))) (bs, x)).2
/-- Writes known bytes. -/
def EngRun.put (x : EngRun) (e : Eng) (sp side row : Nat) (p : DWord) (bs : List Byte) : EngRun :=
  x.write e sp side row p (bs.map some)

/-! ### Fault records (R287, R346) -/

/-- A group after a transfer with faults: the first since the last clear fills the record; NFLT counts transfers. -/
def Group.record (g : Group) (kind : Nat) (fs : List EngFault) : Group :=
  match fs with
  | [] => g
  | f :: _ =>
    let g := { g with nflt := min (g.nflt + 1) 255 }
    if g.cause ≠ 0 then g
    else { g with row := f.row, kind := kind, side := f.side, cause := f.cause, addr := f.addr }
/-- The information word of a group. -/
def Group.info (g : Group) : Nat := g.nflt * 2 ^ 24 + g.row % 256 * 2 ^ 16 + g.kind * 2 ^ 10 + g.side * 2 ^ 8 + g.cause
/-- The record cleared to its reset value; transfers in flight stay counted. -/
def Group.clear (g : Group) : Group := { inflight := g.inflight }
/-- A group of a gang, copy or remote. -/
def Gang.group (g : Gang) (remote : Bool) (n : Nat) : Group := Store.get {} (if remote then g.rgrps else g.cgrps) n
/-- Changes a group of a gang. -/
def Gang.modGroup (g : Gang) (remote : Bool) (n : Nat) (f : Group → Group) : Gang :=
  if remote then { g with rgrps := Store.upd {} g.rgrps n f } else { g with cgrps := Store.upd {} g.cgrps n f }

/-! ### The range scoreboard (R208, R290, R304) -/

/-- Scoreboard entries in use on a core of a die. -/
def State.boardUsed (s : State) (di core : Nat) : Nat :=
  let on (tid : Nat) : Bool := match s.team? tid with
    | some t => t.die = di && t.cores.contains core
    | none => false
  (s.xfers.filter fun x => on x.team).foldl (fun a x => a + x.board.length) 0 +
    (s.mats.filter fun x => on x.team).foldl (fun a x => a + x.board.length) 0
/-- Whether `n` more entries fit on every member core of a team. -/
def State.boardRoom (s : State) (t : Team) (n : Nat) : Bool := t.cores.all fun k => s.boardUsed t.die k + n ≤ 32
/-- Whether two sets of entries overlap with a write on one side (R290). -/
def boardClash (a b : List Board) : Bool := a.any fun x => b.any fun y => x.lo < y.hi && y.lo < x.hi && (x.wr || y.wr)
/-- Whether an earlier transfer or matrix instruction of the team bars one from its ranges. -/
def State.barred (s : State) (id tid : Nat) (b : List Board) : Bool :=
  (s.xfers.any fun x => x.id < id && x.team = tid && boardClash x.board b) ||
  s.mats.any fun x => x.id < id && x.team = tid && boardClash x.board b

/-! ### Formats (R279, R286) -/

/-- Bits of an element of a format; an SX format gives those of one sixteenth of a block. -/
def elemBits : CFmt → Nat
  | .sx2 => 4
  | .sx4 => 6
  | .sx7 => 9
  | .f32 => 32
  | .f16 | .bf16 => 16
  | .e4m3 | .e5m2 | .raw => 8
  | .e2m1 => 4
/-- The SX format of a copy format. -/
def sxOf : CFmt → Option SxFmt
  | .sx2 => some .sx2
  | .sx4 => some .sx4
  | .sx7 => some .sx7
  | _ => none
/-- The element format of a copy format. -/
def floatOf : CFmt → Option FFmt
  | .f32 => some fmt32
  | .f16 => some fmt16
  | .bf16 => some fmtBf
  | .e4m3 => some fmtE4
  | .e5m2 => some fmtE5
  | .e2m1 => some fmtE2
  | _ => none
/-- The alignment unit of a format in memory (R282). -/
def fmtUnit : CFmt → Nat
  | .f32 | .sx4 => 4
  | .f16 | .bf16 | .sx7 => 2
  | .sx2 => 8
  | _ => 1
/-- Bytes of `n` elements of a format. -/
def fmtBytes (f : CFmt) (n : Nat) : Nat := n * elemBits f / 8
/-- The bytes of an optional byte list when none is absent. -/
def allBytes (bs : List (Option Byte)) : Option (List Byte) :=
  bs.foldr (fun b acc => match b, acc with
    | some b, some l => some (b :: l)
    | _, _ => none) (some [])

/-- A canonical block (R278): exponent, micro-exponents, signs, and 7-bit magnitudes. -/
structure CBlock where
  e    : Nat
  mu   : Nat
  sign : Nat
  mags : List Nat
  deriving DecidableEq, Repr
/-- An SX block as a canonical block (R279); a NaN block has zero in its other units (R278). -/
def cblockOfSx (f : SxFmt) (bs : List Byte) : CBlock :=
  let n := ofBytes bs
  let m := sxBits f
  if n % 256 = 255 then ⟨255, 0, 0, List.replicate 16 0⟩
  else
    let fld (i : Nat) : Nat := n / 2 ^ (16 + (m + 1) * i) % 2 ^ (m + 1)
    ⟨n % 256, n / 256 % 256,
     (List.range 16).foldl (fun a i => if 2 ^ m ≤ fld i then a + 2 ^ i else a) 0,
     (List.range 16).map fun i => fld i % 2 ^ m * 2 ^ (7 - m)⟩
/-- Sixteen values encoded as a canonical block (R279). -/
def cblockOf (rm : Rm) (sat : Bool) (xs : List Fx) : CBlock := cblockOfSx .sx7 (sxEnc .sx7 rm sat xs)
/-- Plane `q` of a block: bit `i` is bit 6 − q of element `i` (R278). -/
def CBlock.plane (b : CBlock) (q : Nat) : Nat :=
  (List.range 16).foldl (fun a i => if (b.mags.getD i 0).testBit (6 - q) then a + 2 ^ i else a) 0
/-- Writes a block into the sections of a tile of `n` blocks at `d` (R278). -/
def EngRun.putBlock (x : EngRun) (e : Eng) (row : Nat) (d : DWord) (n planes k : Nat) (b : CBlock) : EngRun :=
  let at_ (o : Nat) : DWord := d + BitVec.ofNat 64 o
  let x := x.put e 1 1 row (at_ k) (toBytes 1 b.e)
  let x := x.put e 1 1 row (at_ (n + k)) (toBytes 1 b.mu)
  let x := x.put e 1 1 row (at_ (2 * n + 2 * k)) (toBytes 2 b.sign)
  (List.range planes).foldl (fun x q => x.put e 1 1 row (at_ ((4 + 2 * q) * n + 2 * k)) (toBytes 2 (b.plane q))) x
/-- Element `i` of bytes in a float format; E2M1 holds two to a byte (R280). -/
def elemAt (F : FFmt) (bs : List Byte) (i : Nat) : Fx := F.dec (ofBytes bs / 2 ^ (F.width * i) % 2 ^ F.width)

end Machine
end Sys2Proof
end

