-- ==== Sys2Proof/Machine/Copy.lean ====
section
/-!
DEFINITION. Copy engine instructions, major opcodes 0x80–0x84 (R278–R290), and the run of a transfer.
-/
namespace Sys2Proof
namespace Machine

/-! ### Geometry (R280) -/

/-- Rows, block columns and scratchpad pitch of a geometry word. -/
def geoRows (g : Word) : Nat := g.toNat % 128 + 1
def geoKb (g : Word) : Nat := g.toNat / 256 % 64 + 1
def geoSpitch (g : Word) : Nat := g.toNat / 65536
/-- Whether a reserved bit of a geometry word is set. -/
def geoBad (g : Word) : Bool := g.getLsbD 7 || g.getLsbD 14 || g.getLsbD 15
/-- Scratchpad row pitch in bytes with a packed length. -/
def spitchBytes (g : Word) (packed : Nat) : Nat := if geoSpitch g = 0 then packed else geoSpitch g * 16

/-! ### Issue (R282) -/

/-- What the checks of a copy look at: its pointers with the space they must lie in, the bases with their alignment,
a pitch with its unit, the scratchpad ranges with their direction, and the geometry verdict. -/
structure CopyPlan where
  ptrs   : List (DWord × Bool)
  geo    : Bool
  aligns : List (DWord × Nat)
  pitch  : Nat
  unit   : Nat
  ranges : List (DWord × Nat × Bool)
  deriving DecidableEq, Repr

/-- The scoreboard entries of the ranges that lie in space 0x1. -/
def CopyPlan.board (p : CopyPlan) : List Board :=
  (p.ranges.filter fun r => ptrSpace r.1 = 1 && 0 < r.2.1).map fun r =>
    ⟨ptrAddr r.1, ptrAddr r.1 + r.2.1, r.2.2⟩
/-- The first check of R282 that fails: trap code, cause and address. -/
def CopyPlan.fail (p : CopyPlan) (scr priv : Nat) : Option (Nat × Nat × DWord) :=
  let ptr (q : DWord × Bool) : Option (Nat × Nat × DWord) :=
    if ptrSpace q.1 = 2 || (q.2 && ptrSpace q.1 ≠ 1) then some (0x10, 2, q.1)
    else (ptrCause q.1 scr priv).map fun k => (0x10, k, q.1)
  match p.ptrs.findSome? ptr with
  | some f => some f
  | none =>
    if p.geo then some (0x18, 0, 0)
    else match p.aligns.find? fun a => a.1.toNat % a.2 ≠ 0 with
      | some a => some (0x11, 0, a.1)
      | none =>
        if p.pitch % p.unit ≠ 0 then some (0x11, 0, 0)
        else (p.ranges.find? fun r => ptrSpace r.1 = 1 && scr < ptrAddr r.1 + r.2.1).map fun r => (0x10, 3, r.1)
/-- Issues a transfer: the checks, the wait for a queue slot and scoreboard entries, and its record (R282). -/
def Ctx.issueCopy (c : Ctx) (p : CopyPlan) (grp : Nat) (ends : Bool) (mk : Nat → Xfer) (s : State)
    (remote : Bool := false) : Res :=
  match p.fail c.C.scratchBytes c.C.lr.privsz with
  | some (code, cause, addr) => c.trapAt code cause addr s
  | none =>
    if 64 ≤ (s.xfers.filter fun x => x.core = c.core).length then .wait .queue s
    else if !s.boardRoom c.T p.board.length then .wait .board s
    else
      let (id, s) := s.newId
      let x := mk id
      let s := { s with xfers := s.xfers ++ [{ x with group := grp, board := p.board }] }
      let s := s.modGang c.gid fun g => g.modGroup remote grp fun r => { r with inflight := r.inflight + 1 }
      .done (if ends then c.endRegion s else s)
/-- A transfer of the issuing gang with its operands; each pointer has its own effective policy (R201). -/
def Ctx.xfer (c : Ctx) (k : XKind) (src dst : DWord) (geo geo1 : Word) (ci vals : DWord) (pol : PolOv) (id : Nat) : Xfer :=
  { id := id, gang := c.gid, team := c.tid, core := c.core, die := c.die, tenant := c.tenant, group := 0,
    kind := k, src := src, dst := dst, geo := geo, geo1 := geo1, ci := ci, vals := vals, pol := policyOf src pol,
    dpol := policyOf dst pol, ipol := policyOf ci pol, vpol := policyOf vals pol, board := [], begun := false, done := false }

/-- The plan of CPY. -/
def cpyPlan (f : CFmt) (p : Planes) (tr : Bool) (src dst : DWord) (geo pitch : Word) : CopyPlan :=
  let r := geoRows geo
  let kb := geoKb geo
  let raw : Bool := f = .raw
  let n := r * kb
  let rows := if tr then 16 * kb else r
  let rowLen := if tr then fmtBytes f r + (if f = .e2m1 && r % 2 = 1 then 1 else 0) else fmtBytes f (16 * kb)
  let dlen := if raw then (r - 1) * spitchBytes geo (16 * kb) + 16 * kb else (4 + 2 * p.n) * n
  { ptrs := [(src, false), (dst, true)],
    geo := geoBad geo || (if raw then spitchBytes geo (16 * kb) < 16 * kb else geoSpitch geo ≠ 0),
    aligns := [(src, fmtUnit f), (dst, if raw then 16 else 128)], pitch := pitch.toNat, unit := fmtUnit f,
    ranges := [(src, (rows - 1) * pitch.toNat + rowLen, false), (dst, dlen, true)] }
/-- CPY (R282, R284). -/
def execCpy (g : Guard) (f : CFmt) (p : Planes) (tr : Bool) (rm : Rm) (sat : Bool) (grp : BitVec 4)
    (src dst geo : Src) (off : Word) (pol : PolOv) (s : State) : Out :=
  issue (.cpy g f p tr rm sat grp src dst geo off pol) s fun c s =>
    let a := c.kaddr src (off.signExtend 64)
    let d := c.r.ks2 dst
    let g0 := c.r.k geo.reg.toNat
    let g1 := c.r.k (geo.reg.toNat + 1)
    c.issueCopy (cpyPlan f p tr a d g0 g1) grp.toNat false (c.xfer (.cpy f p tr rm sat) a d g0 g1 0 0 pol) s

/-- The range of an array that only row pointers bound: from its base to the end of the team's scratchpad, once the base lies in
it (log 77). -/
def arrayRange (scr : Nat) (p : DWord) : DWord × Nat × Bool := (p, scr - ptrAddr p, false)
/-- The plan of CPYG for a team of `scr` bytes of scratchpad. -/
def cpygPlan (scr : Nat) (f : CFmt) (rp ci vals dst : DWord) (geo : Word) : CopyPlan :=
  { ptrs := [(rp, false), (ci, false), (vals, false), (dst, true)],
    geo := geoBad geo || geoSpitch geo ≠ 0,
    aligns := [(rp, 4), (ci, 4), (vals, fmtUnit f), (dst, 128)], pitch := 0, unit := 1,
    ranges := [(rp, 4 * (geoRows geo + 1), false), (dst, 18 * geoRows geo * geoKb geo, true), arrayRange scr ci,
               arrayRange scr vals] }
/-- CPYG (R282, R285). -/
def execCpyg (g : Guard) (f : CFmt) (rm : Rm) (sat : Bool) (grp : BitVec 4) (src dst geo : Src) (pol : PolOv)
    (s : State) : Out :=
  issue (.cpyg g f rm sat grp src dst geo pol) s fun c s =>
    let n := src.reg.toNat
    let rp := c.r.k2 n
    let ci := c.r.k2 (n + 2)
    let vals := c.r.k2 (n + 4)
    let d := c.r.ks2 dst
    let g0 := c.r.k geo.reg.toNat
    let g1 := c.r.k (geo.reg.toNat + 1)
    c.issueCopy (cpygPlan c.C.scratchBytes f rp ci vals d g0) grp.toNat false (c.xfer (.cpyg f rm sat) rp d g0 g1 ci vals pol) s

/-- Packed bytes of a scratchpad row of CPYS. -/
def cpysPacked (f : CFmt) (kb : Nat) : Nat := if f = .raw then 16 * kb else 64 * kb
/-- The plan of CPYS. -/
def cpysPlan (f : CFmt) (src dst : DWord) (geo pitch : Word) : CopyPlan :=
  let r := geoRows geo
  let kb := geoKb geo
  let pk := cpysPacked f kb
  { ptrs := [(src, true), (dst, false)],
    geo := geoBad geo || spitchBytes geo pk < pk,
    aligns := [(src, 16), (dst, if ptrSpace dst = 1 then 16 else fmtUnit f)], pitch := pitch.toNat, unit := fmtUnit f,
    ranges := [(src, (r - 1) * spitchBytes geo pk + pk, false),
               (dst, (r - 1) * pitch.toNat + fmtBytes f (16 * kb), true)] }
/-- CPYS (R282, R286). -/
def execCpys (g : Guard) (f : CFmt) (rm : Rm) (sat : Bool) (grp : BitVec 4) (src dst geo : Src) (off : Word)
    (pol : PolOv) (s : State) : Out :=
  issue (.cpys g f rm sat grp src dst geo off pol) s fun c s =>
    let a := c.r.ks2 src
    let d := c.kaddr dst (off.signExtend 64)
    let g0 := c.r.k geo.reg.toNat
    let g1 := c.r.k (geo.reg.toNat + 1)
    c.issueCopy (cpysPlan f a d g0 g1) grp.toNat (ptrSpace d ≠ 1) (c.xfer (.cpys f rm sat) a d g0 g1 0 0 pol) s

/-! ### CPYW and CPYQ (R288, R289) -/

/-- The groups of a gang that satisfy a predicate, as a mask. -/
def groupMask (n : Nat) (p : Nat → Bool) : Nat := (List.range n).foldl (fun a i => if p i then a + 2 ^ i else a) 0
/-- Waits for groups and reports their faults (R288, R346). -/
def Ctx.waitGroups (c : Ctx) (remote quiet info : Bool) (n code : Nat) (d : RegNum) (mask : Nat) (s : State) : Res :=
  let grp (i : Nat) : Group := c.G.group remote i
  if (List.range n).any fun i => mask.testBit i && (grp i).inflight ≠ 0 then .wait .answer s
  else
    let fm := groupMask n fun i => mask.testBit i && (grp i).cause ≠ 0
    if fm ≠ 0 && !quiet then c.trap code (((List.range n).find? fun i => fm.testBit i).getD 0) s
    else if info then
      c.putK s d (BitVec.ofNat 32 (((List.range n).find? fun i => fm.testBit i).elim 0 fun i => (grp i).info))
    else c.putK s d (BitVec.ofNat 32 fm)
/-- CPYW (R288). -/
def execCpyw (g : Guard) (q : Bool) (d : RegNum) (mask : SrcI) (s : State) : Out :=
  issue (.cpyw g q d mask) s fun c s =>
    let m := (c.r.ksI mask).toNat
    if 0xFFFF < m then c.trap 0x18 0 s else c.waitGroups false q false 16 0x19 d m s
/-- CPYQ, `.clr` apart (R289). -/
def execCpyq (g : Guard) (op : CpyQ) (d : RegNum) (a : SrcI) (s : State) : Out :=
  issue (.cpyq g op d a) s fun c s =>
    let n := (c.r.ksI a).toNat
    let grp := c.G.group false
    if 15 < n then c.trap 0x18 0 s
    else match op with
      | .busy => c.putK s d (BitVec.ofNat 32 (groupMask 16 fun i => (grp i).inflight ≠ 0))
      | .flt => c.putK s d (BitVec.ofNat 32 (groupMask 16 fun i => (grp i).cause ≠ 0))
      | .addr => c.putK2 s d (grp n).addr
      | .info => c.putK s d (BitVec.ofNat 32 (grp n).info)
      | .sbfree => c.putK s d (BitVec.ofNat 32 (32 - s.boardUsed c.die c.G.core))
/-- CPYQ `.clr` (R289). -/
def execCpyqClr (g : Guard) (d : RegNum) (a : SrcI) (s : State) : Out :=
  issue (.cpyqClr g d a) s fun c s =>
    let n := (c.r.ksI a).toNat
    if 15 < n then c.trap 0x18 0 s
    else c.putK (s.modGang c.gid fun g => g.modGroup false n Group.clear) d (BitVec.ofNat 32 (c.G.group false n).info)

/-! ### The run of a transfer (R284–R286) -/

/-- One block of a CPY as its source has it; `none` when a byte of it faulted. -/
def EngRun.cpyBlock (x : EngRun) (e : Eng) (q : Xfer) (f : CFmt) (tr : Bool) (rm : Rm) (sat : Bool) (r b : Nat) :
    Option CBlock × EngRun :=
  let sp := ptrSpace q.src
  let pitch := q.geo1.toNat
  match sxOf f, floatOf f with
  | some sx, _ =>
    let y := x.read e sp 0 r (q.src + BitVec.ofNat 64 (r * pitch + b * sxBytes sx)) (sxBytes sx)
    ((allBytes y.1).map (cblockOfSx sx), y.2)
  | none, some F =>
    if tr then
      let y := (List.range 16).foldl (fun (acc : List (Option Fx) × EngRun) i =>
        let row := 16 * b + i
        let at_ := F.width * r / 8
        let z := acc.2.read e sp 0 row (q.src + BitVec.ofNat 64 (row * pitch + at_)) ((F.width + 7) / 8)
        (acc.1 ++ [(allBytes z.1).map fun bs => F.dec (ofBytes bs / 2 ^ (F.width * r % 8) % 2 ^ F.width)], z.2)) ([], x)
      if y.1.all Option.isSome then (some (cblockOf rm sat (y.1.filterMap id)), y.2) else (none, y.2)
    else
      let n := fmtBytes f 16
      let y := x.read e sp 0 r (q.src + BitVec.ofNat 64 (r * pitch + b * n)) n
      ((allBytes y.1).map fun bs => cblockOf rm sat ((List.range 16).map (elemAt F bs)), y.2)
  | none, none => (none, x)
/-- CPY (R284). -/
def EngRun.cpy (x : EngRun) (e : Eng) (q : Xfer) (f : CFmt) (p : Planes) (tr : Bool) (rm : Rm) (sat : Bool) : EngRun :=
  let r := geoRows q.geo
  let kb := geoKb q.geo
  if f = .raw then
    (List.range r).foldl (fun x i =>
      let y := x.read e (ptrSpace q.src) 0 i (q.src + BitVec.ofNat 64 (i * q.geo1.toNat)) (16 * kb)
      y.2.write e 1 1 i (q.dst + BitVec.ofNat 64 (i * spitchBytes q.geo (16 * kb))) y.1) x
  else
    (List.range r).foldl (fun x i => (List.range kb).foldl (fun x b =>
      let y := x.cpyBlock e q f tr rm sat i b
      match y.1 with
      | some blk => y.2.putBlock e i q.dst (r * kb) p.n (i * kb + b) blk
      | none => y.2) x) x
/-- Reads a 32-bit word of an index array. -/
def EngRun.word (x : EngRun) (e : Eng) (row : Nat) (base : DWord) (i : Nat) : Option Nat × EngRun :=
  let y := x.read e (ptrSpace base) 2 row (base + BitVec.ofNat 64 (4 * i)) 4
  ((allBytes y.1).map ofBytes, y.2)
/-- One row of CPYG between the elements `lo` and `hi` of RP: its values, or `none` when a read of it faulted (R285). The spec does
not say which pointer and side the record holds for a decreasing row pointer: the model takes the address of RP[r] and side 2
(DESIGN CHOICE, log 72). -/
def EngRun.csrRow (x : EngRun) (e : Eng) (q : Xfer) (f : CFmt) (k r : Nat) (lo hi : Option Nat) : Option (Store Nat) × EngRun :=
  match lo, hi, floatOf f with
  | some a, some b, some F =>
    if b < a then (some [], x.fault 12 (q.src + BitVec.ofNat 64 (4 * r)) 2 r)
    else (List.range (b - a)).foldl (fun (acc : Option (Store Nat) × EngRun) i =>
      let j := acc.2.word { e with pol := q.ipol } r q.ci (a + i)
      let at_ := F.width * (a + i)
      let v := j.2.read { e with pol := q.vpol } (ptrSpace q.vals) 0 r (q.vals + BitVec.ofNat 64 (at_ / 8)) ((F.width + 7) / 8)
      match acc.1, j.1, allBytes v.1 with
      | some m, some col, some bs =>
        let c := (col + 2 ^ 32 - q.geo1.toNat) % 2 ^ 32
        let w := fmt32.rnd .rne false (F.dec (ofBytes bs / 2 ^ (at_ % 8) % 2 ^ F.width))
        (some (if c < k then Store.insert m c w else m), v.2)
      | _, _, _ => (none, v.2)) (some [], x)
  | _, _, _ => (none, x)
/-- CPYG: each element of RP is read once, as the end of one row and the start of the next (R285). -/
def EngRun.cpyg (x : EngRun) (e : Eng) (q : Xfer) (f : CFmt) (rm : Rm) (sat : Bool) : EngRun :=
  let r := geoRows q.geo
  let kb := geoKb q.geo
  ((List.range r).foldl (fun (acc : Option Nat × EngRun) i =>
    let hi := acc.2.word e i q.src (i + 1)
    let y := hi.2.csrRow e q f (16 * kb) i acc.1 hi.1
    (hi.1, match y.1 with
    | none => y.2
    | some m => (List.range kb).foldl (fun x b =>
        x.putBlock e i q.dst (r * kb) 7 (i * kb + b) (cblockOf rm sat ((List.range 16).map fun j =>
          fmt32.dec (Store.get 0 m (16 * b + j))))) y.2)) (x.word e 0 q.src 0)).2
/-- The bytes of one destination row of CPYS from its scratchpad row (R286). -/
def cpysRow (f : CFmt) (rm : Rm) (sat : Bool) (kb : Nat) (bs : List Byte) : List Byte :=
  let x (i : Nat) : Fx := fmt32.dec (ofBytes ((bs.drop (4 * i)).take 4))
  match sxOf f, floatOf f with
  | some sx, _ => (List.range kb).flatMap fun b => sxEnc sx rm sat ((List.range 16).map fun i => x (16 * b + i))
  | none, some F =>
    if f = .f32 then bs
    else toBytes (fmtBytes f (16 * kb)) ((List.range (16 * kb)).foldl (fun a i => a + F.rnd rm sat (x i) * 2 ^ (F.width * i)) 0)
  | none, none => bs
/-- CPYS (R286). -/
def EngRun.cpys (x : EngRun) (e : Eng) (q : Xfer) (f : CFmt) (rm : Rm) (sat : Bool) : EngRun :=
  let kb := geoKb q.geo
  let pk := cpysPacked f kb
  (List.range (geoRows q.geo)).foldl (fun x i =>
    let y := x.read e 1 0 i (q.src + BitVec.ofNat 64 (i * spitchBytes q.geo pk)) pk
    match allBytes y.1 with
    | some bs => y.2.put { e with pol := q.dpol } (ptrSpace q.dst) 1 i (q.dst + BitVec.ofNat 64 (i * q.geo1.toNat)) (cpysRow f rm sat kb bs)
    | none => y.2) x

end Machine
end Sys2Proof
end

