-- ==== Sys2Proof/Machine/Matrix.lean ====
section
/-!
DEFINITION. Matrix instructions, major opcodes 0x88–0x8D (R293–R310), and what the matrix engine computes.
-/
namespace Sys2Proof
namespace Machine

/-! ### Issue (R302–R304) -/

/-- Key of the core whose engine runs a team's matrix instructions: member core 0 (R303, R359). -/
def Team.matCore (t : Team) : Nat := coreKey t.die (t.cores.headD 0)
/-- Bytes of the A operand of one step that the engine reads (R295, R296). -/
def aBytes (p : Planes) (sparse : Bool) : Nat := (4 + 2 * p.n) * (if sparse then 256 else 512)
/-- Bytes of the B operand of one step (R295). -/
def bBytes : Nat := 18 * 512
/-- Pointer of step `t` of a loop with an increment in 128-byte units (R301). -/
def stepPtr (base : DWord) (inc : BitVec 16) (t : Nat) : DWord :=
  base + inc.signExtend 64 * BitVec.ofNat 64 (128 * t)
/-- The first and last byte offsets of a list of ranges of `n` bytes. -/
def spanOf (ps : List DWord) (n : Nat) (wr : Bool) : Board :=
  ps.foldl (fun b p => ⟨min b.lo (ptrAddr p), max b.hi (ptrAddr p + n), wr⟩) ⟨ptrAddr (ps.headD 0), 0, wr⟩
/-- Whether a range of a pointer lies in the team's scratchpad. -/
def inScratch (scr : Nat) (p : DWord) (n : Nat) : Bool := ptrSpace p = 1 && ptrAddr p + n ≤ scr

/-- What the checks of a matrix instruction look at: pointers, bases with their alignment, and ranges (R302). -/
structure MatPlan where
  ptrs   : List DWord
  aligns : List (DWord × Nat)
  ranges : List (DWord × Nat)
  board  : List Board
  deriving DecidableEq, Repr
/-- The first check of R302 that fails: trap code, cause and address. -/
def MatPlan.fail (p : MatPlan) (scr priv : Nat) : Option (Nat × Nat × DWord) :=
  match p.ptrs.findSome? fun q => if ptrSpace q ≠ 1 then some (0x10, 2, q)
      else (ptrCause q scr priv).map fun k => (0x10, k, q) with
  | some f => some f
  | none =>
    match p.aligns.find? fun a => a.1.toNat % a.2 ≠ 0 with
    | some a => some (0x11, 0, a.1)
    | none => (p.ranges.find? fun r => !inScratch scr r.1 r.2).map fun r => (0x10, 3, r.1)
/-- Issues a matrix instruction: the checks, the wait for a queue slot and scoreboard entries, and its queue entry. -/
def Ctx.issueMat (c : Ctx) (p : MatPlan) (op : MatOp) (s : State) : Res :=
  match p.fail c.C.scratchBytes c.C.lr.privsz with
  | some (code, cause, addr) => c.trapAt code cause addr s
  | none =>
    let ck := c.T.matCore
    if 16 ≤ (s.mats.filter fun m => m.core = ck).length then .wait .queue s
    else if !s.boardRoom c.T p.board.length then .wait .board s
    else
      let (id, s) := s.newId
      .done { s with mats := s.mats ++ [⟨id, c.gid, c.tid, ck, op, p.board, false⟩] }

/-- The plan of MMA and MLOOP over `count` steps. -/
def mmaPlan (p : Planes) (sparse : Bool) (pa pb : DWord) (incA incB : BitVec 16) (count : Nat) : MatPlan :=
  let as := (List.range count).map (stepPtr pa incA)
  let bs := (List.range count).map (stepPtr pb incB)
  { ptrs := [pa, pb], aligns := [(pa, 128), (pb, 128)],
    ranges := as.map (fun x => (x, aBytes p sparse)) ++ bs.map fun x => (x, bBytes),
    board := [spanOf as (aBytes p sparse) false, spanOf bs bBytes false] }
/-- The seed and first group of a sparsity pair (R298). -/
def Ctx.sparsity (c : Ctx) (sp : Option Src) : Option (Word × Word) :=
  sp.map fun k => (c.r.k k.reg.toNat, c.r.k (k.reg.toNat + 1))
/-- MMA (R301). -/
def execMma (g : Guard) (p : Planes) (a : TileNum) (pa pb : Src) (sp : Option Src) (s : State) : Out :=
  issue (.mma g p a pa pb sp) s fun c s =>
    let x := c.r.ks2 pa
    let y := c.r.ks2 pb
    c.issueMat (mmaPlan p sp.isSome x y 0 0 1) (.mma p a.toNat x y (c.sparsity sp) 1 0 0 1) s
/-- MLOOP (R301). -/
def execMloop (g : Guard) (p : Planes) (a : TileNum) (pa pb : Src) (sp : Option Src) (q1 : BitVec 6)
    (incA incB : BitVec 16) (cnt1 : BitVec 16) (s : State) : Out :=
  issue (.mloop g p a pa pb sp q1 incA incB cnt1) s fun c s =>
    let x := c.r.ks2 pa
    let y := c.r.ks2 pb
    let n := cnt1.toNat + 1
    c.issueMat (mmaPlan p sp.isSome x y incA incB n)
      (.mma p a.toNat x y (c.sparsity sp) (q1.toNat + 1) incA incB n) s
/-- ACZ (R305). -/
def execAcz (g : Guard) (a : TileNum) (cnt1 : BitVec 6) (s : State) : Out :=
  issue (.acz g a cnt1) s fun c s => c.issueMat ⟨[], [], [], []⟩ (.acz a.toNat (cnt1.toNat + 1)) s
/-- Row pitch in bytes of ACLD and ACDR (R305). -/
def tilePitch (pitch : BitVec 16) : Nat := if pitch = 0 then 512 else 16 * pitch.toNat
/-- ACLD (R305). -/
def execAcld (g : Guard) (a : TileNum) (src : Src) (off : Word) (pitch : BitVec 16) (s : State) : Out :=
  issue (.acld g a src off pitch) s fun c s =>
    let p := c.kaddr src (off.signExtend 64)
    let n := 127 * tilePitch pitch + 512
    c.issueMat ⟨[p], [(p, 16)], [(p, n)], [spanOf [p] n false]⟩ (.acld a.toNat p (tilePitch pitch)) s
/-- ACDR (R306). -/
def execAcdr (g : Guard) (a : TileNum) (v : Src) (mom norm : Option Src) (z fresh nodata : Bool) (off : Word)
    (pitch : BitVec 16) (s : State) : Out :=
  issue (.acdr g a v mom norm z fresh nodata off pitch) s fun c s =>
    let p := c.kaddr v (off.signExtend 64)
    let n := 127 * tilePitch pitch + 512
    let m := mom.map c.r.ks2
    let ranges := (if nodata then [] else [(p, n)]) ++ (m.map fun x => (x, 2048)).toList
    c.issueMat ⟨p :: m.toList, (p, 16) :: (m.map fun x => (x, 16)).toList, ranges,
        ranges.map fun r => spanOf [r.1] r.2 true⟩
      (.acdr a.toNat p m (norm.map c.r.ks) z fresh nodata (tilePitch pitch)) s
/-- MWAIT (R308). -/
def execMwait (g : Guard) (d : RegNum) (n : SrcI) (s : State) : Out :=
  issue (.mwait g d n) s fun c s =>
    let k := (s.mats.filter fun m => m.gang = c.gid).length
    if (c.r.ksI n).toNat < k then .wait .answer s else c.putK s d (BitVec.ofNat 32 k)

/-! ### One step (R295–R299) -/

/-- The bytes of a step tile of `n` blocks as the engine reads them. -/
structure StepTile where
  n  : Nat
  bs : Array Byte
  deriving DecidableEq, Repr
/-- Byte `i` of a step tile. -/
def StepTile.byte (t : StepTile) (i : Nat) : Nat := (t.bs.getD i 0).toNat
/-- A 16-bit unit of a step tile. -/
def StepTile.half (t : StepTile) (i : Nat) : Nat := t.byte i + 256 * t.byte (i + 1)
/-- Exponent of block `x`. -/
def StepTile.exp (t : StepTile) (x : Nat) : Nat := t.byte x
/-- Micro-exponent of element `i` of block `x`. -/
def StepTile.mu (t : StepTile) (x i : Nat) : Nat := t.byte (t.n + x) / 2 ^ (i / 2) % 2
/-- Sign and 7-bit magnitude of element `i` of block `x` from planes 0 to `planes` − 1 (R296). -/
def StepTile.elem (t : StepTile) (planes x i : Nat) : Int :=
  let m := (List.range planes).foldl (fun a q =>
    if (t.half ((4 + 2 * q) * t.n + 2 * x)).testBit i then a + 2 ^ (6 - q) else a) 0
  if (t.half (2 * t.n + 2 * x)).testBit i then -(m : Int) else m

/-- The hash of R298: two rounds of shifts. -/
def sparseRound (x : Word) : Word :=
  let x := x ^^^ (x <<< 13)
  let x := x ^^^ (x >>> 17)
  x ^^^ (x <<< 5)
/-- The kept positions of absolute group `G` in A row `i`, within their group (R298). -/
def keptPair (seed : Word) (i G : Nat) : Nat × Nat :=
  let x := seed ^^^ BitVec.ofNat 32 (i * 0x9E3779B9) ^^^ BitVec.ofNat 32 (G * 0x85EBCA6B)
  let x := sparseRound (sparseRound (if x = 0 then 1 else x))
  match x.toNat / 65536 * 6 / 65536 with
  | 0 => (0, 1)
  | 1 => (0, 2)
  | 2 => (0, 3)
  | 3 => (1, 2)
  | 4 => (1, 3)
  | _ => (2, 3)
/-- K position that element `e` of A block `b` of row `i` stands for, with the sparsity of the step (R297, R299). -/
def kPos (sp : Option (Word × Word)) (i b e : Nat) : Nat :=
  match sp with
  | none => 16 * b + e
  | some (seed, g0) =>
    let g := 8 * b + e / 2
    let k := keptPair seed i ((g0.toNat + g) % 2 ^ 32)
    4 * g + (if e % 2 = 0 then k.1 else k.2)
/-- Blocks of a row of A. -/
def aBlocks (sp : Option (Word × Word)) : Nat := if sp.isSome then 2 else 4
/-- The block sum v of R299, exact, as a multiple of 2^−268. -/
def blockSum (planes : Nat) (sp : Option (Word × Word)) (A B : StepTile) (i j b : Nat) : Fx :=
  let x := aBlocks sp * i + b
  let ps := (List.range 16).map fun e => (e, kPos sp i b e)
  if A.exp x = 255 || ps.any fun p => B.exp (4 * j + p.2 / 16) = 255 then .nan
  else
    let v : Int := ps.foldl (fun a p =>
      let y := 4 * j + p.2 / 16
      let k := p.2 % 16
      a + A.elem planes x p.1 * B.elem 7 y k *
        ((2 ^ (A.exp x + B.exp y + 2 - A.mu x p.1 - B.mu y k) : Nat) : Int)) 0
    .fin (v < 0) v.natAbs (2 ^ 268)
/-- The running sum of element (i, j) over the blocks of one step (R300). -/
def stepSum (planes : Nat) (sp : Option (Word × Word)) (A B : StepTile) (i j : Nat) (s : Fx) : Fx :=
  (List.range (aBlocks sp)).foldl (fun s b => rne26 (Fx.add .rne s (blockSum planes sp A B i j b))) s
/-- Promotion of a running sum into a tile element (R300). -/
def promoteSum (a : Word) (s : Fx) : Word := r32 .rne (Fx.add .rne (f32 a) s)

/-! ### What the engine does with an entry (R300, R305, R306) -/

/-- Key of a tile element. -/
def tileKey (t i j : Nat) : Nat := t * 16384 + i * 128 + j
/-- An element of a team's tile. -/
def Team.tile (t : Team) (n i j : Nat) : Word := Store.get 0 t.tiles (tileKey n i j)
/-- Writes every element of a tile. -/
def Team.setTile (t : Team) (n : Nat) (f : Nat → Nat → Word) : Team :=
  { t with tiles := (List.range 128).foldl (fun m i => (List.range 128).foldl
      (fun m j => Store.set 0 m (tileKey n i j) (f i j)) m) t.tiles }
/-- Reads a step tile from the scratchpad: its newest bytes, though without XFENCE older ones may be read (R236, R309; DESIGN CHOICE,
log 96). -/
def Team.stepTile (t : Team) (n : Nat) (p : DWord) (len : Nat) : StepTile :=
  ⟨n, (readBytes t.scratch (ptrAddr p) len).toArray⟩
/-- Advances a sparsity pair by `t` steps (R298). -/
def advSp (sp : Option (Word × Word)) (t : Nat) : Option (Word × Word) :=
  sp.map fun x => (x.1, x.2 + BitVec.ofNat 32 (16 * t))
/-- The steps of one promotion interval and the promotion (R300): `n` steps from the given pointers. -/
def Team.interval (t : Team) (p : Planes) (tile : Nat) (pa pb : DWord) (sp : Option (Word × Word))
    (incA incB : BitVec 16) (n : Nat) : Team :=
  let nb := 128 * aBlocks sp
  let steps := (List.range n).map fun k =>
    (t.stepTile nb (stepPtr pa incA k) (aBytes p sp.isSome), t.stepTile 512 (stepPtr pb incB k) bBytes, advSp sp k)
  t.setTile tile fun i j =>
    promoteSum (t.tile tile i j) (steps.foldl (fun s x => stepSum p.n x.2.2 x.1 x.2.1 i j s) (.fin false 0 1))
/-- Runs an MMA or MLOOP to its next promotion: the team, and what is left of the operation. -/
def Team.mmaRun (t : Team) (p : Planes) (tile : Nat) (pa pb : DWord) (sp : Option (Word × Word)) (q : Nat)
    (incA incB : BitVec 16) (count : Nat) : Team × MatOp :=
  let n := min q count
  (t.interval p tile pa pb sp incA incB n,
   .mma p tile (stepPtr pa incA n) (stepPtr pb incB n) (advSp sp n) q incA incB (count - n))

/-- The merged triple of a drained row (R306). -/
def drainTriple (t : Team) (tile i : Nat) (fresh : Bool) (mp : DWord) : Trip :=
  let old := if fresh then Trip.none
    else Trip.ofBits (BitVec.ofNat 128 (ofBytes (readBytes t.scratch (ptrAddr mp + 16 * i) 16) % 2 ^ 102))
  let row := (tree mrg 7 ((List.range 128).map fun j => leaf 0x3F800000 (t.tile tile i j))).headD Trip.none
  mrg old row
/-- One row of ACDR (R306). -/
def drainRow (tile : Nat) (v : DWord) (mom : Option DWord) (norm : Option Word) (z nodata fresh : Bool) (pitch : Nat)
    (t : Team) (i : Nat) : Team :=
  let xs := (List.range 128).map fun j => t.tile tile i j
  let tr := mom.map fun mp => (mp, drainTriple t tile i fresh mp)
  let t1 := match tr with
    | some (mp, y) => { t with scratch := writeBytes t.scratch (ptrAddr mp + 16 * i) (toBytes 16 (y.toBits.toNat % 2 ^ 102)) }
    | none => t
  let ys := xs.map fun x => match norm, tr with
    | some eps, some (_, y) => y.normalise x eps
    | _, _ => x
  let t2 := if nodata then t1
    else { t1 with scratch := writeBytes t1.scratch (ptrAddr v + i * pitch) (ys.flatMap fun y => toBytes 4 y.toNat) }
  if z then { t2 with tiles := (List.range 128).foldl (fun m j => Store.set 0 m (tileKey tile i j) 0) t2.tiles } else t2

/-- Whether an operation has no step left after it. -/
def MatOp.finished : MatOp → Bool
  | .mma _ _ _ _ _ _ _ _ n => n = 0
  | _ => true
/-- What an entry does when the engine begins or goes on with it: to the next promotion for an MLOOP, whole
otherwise (R300, R305, R306). -/
def Team.matRun (t : Team) : MatOp → Team × MatOp
  | .mma p tile pa pb sp q incA incB n => t.mmaRun p tile pa pb sp q incA incB n
  | .acz tile n => ((List.range n).foldl (fun t k => t.setTile (tile + k) fun _ _ => 0) t, .acz tile n)
  | .acld tile src pitch =>
    (t.setTile tile fun i j => BitVec.ofNat 32 (ofBytes (readBytes t.scratch (ptrAddr src + i * pitch + 4 * j) 4)),
     .acld tile src pitch)
  | .acdr tile v mom norm z fresh nodata pitch =>
    ((List.range 128).foldl (drainRow tile v mom norm z nodata fresh pitch) t,
     .acdr tile v mom norm z fresh nodata pitch)

/-! ### A stop in the middle of an MLOOP (R310) -/

/-- The accumulator tiles that a matrix operation reads or writes (R301, R305, R306). -/
def MatOp.tiles : MatOp → List Nat
  | .mma _ tile .. | .acld tile .. | .acdr tile .. => [tile]
  | .acz tile count => (List.range count).map (tile + ·)
/-- Whether a matrix operation is an MLOOP of more than one promotion (R300). -/
def MatOp.loops : MatOp → Bool
  | .mma _ _ _ _ _ q _ _ count => q < count
  | _ => false
/-- Whether the rest of an MLOOP bars an entry of the team's: the same tile, whose order is that of the queue (R303), a scratchpad
range (R208), or another MLOOP of more than one promotion, since an image holds one remainder (DESIGN CHOICE, log 78). -/
def MatEnt.bars (m x : MatEnt) : Bool :=
  x.id ≠ m.id && x.team = m.team && (x.op.loops || x.op.tiles.any m.op.tiles.contains || boardClash m.board x.board)
/-- Whether an MLOOP of a stopping team has stopped at its promotion, to be saved as its remainder (R310): the work that it does
not bar goes on behind it. -/
def State.matLeft (s : State) (m : MatEnt) (t : Team) : Bool :=
  t.state = .stopping && m.begun && !m.op.finished && !(s.mats.any m.bars) &&
  !(s.xfers.any fun x => x.team = m.team && m.id < x.id && boardClash m.board x.board)

end Machine
end Sys2Proof
end

