-- ==== Sys2Proof/Machine/Sync.lean ====
section
/-!
DEFINITION. Barriers, stage rings and full/empty marks, major opcodes 0x90–0x99 (R312–R320), and the taking up of
remote stores by a team (R323).
-/
namespace Sys2Proof
namespace Machine

/-- Whether the scope .team is wider than the L1's reach. -/
def Ctx.teamWide (c : Ctx) : Bool := c.C.lr.ncores ≠ 1

/-! ### Barriers (R314–R316) -/

/-- Whether the issuing gang is a member of a circle. -/
def Ctx.inCircle (c : Ctx) (n : Nat) : Bool := (c.C.circleMembers n).contains (c.T.tidx, c.G.idx)
/-- Whether a circle has members outside the team (R316). -/
def Ctx.circleOut (c : Ctx) (n : Nat) : Bool := (c.C.circleMembers n).any fun m => m.1 ≠ c.T.tidx
/-- Whether the scope of a circle is wider than the L1's reach (R315). -/
def Ctx.circleWide (c : Ctx) (n : Nat) : Bool :=
  let teams := ((c.C.members.filter (·.circle = n)).map (·.team)).eraseDups
  let one : Bool := match teams with
    | [some _] => true
    | [none] => c.C.lr.nteams = 1
    | _ => false
  !one || c.teamWide
/-- A circle's barrier. -/
def Ctx.circ (c : Ctx) (n : Nat) : CircBar := Store.get {} c.C.circs n
/-- Whether the gang has arrived at a circle barrier in its phase, its arrival in flight included. -/
def Ctx.circArrived (c : Ctx) (s : State) (n : Nat) : Bool :=
  (c.circ n).arr.contains (c.T.tidx, c.G.idx) ||
  s.net.contains (.circleArrival c.T.cohort n c.gid (c.circ n).phase)
/-- Arrives at the team barrier (R314). -/
def Ctx.arriveTeam (c : Ctx) (s : State) : State :=
  (s.modTeam c.tid fun t => { t with tarr := t.tarr ++ [c.G.idx] }).teamBarrier c.tid
/-- Arrives at a circle barrier: at once on its home die, by message from another (R316). -/
def Ctx.arriveCircle (c : Ctx) (n : Nat) (s : State) : State :=
  let s := if c.circleOut n then c.endRegion s else s
  if c.die = 8 * c.C.dev + c.C.lr.chome then
    (s.modCohort c.T.cohort fun x =>
      { x with circs := Store.upd {} x.circs n fun b => { b with arr := b.arr ++ [(c.T.tidx, c.G.idx)] } }).circleBarrier
        c.T.cohort n
  else s.send (.circleArrival c.T.cohort n c.gid (c.circ n).phase)
/-- A gang that waits at a barrier, its PC past the word. -/
def Ctx.barWait (c : Ctx) (circle : Option Nat) (phase : Nat) (s : State) : State :=
  s.modGang c.gid fun g => { g with bar := some ⟨circle, phase⟩ }
/-- The release of an arrival, then the arrival. -/
def Ctx.arriving (c : Ctx) (s : State) (f : State → Res) : Res :=
  match c.release s with
  | (some w, s) => .wait w s
  | (none, s) => f s
/-- BAR (R314). -/
def execBar (g : Guard) (s : State) : Out :=
  issue (.bar g) s fun c s =>
    if c.T.tarr.contains c.G.idx then c.trap 0x1D 3 s
    else c.arriving s fun s => .done (c.arriveTeam (c.barWait none c.T.tphase s))
/-- The check of a circle operand (R313). -/
def Ctx.circleBad (c : Ctx) (n : Nat) : Bool := 255 < n || !c.inCircle n
/-- CBAR (R314). -/
def execCbar (g : Guard) (x : SrcI) (s : State) : Out :=
  issue (.cbar g x) s fun c s =>
    let n := (c.r.ksI x).toNat
    if c.circleBad n then c.trap 0x1D 2 s
    else if c.circArrived s n then c.trap 0x1D 3 s
    else c.arriving s fun s => .done (c.arriveCircle n (c.barWait (some n) (c.circ n).phase s))
/-- ARV (R314). -/
def execArv (g : Guard) (d : RegNum) (circ : Option SrcI) (s : State) : Out :=
  issue (.arv g d circ) s fun c s =>
    match circ with
    | none =>
      if c.T.tarr.contains c.G.idx then c.trap 0x1D 3 s
      else c.arriving s fun s => c.putK (c.arriveTeam s) d (BitVec.ofNat 32 c.T.tphase)
    | some x =>
      let n := (c.r.ksI x).toNat
      if c.circleBad n then c.trap 0x1D 2 s
      else if c.circArrived s n then c.trap 0x1D 3 s
      else c.arriving s fun s => c.putK (c.arriveCircle n s) d (BitVec.ofNat 32 (c.circ n).phase)
/-- AWT (R314). -/
def execAwt (g : Guard) (tok : Src) (circ : Option SrcI) (s : State) : Out :=
  issue (.awt g tok circ) s fun c s =>
    let t := (c.r.ks tok).toNat
    match circ with
    | none => if c.T.tphase ≠ t then .done (c.acquire c.teamWide s) else .wait .answer s
    | some x =>
      let n := (c.r.ksI x).toNat
      if c.circleBad n then c.trap 0x1D 2 s
      else if (c.circ n).phase ≠ t then .done (c.acquire (c.circleWide n) s) else .wait .answer s

/-! ### Stage rings (R317, R318) -/

/-- Ring, slot and phase of a stage selector; `none` when a reserved bit is set. -/
def stageSel (w : Word) : Option (Nat × Nat × Bool) :=
  if w.toNat / 2 ^ 13 ≠ 0 || w.toNat / 32 % 8 ≠ 0 then none
  else some (w.toNat / 256 % 16, w.toNat % 32, w.getLsbD 12)
/-- Toggles a phase bit of the team. -/
def Team.toggle (t : Team) (full : Bool) (r sl : Nat) : Team :=
  if full then { t with ringFull := Store.upd 0 t.ringFull r fun w => w ^^^ (1#32 <<< sl) }
  else { t with ringFree := Store.upd 0 t.ringFree r fun w => w ^^^ (1#32 <<< sl) }
/-- A phase bit of the team. -/
def Team.phaseBit (t : Team) (full : Bool) (r sl : Nat) : Bool :=
  (Store.get 0 (if full then t.ringFull else t.ringFree) r).getLsbD sl
/-- Tells the sequencer of each hand-off collective of a team that a phase bit has changed (R339). -/
def State.kickColls (s : State) (tid : Nat) : State :=
  match s.team? tid with
  | none => s
  | some t => (t.colls.filter fun p => p.2.state = .run && p.2.block.fn = 4).foldl
      (fun s p => s.send (.collMatch (collKey tid p.1))) s
/-- SPUT and SGET. -/
def Ctx.stage (c : Ctx) (full : Bool) (w : Word) (s : State) : Res :=
  match stageSel w with
  | some (r, sl, false) =>
    c.arriving s fun s =>
      let s := s.modTeam c.tid fun t => t.toggle full r sl
      .done (if full then s else s.kickColls c.tid)
  | _ => c.trap 0x1D 1 s
/-- SPUT (R318). -/
def execSput (g : Guard) (sel : SrcI) (s : State) : Out := issue (.sput g sel) s fun c s => c.stage true (c.r.ksI sel) s
/-- SGET (R318). -/
def execSget (g : Guard) (sel : SrcI) (s : State) : Out := issue (.sget g sel) s fun c s => c.stage false (c.r.ksI sel) s
/-- SWAIT (R318). -/
def execSwait (g : Guard) (free : Bool) (sel : SrcI) (s : State) : Out :=
  issue (.swait g free sel) s fun c s =>
    match stageSel (c.r.ksI sel) with
    | none => c.trap 0x1D 1 s
    | some (r, sl, ph) =>
      if c.T.phaseBit (!free) r sl = ph then .done (c.acquire c.teamWide s) else .wait .answer s

/-! ### Taking up remote stores (R323, R324) -/

end Machine
/-- Registers that a store writes; v255 and k127 are left out (R323). -/
def RStore.refs (m : RStore) : List RegRef :=
  match m.data with
  | .vec _ | .sig false => [.v m.reg]
  | .k32 _ | .sig true => [.k m.reg]
  | .k64 _ => [.k m.reg, .k (m.reg + 1)]
/-- The registers of `refs` that hold state. -/
def RStore.target (m : RStore) : List RegRef := m.refs.filter fun r => !r.fixed
namespace Machine
/-- Writes a store into a gang's registers and sets them full (R322). -/
def Regs.applyStore (x : Regs) (m : RStore) : Regs :=
  match m.data with
  | .vec d => x.setV m.reg (BitVec.allOnes 32) fun l => d.extractLsb' (32 * l) 32
  | .k32 w => x.setK m.reg w
  | .k64 w => x.setK2 m.reg w
  | .sig false => x.setVFull m.reg true
  | .sig true => x.setKFull m.reg true
/-- Whether every register of a store is empty. -/
def Regs.takes (x : Regs) (m : RStore) : Bool := m.target.all fun r => !x.isFull r
/-- A wait that ends when a register of its gang changes from outside (R363). -/
def Wait.awake : Wait → Wait
  | .sleep _ => .ready
  | w => w
/-- A gang asleep becomes ready: one of its registers has changed from outside (R363). -/
def State.wake (s : State) (gid : Nat) : State :=
  s.modGang gid fun g =>
    let h := g.mapWait Wait.awake
    if h.wait = g.wait && h.wait2 = g.wait2 then g else { h with eligAt := s.time }
/-- Applies a store to its target gang (R323); a release is acquired by the target (R324). -/
def State.applyStore (s : State) (tid : Nat) (m : RStore) : State :=
  let gid := gangKey tid m.tgang
  let s := (s.modRegs gid fun x => x.applyStore m).wake gid
  let s := s.ackStore m .applied
  match m.rel, s.gang? gid, s.team? tid with
  | true, some g, some t => s.dropCleanAll (coreKey t.die g.core)
  | _, _, _ => s
/-- A team's record of a stream; a stream not seen yet has the record of its first store. -/
def Team.streamOf (t : Team) (stream : Nat) : Stream := (t.streams.find? (·.stream = stream)).getD { stream := stream }
/-- The sequence number that a team takes up next of a stream. -/
def Team.nextOf (t : Team) (stream : Nat) : Nat := (t.streamOf stream).next
/-- Replaces a stream record, or adds it. -/
def Team.setStream (t : Team) (x : Stream) : Team :=
  if t.streams.any (·.stream = x.stream) then
    { t with streams := t.streams.map fun y => if y.stream = x.stream then x else y }
  else { t with streams := t.streams ++ [x] }
/-- Records that a store of a stream has been taken up or refused for good. -/
def Team.tookUp (t : Team) (m : RStore) : Team :=
  let x := t.streamOf m.stream
  t.setStream { x with next := max x.next (m.seq + 1), refused := x.refused.erase m.seq }
/-- Refuses a store for retry: its sequence is noted, and the sending die resends it (R323). -/
def State.retryStore (s : State) (tid : Nat) (m : RStore) : State :=
  (s.modTeam tid fun t =>
    let x := t.streamOf m.stream
    t.setStream { x with refused := if x.refused.contains m.seq then x.refused else x.refused ++ [m.seq] }).send
      (.remoteStoreRetry m)
/-- Whether a waiting store has been taken up and is held for its register. -/
def Team.holds (t : Team) (m : RStore) : Bool := m.seq < t.nextOf m.stream
/-- The oldest held store whose register is empty is applied, again and again (R319). -/
def State.applyInbox (s : State) (tid : Nat) : Nat → State
  | 0 => s
  | n + 1 =>
    match s.team? tid with
    | none => s
    | some t =>
      match t.inbox.find? fun m => t.holds m && (match s.gang? (gangKey tid m.tgang) with
          | some g => g.regs.takes m
          | none => false) with
      | none => s
      | some m => ((s.setTeam tid { t with inbox := t.inbox.erase m }).applyStore tid m).applyInbox tid n

/-! ### MARKE, MARKF, FEQ (R319, R320) -/

/-- The registers of a window. -/
def windowRefs (k : Bool) (first : RegNum) (n : Nat) : List RegRef :=
  (List.range n).map fun i => if k then .k (first.toNat + i) else .v (first.toNat + i)
/-- Sets the full/empty bits of registers. -/
def Regs.markAll (x : Regs) (rs : List RegRef) (b : Bool) : Regs :=
  rs.foldl (fun x r => match r with
    | .v n => x.setVFull n b
    | .k n => x.setKFull n b
    | _ => x) x
/-- MARKE and MARKF (R319): the window of the issuing gang, or of gang SA under `.g`. -/
def Ctx.mark (c : Ctx) (k : Bool) (first : RegNum) (cnt1 : BitVec 6) (gang : Option Src) (full : Bool) (s : State) : Res :=
  let rs := windowRefs k first (cnt1.toNat + 1)
  let go (n : Nat) : Res :=
    let gid := gangKey c.tid n
    let s := s.modRegs gid fun x => x.markAll rs full
    .done (if full then (if gid = c.gid then s else s.wake gid) else s.applyInbox c.tid 64)
  match gang with
  | none => go c.G.idx
  | some x =>
    let n := (c.r.ks x).toNat
    if c.C.lr.gangs ≤ n then c.trap 0x1D 4 s
    else if !(rs.all (inBudget c.C.lr.vbud c.C.lr.kbud)) then c.trap 0x1D 5 s
    else go n
/-- MARKE (R319). -/
def execMarke (g : Guard) (k : Bool) (first : RegNum) (cnt1 : BitVec 6) (gang : Option Src) (s : State) : Out :=
  issue (.marke g k first cnt1 gang) s fun c s => c.mark k first cnt1 gang false s
/-- MARKF (R319). -/
def execMarkf (g : Guard) (k : Bool) (first : RegNum) (cnt1 : BitVec 6) (gang : Option Src) (s : State) : Out :=
  issue (.markf g k first cnt1 gang) s fun c s => c.mark k first cnt1 gang true s
/-- FEQ (R320). -/
def execFeq (g : Guard) (k : Bool) (d : RegNum) (first : RegNum) (cnt1 : BitVec 5) (s : State) : Out :=
  issue (.feq g k d first cnt1) s fun c s =>
    c.putK s d (BitVec.ofNat 32 (((windowRefs k first (cnt1.toNat + 1)).zipIdx).foldl
      (fun a p => if c.r.isFull p.1 then a + 2 ^ p.2 else a) 0))

end Machine
end Sys2Proof
end

