-- ==== Sys2Proof/Machine/Image.lean ====
section
/-!
DEFINITION. The image of a team in its context save area (R408–R410): writing it, and reading it back.
-/
namespace Sys2Proof
namespace Machine

/-! ### Layout (R408) -/

/-- Exactly `n` bytes: cut, or filled with zeros. -/
def fit (n : Nat) (bs : List Byte) : List Byte := (bs ++ List.replicate n 0).take n
/-- `n` bytes of a list from an offset, as a number. -/
def field (bs : List Byte) (off n : Nat) : Nat := ofBytes ((bs.drop off).take n)
/-- Bytes of a gang section. -/
def gangSize (lr : LaunchRec) : Nat := roundUp (1280 + 1024 * lr.vbud + 32 * lr.kbud) 256
/-- Offset of the scratchpad in an image. -/
def scratchOff (lr : LaunchRec) : Nat := roundUp (0x3600 + lr.gangs * gangSize lr) 4096
/-- Bytes of an image. -/
def imageSize (C : Cohort) : Nat := scratchOff C.lr + C.scratchBytes + 65536 * C.lr.tiles
/-- Device pointer of a team's image. -/
def imageAt (t : Tenant) (hall : Word) : Nat := t.save.toNat + t.imgsz.toNat * (hall.toNat / 4096 % 2 ^ 15)

/-! ### Writing -/

/-- A PC slot as 16 bytes (R40). -/
def PcSlot.image (p : PcSlot) : List Byte :=
  toBytes 8 p.pc.toNat ++ toBytes 4 p.lmask.toNat ++
    toBytes 4 ((if p.valid then 2 else 0) + 4 * p.kind.toNat + 16 * p.creg.toNat)
/-- A trap record as 32 bytes. -/
def TrapRec.image (r : TrapRec) (sec : Bool) : List Byte :=
  toBytes 4 (r.code.toNat + 256 * r.cause.toNat + (if sec then 2 ^ 16 else 0) + (if r.active then 2 ^ 31 else 0)) ++
    toBytes 4 r.lmask.toNat ++ toBytes 8 r.pc.toNat ++ toBytes 8 r.addr.toNat ++ toBytes 8 r.res.toNat
/-- Information word of a remote group (R346). -/
def Group.rinfo (g : Group) : Nat := g.nflt * 2 ^ 24 + g.row % 4096 * 2 ^ 12 + g.side * 2 ^ 8 + g.cause
/-- A group record as 16 bytes. -/
def Group.image (g : Group) (remote : Bool) : List Byte :=
  toBytes 4 (if remote then g.rinfo else g.info) ++ toBytes 4 0 ++ toBytes 8 g.addr.toNat
/-- A barrier wait as 8 bytes. -/
def barImage (b : Option BarWait) : List Byte :=
  let k := match b with
    | none => 0xFFFE
    | some ⟨none, _⟩ => 0xFFFF
    | some ⟨some c, _⟩ => c
  toBytes 2 k ++ toBytes 6 (match b with | some x => x.phase | none => 0)
/-- A gang section. -/
def Gang.image (g : Gang) (lr : LaunchRec) : List Byte :=
  let r := g.regs
  let n (k w : Nat) (f : Nat → Nat) : List Byte := (List.range k).flatMap fun i => toBytes w (f i)
  let head := r.pri.image ++ r.sec.image ++ n 7 4 (fun i => (r.p i).toNat) ++ toBytes 4 (r.qpreds.toNat % 128) ++
    n 32 1 r.c ++ n 32 1 (Store.get 0 r.curs) ++ n 32 8 (fun l => (Store.get 0 r.wins l).toNat) ++
    n 16 16 (fun i => (r.m i).toNat) ++ toBytes 32 r.vfull.toNat ++ toBytes 16 r.kfull.toNat ++
    g.tr0.image false ++ g.tr1.image true ++
    toBytes 4 (if g.rgnOpen then 1 else 0) ++ toBytes 4 g.rgnMask.toNat ++ toBytes 8 g.rgnPc.toNat ++
    (List.range 16).flatMap (fun i => (g.group false i).image false) ++
    (List.range 8).flatMap (fun i => (g.group true i).image true) ++
    toBytes 4 g.fluxBudget.toNat ++ toBytes 4 g.fluxPref.toNat ++ toBytes 4 g.fluxWalks.toNat ++
    toBytes 4 g.fluxFaults.toNat ++ toBytes 4 g.fluxPasses.toNat ++ barImage g.bar ++ toBytes 4 0 ++
    n 64 1 (Store.get 0 g.out)
  let vs := (List.range (8 * lr.vbud)).flatMap fun k => n 32 4 fun l => (r.v k l).toNat
  let ks := n (8 * lr.kbud) 4 fun k => (r.k k).toNat
  fit (gangSize lr) (fit 0x500 head ++ vs ++ ks)
/-- Code of a collective slot state (R340). -/
def CollSt.code : CollSt → Nat
  | .free => 0
  | .matching => 1
  | .run => 2
  | .done => 3
  | .error => 4
/-- The sum of a store of counts. -/
def sumOf (m : Store Nat) : Nat := m.foldl (fun a p => a + p.2) 0
/-- A collective slot as 192 bytes: state and status share a word; permits granted and held follow the step pointer. -/
def CollSlot.image (x : CollSlot) : List Byte :=
  fit 192 (fit 128 x.raw ++ toBytes 4 (x.state.code + 256 * x.status + 2 ^ 16 * x.fcause) ++ toBytes 4 x.step ++
    toBytes 4 (sumOf x.granted) ++ toBytes 4 (sumOf x.held))
/-- The MLOOP remainder as 64 bytes (R310). -/
def mrImage (m : Option MloopRem) : List Byte :=
  match m with
  | none => fit 64 []
  | some r => fit 64 (toBytes 4 r.count ++ toBytes 1 r.tile ++ toBytes 1 r.func ++ toBytes 1 r.q1 ++ toBytes 1 r.gang ++
      toBytes 8 r.pa.toNat ++ toBytes 8 r.pb.toNat ++ toBytes 4 r.inc.toNat ++ toBytes 4 r.seed.toNat ++
      toBytes 4 r.g0.toNat)
/-- A stream record as 16 bytes: the stream's number, the next sequence, and one past the lowest sequence refused for
retry; the later refused ones have no place there, and a record that comes back as it was written keeps them (log 25). -/
def Stream.image (x : Stream) : List Byte :=
  toBytes 8 x.stream ++ toBytes 4 x.next ++ toBytes 4 (match x.refused.min? with | some r => r + 1 | none => 0)
end Machine
/-- Kind of a store in an inbox entry (log 25). -/
def RData.kind : RData → Nat
  | .vec _ => 1
  | .k32 _ => 2
  | .k64 _ => 3
  | .sig false => 4
  | .sig true => 5
/-- Data bytes of a store. -/
def RData.bytes : RData → List Byte
  | .vec d => toBytes 128 d.toNat
  | .k32 w => toBytes 128 w.toNat
  | .k64 w => toBytes 128 w.toNat
  | .sig _ => toBytes 128 0
namespace Machine
/-- An inbox entry as 160 bytes: data; gang, register in two bytes, kind with bit 7 for a release; stream record; sequence. -/
def Team.inboxImage (t : Team) (m : RStore) : List Byte :=
  fit 160 (m.data.bytes ++ toBytes 1 m.tgang ++ toBytes 2 m.reg ++
    toBytes 1 (m.data.kind + (if m.rel then 128 else 0)) ++
    toBytes 4 ((t.streams.map (·.stream)).idxOf m.stream) ++ toBytes 8 m.seq)
/-- The image of a team (R408). -/
def teamImage (t : Team) (C : Cohort) (handle : Nat) (gs : List Gang) : List Byte :=
  let n (k w : Nat) (f : Nat → Nat) : List Byte := (List.range k).flatMap fun i => toBytes w (f i)
  let head := fit 0x100 (toBytes 4 1 ++ toBytes 4 t.hall.toNat ++ toBytes 4 handle ++ toBytes 4 t.tidx ++
    fit 16 C.lr.raw8 ++ toBytes 8 (imageSize C))
  let mark (i : Nat) : Nat :=
    let m : ChMark := Store.get {} t.marks i
    (if m.dead then 1 else 0) + (if m.xten then 2 else 0) + (if m.badwin then 4 else 0) + 256 * m.retries
  let rest := n 64 16 (fun i => (Store.get 0 t.chans i).toNat) ++ n 64 4 mark ++
    fit 64 (toBytes 4 t.tphase ++ toBytes 32 (t.tarr.foldl (fun a g => a + 2 ^ g) 0)) ++
    (List.range 16).flatMap (fun r => toBytes 4 (Store.get 0 t.ringFull r).toNat ++
      toBytes 4 (Store.get 0 t.ringFree r).toNat) ++
    (List.range 4).flatMap (fun j => (Store.get {} t.colls j).image) ++ mrImage t.mrem ++
    fit 1024 (t.streams.flatMap Stream.image) ++ fit 10240 (t.inbox.flatMap t.inboxImage)
  fit (scratchOff C.lr) (head ++ rest ++ gs.flatMap fun g => g.image C.lr) ++
    readBytes t.scratch 0 C.scratchBytes ++
    (List.range C.lr.tiles).flatMap fun k => n 16384 4 fun e => (t.tile k (e / 128) (e % 128)).toNat

/-- Cuts of `n` bytes from a pointer at page bounds, as offsets and lengths. -/
def pageCuts (ptr n : Nat) : List (Nat × Nat) :=
  let h := ptr % 65536
  (List.range ((n + h + 65535) / 65536)).map fun k =>
    let lo := 65536 * k - h
    (lo, min n (65536 * (k + 1) - h) - lo)
/-- The first poisoned sector among `n` bytes of a page at a tenant pointer, as the pointer of its first byte there (R410). -/
def State.poisonIn (s : State) (dev tenant ptr n : Nat) : Option Nat :=
  match s.ptrLoc dev tenant ptr false with
  | .ok (.dram d pa) =>
    (((List.range ((n + 63) / 64 + 1)).map fun i => if i = 0 then 0 else 64 * i - pa % 64).find? fun o =>
      o < n && (s.smetaOf (sectorOf d (pa + o))).pois).map (ptr + ·)
  | _ => none
/-- Stores bytes at a tenant pointer, page by page; a page fault or a poisoned sector gives the address at fault. -/
def State.storeBytes (s : State) (dev tenant ptr : Nat) (bs : List Byte) : Except Nat State :=
  (pageCuts ptr bs.length).foldl (fun (acc : Except Nat State) k =>
    match acc with
    | .error a => .error a
    | .ok s =>
      match s.poisonIn dev tenant (ptr + k.1) k.2, s.ptrStore dev tenant (ptr + k.1) ((bs.drop k.1).take k.2) with
      | some a, _ => .error a
      | none, .ok s => .ok s
      | none, .error _ => .error (ptr + k.1)) (.ok s)
/-- Loads bytes at a tenant pointer, page by page; a page fault or poison gives the address at fault. -/
def State.loadBytes (s : State) (dev tenant ptr n : Nat) : Except Nat (List Byte) :=
  (pageCuts ptr n).foldl (fun (acc : Except Nat (List Byte)) k =>
    match acc with
    | .error a => .error a
    | .ok bs =>
      match s.ptrLoad dev tenant (ptr + k.1) k.2 with
      | .error _ => .error ((s.poisonIn dev tenant (ptr + k.1) k.2).getD (ptr + k.1))
      | .ok xs => .ok (bs ++ xs)) (.ok [])
/-- The gangs of a team, in order. -/
def State.gangsOf (s : State) (tid n : Nat) : List Gang := (teamGangs tid n).filterMap s.gang?
/-- Writes a team's image, or gives the address at fault when the save fails (R410). -/
def State.storeImage (s : State) (tid : Nat) : Except Nat State :=
  match s.team? tid with
  | none => .error 0
  | some t =>
    match s.cohort? t.cohort with
    | none => .error 0
    | some C =>
      let ten := s.tenant (tenantKey C.dev C.tenant)
      if ten.imgsz.toNat < imageSize C then .error (imageAt ten t.hall)
      else match s.storeBytes C.dev C.tenant (imageAt ten t.hall)
          (teamImage t C (s.handle t.cohort) (s.gangsOf tid C.ngangs)) with
        | .ok s => .ok (s.modTeam tid fun t => { t with colls := t.colls.map fun p => (p.1, { p.2 with moved := false }) })
        | .error a => .error a

/-! ### Reading -/

/-- A store of words read by index from `k` entries of `w` bytes. -/
def readStore {α : Type} [DecidableEq α] (d : α) (bs : List Byte) (off k w : Nat) (f : Nat → α) : Store α :=
  (List.range k).foldl (fun m i => Store.set d m i (f (field bs (off + w * i) w))) []
/-- A PC slot of an image. -/
def readSlot (bs : List Byte) (off : Nat) : PcSlot :=
  let n := field bs off 16
  ⟨BitVec.ofNat 64 (n / 4 * 4), BitVec.ofNat 32 (n / 2 ^ 64), n.testBit 97, BitVec.ofNat 2 (n / 2 ^ 98), BitVec.ofNat 8 (n / 2 ^ 100)⟩
/-- A trap record of an image. -/
def readTrap (bs : List Byte) (off : Nat) : TrapRec :=
  let n := field bs off 4
  ⟨n.testBit 31, BitVec.ofNat 8 n, BitVec.ofNat 8 (n / 256), BitVec.ofNat 32 (field bs (off + 4) 4),
   BitVec.ofNat 64 (field bs (off + 8) 8), BitVec.ofNat 64 (field bs (off + 16) 8), BitVec.ofNat 64 (field bs (off + 24) 8)⟩
/-- A group record of an image; its transfers in flight are the gang's own. -/
def readGroup (bs : List Byte) (off : Nat) (remote : Bool) (inflight : Nat) : Group :=
  let n := field bs off 4
  { inflight := inflight, nflt := n / 2 ^ 24,
    row := if remote then n / 2 ^ 12 % 4096 else n / 2 ^ 16 % 256,
    kind := if remote then 0 else n / 2 ^ 10 % 4, side := n / 2 ^ 8 % 4, cause := n % 256,
    addr := BitVec.ofNat 64 (field bs (off + 8) 8) }
/-- A barrier wait of an image. -/
def readBar (bs : List Byte) (off : Nat) : Option BarWait :=
  match field bs off 2 with
  | 0xFFFE => none
  | 0xFFFF => some ⟨none, field bs (off + 2) 2⟩
  | c => some ⟨some c, field bs (off + 2) 2⟩
/-- The registers of a gang section. -/
def readRegs (bs : List Byte) (lr : LaunchRec) : Regs :=
  { pri := readSlot bs 0, sec := readSlot bs 16,
    depth := readStore 0 bs 0x40 32 1 (· % 64),
    vregs := (List.range (8 * lr.vbud)).foldl (fun m k => lanes.foldl (fun m l =>
      Store.set 0 m (32 * k + l) (BitVec.ofNat 32 (field bs (0x500 + 128 * k + 4 * l) 4))) m) [],
    kregs := readStore 0 bs (0x500 + 1024 * lr.vbud) (8 * lr.kbud) 4 (BitVec.ofNat 32),
    preds := readStore 0 bs 0x20 7 4 (BitVec.ofNat 32),
    qpreds := BitVec.ofNat 8 (field bs 0x3C 1 % 128),
    moms := readStore emptyTriple bs 0x180 16 16 fun n => BitVec.ofNat 128 (n % 2 ^ 102),
    vfull := BitVec.ofNat 256 (field bs 0x280 32) ||| (1#256 <<< 255),
    kfull := BitVec.ofNat 128 (field bs 0x2A0 16) ||| (1#128 <<< 127),
    wins := readStore 0 bs 0x80 32 8 (BitVec.ofNat 64),
    curs := readStore 0 bs 0x60 32 1 (· % 128) }
/-- A gang read from its section; what the image does not hold stays, and a PC keeps bits [1:0] at zero (R40). -/
def Gang.readImage (g : Gang) (lr : LaunchRec) (bs : List Byte) : Gang :=
  { g with
    regs := readRegs bs lr, tr0 := readTrap bs 0x2B0, tr1 := readTrap bs 0x2D0,
    rgnOpen := (field bs 0x2F0 4).testBit 0, rgnMask := BitVec.ofNat 32 (field bs 0x2F4 4),
    rgnPc := BitVec.ofNat 64 (field bs 0x2F8 8 / 4 * 4),
    cgrps := (List.range 16).foldl (fun m i =>
      Store.set {} m i (readGroup bs (0x300 + 16 * i) false (g.group false i).inflight)) [],
    rgrps := (List.range 8).foldl (fun m i =>
      Store.set {} m i (readGroup bs (0x400 + 16 * i) true (g.group true i).inflight)) [],
    fluxBudget := BitVec.ofNat 32 (field bs 0x480 4), fluxPref := BitVec.ofNat 32 (field bs 0x484 4),
    fluxWalks := BitVec.ofNat 32 (field bs 0x488 4), fluxFaults := BitVec.ofNat 32 (field bs 0x48C 4),
    fluxPasses := BitVec.ofNat 32 (field bs 0x490 4), bar := readBar bs 0x494,
    out := readStore 0 bs 0x4A0 64 1 id }
/-- A collective state of its code. -/
def CollSt.ofCode : Nat → CollSt
  | 1 => .matching
  | 2 => .run
  | 3 => .done
  | 4 => .error
  | _ => .free
/-- The fields of a parameter block. -/
def collBlock (n : Nat) : CollBlock :=
  let f (lo w : Nat) : Nat := n / 2 ^ lo % 2 ^ w
  { op := f 0 4, fn := f 4 4, ty := f 8 4, alg := f 12 2, ndet := n.testBit 14, rset := n.testBit 15, circle := f 16 8,
    permit := f 24 8, root := f 32 16, nrank := f 48 16, count := f 64 32, tag := f 96 32,
    send := BitVec.ofNat 64 (f 128 64), recv := BitVec.ofNat 64 (f 192 64), rtab := BitVec.ofNat 64 (f 256 64),
    stage := f 320 32, stagesz := f 352 32, hring := f 384 4, tmo := f 400 16 }
/-- Counts by peer that come to a total: those at hand when they do, and otherwise the total dealt out from the lowest peer, at
most `top` to each. -/
def spread (now : Store Nat) (peers : List Nat) (top total : Nat) : Store Nat :=
  if sumOf now = total then now
  else (peers.foldl (fun (acc : Nat × Store Nat) p =>
    let k := min top acc.1
    (acc.1 - k, Store.set 0 acc.2 p k)) (total, [])).2
/-- A collective slot read from its record; what the record does not hold stays, and a slot that its peers' error has moved since
the save keeps that (R341). -/
def CollSlot.readImage (x : CollSlot) (bs : List Byte) (off : Nat) : CollSlot :=
  let n := field bs (off + 128) 4
  let raw := if x.raw.isEmpty && field bs off 128 = 0 then [] else (bs.drop off).take 128
  let y := { x with raw := raw, block := if raw.isEmpty then x.block else collBlock (ofBytes raw),
                    state := if x.moved then x.state else CollSt.ofCode (n % 256),
                    status := if x.moved then x.status else n / 256 % 256,
                    fcause := if x.moved then x.fcause else n / 2 ^ 16 % 256, step := field bs (off + 132) 4 }
  let peers := (List.range y.ranks.length).filter (· ≠ y.me)
  { y with granted := spread y.granted peers y.block.permit (field bs (off + 136) 4),
           held := spread y.held peers y.block.permit (field bs (off + 140) 4) }
/-- The MLOOP remainder of an image. -/
def readMr (bs : List Byte) (off : Nat) : Option MloopRem :=
  if field bs off 4 = 0 then none
  else some ⟨field bs off 4, field bs (off + 4) 1, field bs (off + 5) 1, field bs (off + 6) 1, field bs (off + 7) 1,
    BitVec.ofNat 64 (field bs (off + 8) 8), BitVec.ofNat 64 (field bs (off + 16) 8), BitVec.ofNat 32 (field bs (off + 24) 4),
    BitVec.ofNat 32 (field bs (off + 28) 4), BitVec.ofNat 32 (field bs (off + 32) 4)⟩
/-- The stream records of an image: those that have been used; one as it was written is the team's own record. -/
def readStreams (own : List Stream) (bs : List Byte) (off : Nat) : List Stream :=
  (List.range 64).filterMap fun i =>
    let o := off + 16 * i
    let r := field bs (o + 12) 4
    if field bs o 16 = 0 then none
    else some ((own.find? fun x => x.image = (bs.drop o).take 16).getD
      ⟨field bs o 8, field bs (o + 8) 4, if r = 0 then [] else [r - 1]⟩)
/-- Data of a store of a kind. -/
def readData (bs : List Byte) (off kind : Nat) : RData :=
  match kind with
  | 1 => .vec (BitVec.ofNat 1024 (field bs off 128))
  | 2 => .k32 (BitVec.ofNat 32 (field bs off 4))
  | 3 => .k64 (BitVec.ofNat 64 (field bs off 8))
  | 4 => .sig false
  | _ => .sig true
/-- Stream of a store: sending gang, channel entry and the entry's epoch (log 25). -/
def streamId (sender chan epoch : Nat) : Nat := (sender * 64 + chan) * 2 ^ 16 + epoch % 2 ^ 16
/-- The inbox of an image; an entry that names no stream record is free. -/
def readInbox (bs : List Byte) (off group tenant : Nat) (hall : Word) (ss : List Stream) : List RStore :=
  (List.range 64).filterMap fun i =>
    let o := off + 160 * i
    match ss[field bs (o + 132) 4]? with
    | none => none
    | some x =>
      if field bs o 160 = 0 then none
      else
        let k := field bs (o + 131) 1
        some { sender := x.stream / 2 ^ 22, group := group, chan := x.stream / 2 ^ 16 % 64, stream := x.stream, seq := field bs (o + 136) 8,
               tenant := tenant, hall := hall, tgang := field bs (o + 128) 1, reg := field bs (o + 129) 2,
               data := readData bs o (k % 128), rel := 128 ≤ k }
/-- A team read from its image; what the image does not hold stays. -/
def Team.readImage (t : Team) (C : Cohort) (bs : List Byte) : Team :=
  let ss := readStreams t.streams bs 0xA00
  let mark (i : Nat) : ChMark :=
    let n := field bs (0x500 + 4 * i) 4
    { (Store.get {} t.marks i : ChMark) with
      dead := n.testBit 0, xten := n.testBit 1, badwin := n.testBit 2, retries := n / 256 % 256 }
  { t with
    chans := readStore 0 bs 0x100 64 16 fun n => BitVec.ofNat 128 (n % 2 ^ 68),
    marks := (List.range 64).foldl (fun m i => Store.set {} m i (mark i)) [],
    tphase := field bs 0x600 2,
    tarr := (List.range 256).filter fun g => (field bs 0x604 32).testBit g,
    ringFull := readStore 0 bs 0x640 16 8 (BitVec.ofNat 32),
    ringFree := readStore 0 bs 0x640 16 8 fun n => BitVec.ofNat 32 (n / 2 ^ 32),
    colls := (List.range 4).foldl (fun m j =>
      Store.set {} m j ((Store.get {} t.colls j).readImage bs (0x6C0 + 192 * j))) [],
    mrem := readMr bs 0x9C0, streams := ss, inbox := readInbox bs 0xE00 t.group C.tenant t.hall ss,
    scratch := (List.range C.scratchBytes).foldl (fun m i => Store.set 0 m i (bs.getD (scratchOff C.lr + i) 0)) [],
    tiles := readStore 0 bs (scratchOff C.lr + C.scratchBytes) (16384 * C.lr.tiles) 4 (BitVec.ofNat 32) }
/-- The fields of a launch record that its bytes 8 to 23 hold (R350, R408). -/
def LaunchRec.reread (r : LaunchRec) (bs : List Byte) : LaunchRec :=
  let n := ofBytes bs
  let f (lo w : Nat) : Nat := n / 2 ^ lo % 2 ^ w
  if bs = fit 16 r.raw8 then r
  else { r with nteams := f 0 32, gangs := f 32 8 + 1, ncores := f 40 3 + 1, share := f 48 16 * 1024,
                pword := BitVec.ofNat 32 (f 64 18), vbud := f 96 8, kbud := f 104 8, tiles := f 112 8, prio := f 120 3,
                autoreap := n.testBit 123, cosched := n.testBit 124, raw8 := bs }
/-- Reads a team's image back, or gives the address at fault when that fails (R409, R410): everything that the image holds, and under
`all` its launch bytes as the cohort's record (log 79). -/
def State.imageRead (s : State) (tid : Nat) (all : Bool) : Except Nat State :=
  match s.team? tid with
  | none => .error 0
  | some t =>
    match s.cohort? t.cohort with
    | none => .error 0
    | some C =>
      let ten := s.tenant (tenantKey C.dev C.tenant)
      let at_ := imageAt ten t.hall
      if ten.imgsz.toNat < imageSize C then .error at_
      else match s.loadBytes C.dev C.tenant at_ (imageSize C) with
        | .error a => .error a
        | .ok bs =>
          if field bs 0 4 ≠ 1 then .error at_
          else
            let n := field bs 8 4
            let key := (8 * C.dev + n / 2 ^ 24 % 8) * 256 + n % 256
            let ck := if (s.cohort? key).isSome && s.handle key = n then key else t.cohort
            let s := if all then s.modCohort ck fun c => { c with lr := c.lr.reread ((bs.drop 0x10).take 16) } else s
            let C := (s.cohort? ck).getD C
            let s := s.setTeam tid { t.readImage C bs with cohort := ck, hall := BitVec.ofNat 32 (field bs 4 4),
                                                           tidx := field bs 0xC 4 }
            .ok ((List.range C.ngangs).foldl (fun s i =>
              s.modGang (gangKey tid i) fun g => g.readImage C.lr ((bs.drop (0x3600 + i * gangSize C.lr)).take (gangSize C.lr))) s)
/-- A team's records as its image holds them, while the team stays saved. -/
def State.loadImage (s : State) (tid : Nat) : Except Nat State := s.imageRead tid false
/-- A restore of a team: the whole image (R409). -/
def State.restoreImage (s : State) (tid : Nat) : Except Nat State := s.imageRead tid true
/-- A save or restore that fails at an address ends the team (R402, R410). -/
def State.imageFault (s : State) (tid addr : Nat) : State := s.closeTeam tid 2 addr 0 s.time
/-- Changes a team's records where they lie: in the machine, or in the image of a team that is saved or on its way to another
die. -/
def State.inImage (s : State) (tid : Nat) (f : State → State) : State :=
  if (s.team? tid).any fun t => t.away && t.hall ≠ 0 then
    match s.loadImage tid with
    | .error a => s.imageFault tid a
    | .ok s' =>
      match (f s').storeImage tid with
      | .ok s => s
      | .error a => s'.imageFault tid a
  else f s

end Machine
end Sys2Proof
end

