-- ==== Sys2Proof/Machine/Remote.lean ====
section
/-!
DEFINITION. Remote register stores, channels and hallmark queries, major opcodes 0xA0–0xA5 (R321–R327), and the
messages that carry them.
-/
namespace Sys2Proof
namespace Machine

/-! ### Channel entries (R39, R325) -/

/-- Image of a channel entry. -/
def Team.chan (t : Team) (n : Nat) : BitVec 128 := Store.get 0 t.chans n
/-- Marks of a channel entry. -/
def Team.mark (t : Team) (n : Nat) : ChMark := Store.get {} t.marks n
def chHall (e : BitVec 128) : Word := e.extractLsb' 0 32
def chGang (e : BitVec 128) : Nat := (e.extractLsb' 32 8).toNat
def chBase (e : BitVec 128) : Nat := (e.extractLsb' 40 8).toNat
def chCount (e : BitVec 128) : Nat := (e.extractLsb' 48 8).toNat
def chAllow (e : BitVec 128) : Nat := (e.extractLsb' 56 8).toNat
def chValid (e : BitVec 128) : Bool := e.getLsbD 67
/-- Key of a gang's stores through an entry. -/
def sentKey (g chan : Nat) : Nat := g * 64 + chan
/-- Writes a channel entry: its marks and counts are cleared and new streams begin (R325). -/
def State.writeChan (s : State) (tid n : Nat) (e : BitVec 128) : State :=
  match s.team? tid with
  | none => s
  | some t =>
    let k := match s.cohort? t.cohort with | some c => c.ngangs | none => 0
    let t := { t with chans := Store.set 0 t.chans n e, marks := Store.set {} t.marks n { epoch := (t.mark n).epoch + 1 },
                      sent := (List.range k).foldl (fun m g => Store.set 0 m (sentKey g n) 0) t.sent }
    (s.setTeam tid t).modGangs tid k fun g => { g with out := Store.set 0 g.out n 0 }
/-- The status word of an entry for a gang (R325). -/
def Team.chStatus (t : Team) (g : Gang) (n : Nat) : Word :=
  let e := t.chan n
  let m := t.mark n
  BitVec.ofNat 32 ((if chValid e then 2 ^ 31 else 0) + (if m.badwin then 2 ^ 26 else 0) + (if m.xten then 2 ^ 25 else 0) +
    (if m.dead then 2 ^ 24 else 0) + 2 ^ 16 * m.retries + 256 * chAllow e + Store.get 0 g.out n)
/-- The common part of CHQ: the entry number of a register or immediate. -/
def Ctx.chq (c : Ctx) (ch : SrcI) (s : State) (f : Nat → Res) : Res :=
  let n := (c.r.ksI ch).toNat
  if 63 < n then c.trap 0x1D 1 s else f n
/-- CHQ `.st` and `.ent` (R325). -/
def execChq (g : Guard) (ent : Bool) (d : RegNum) (ch : SrcI) (s : State) : Out :=
  issue (.chq g ent d ch) s fun c s => c.chq ch s fun n =>
    if ent then
      let e := c.T.chan n
      .done (c.mod s fun x => (List.range 4).foldl (fun x i => x.setK (d.toNat + i) (e.extractLsb' (32 * i) 32)) x)
    else c.putK s d (c.T.chStatus c.G n)
/-- CHQ `.clr` (R325). -/
def execChqClr (g : Guard) (d : RegNum) (ch : SrcI) (s : State) : Out :=
  issue (.chqClr g d ch) s fun c s => c.chq ch s fun n =>
    c.putK (s.modTeam c.tid fun t => { t with marks := Store.upd {} t.marks n fun m => { epoch := m.epoch } }) d
      (c.T.chStatus c.G n)

/-! ### Sending (R322) -/

/-- A 64-bit pointer to a scratchpad offset. -/
def scrPtr (off : Nat) : DWord := BitVec.ofNat 64 (2 ^ 60 + off % 2 ^ 57)
/-- The checks of a remote store that do not depend on its kind: selector, entry and endpoint (R322). -/
def Ctx.remote (c : Ctx) (drop : Bool) (permit : Nat) (wide : Bool) (sel : Word) (s : State)
    (f : Nat → Nat → State → Res) : Res :=
  if sel.toNat / 2 ^ 16 ≠ 0 || sel.toNat / 64 % 4 ≠ 0 then c.trap 0x1D 1 s
  else
    let n := sel.toNat % 64
    let idx := sel.toNat / 256
    let e := c.T.chan n
    let m := c.T.mark n
    if !chValid e || !e.getLsbD (64 + permit) || chCount e ≤ idx || (wide && chCount e ≤ idx + 1) || m.xten || m.badwin
    then c.trap 0x1E n s
    else if m.dead then (if drop then .done s else c.trap 0x1F n s)
    else f n idx s
/-- Sends a remote store through channel `n`: it takes the stream's next number and one of the gang's allowance (R322). -/
def Ctx.postStore (c : Ctx) (rel : Bool) (n idx : Nat) (data : RData) (s : State) : State :=
  let e := c.T.chan n
  let k := sentKey c.G.idx n
  let m : RStore := { sender := c.gid, group := c.T.group, chan := n,
                      stream := streamId c.gid n (c.T.mark n).epoch, seq := Store.get 0 c.T.sent k, tenant := c.tenant,
                      hall := chHall e, tgang := chGang e, reg := chBase e + idx, data := data, rel := rel }
  let s := s.modTeam c.tid fun t => { t with sent := Store.upd 0 t.sent k (· + 1) }
  let s := s.modGang c.gid fun g => { g with out := Store.set 0 g.out n (Store.get 0 c.G.out n + 1) }
  c.endRegion (s.send (.remoteStoreArrival m))
/-- Waits for the allowance and, under `.rel`, for the gang's earlier writes; then sends. -/
def Ctx.sendStore (c : Ctx) (rel : Bool) (n idx : Nat) (data : RData) (s : State) : Res :=
  if chAllow (c.T.chan n) ≤ Store.get 0 c.G.out n then .wait .channel s
  else if rel && s.storesOut c.gid then .wait .drain s
  else
    let p := if rel then s.publishCore c.core else (true, s)
    if !p.1 then .wait .drain p.2 else .done (c.postStore rel n idx data p.2)
/-- RSTV (R322). -/
def execRstv (g : Guard) (drop : Bool) (sel off : Src) (ext : Option (Word × Bool)) (s : State) : Out :=
  issue (.rstv g drop sel off ext) s fun c s =>
    c.remote drop 0 false (c.r.ks sel) s fun n idx s =>
      let imm : Word := match ext with | some x => x.1 | none => 0
      let o := ((c.r.ks off).setWidth 64 + imm.signExtend 64 : DWord).toNat
      if 2 ^ 32 ≤ o then c.trapAt 0x10 1 (scrPtr o) s
      else if c.C.scratchBytes < o + 128 then c.trapAt 0x10 3 (scrPtr o) s
      else if o % 16 ≠ 0 then c.trapAt 0x11 0 (scrPtr o) s
      else if s.boarded c.tid o (o + 128) then .wait .board s
      else c.sendStore ((ext.map (·.2)).getD false) n idx
        (.vec (BitVec.ofNat 1024 (ofBytes (readBytes c.T.scratch o 128)))) s
/-- RSTK (R322). -/
def execRstk (g : Guard) (drop b64 : Bool) (sel data : Src) (ext : Option Bool) (s : State) : Out :=
  issue (.rstk g drop b64 sel data ext) s fun c s =>
    c.remote drop 1 b64 (c.r.ks sel) s fun n idx s =>
      c.sendStore (ext.getD false) n idx (if b64 then .k64 (c.r.ks2 data) else .k32 (c.r.ks data)) s
/-- RSIG (R322). -/
def execRsig (g : Guard) (drop k : Bool) (sel : Src) (ext : Option Bool) (s : State) : Out :=
  issue (.rsig g drop k sel ext) s fun c s =>
    c.remote drop 2 false (c.r.ks sel) s fun n idx s => c.sendStore (ext.getD false) n idx (.sig k) s

/-! ### Arrival (R323, R324) -/

/-- Inbox entries in use on the core of a gang, or in the image of a team that is away (R323). -/
def State.inboxUsed (s : State) (tid : Nat) (m : RStore) : Nat :=
  match s.team? tid, s.gang? (gangKey tid m.tgang) with
  | some t, some g =>
    if t.away then t.inbox.length
    else
      (s.teamList.filter fun p => p.2.die = t.die && !p.2.away).foldl (fun a p =>
        a + (p.2.inbox.filter fun x => match s.gang? (gangKey p.1 x.tgang) with
          | some y => y.core = g.core
          | none => false).length) 0
  | _, _ => 0
/-- Puts a store in the inbox. -/
def State.toInbox (s : State) (tid : Nat) (m : RStore) : State := s.modTeam tid fun t => { t with inbox := t.inbox ++ [m] }
/-- Whether a store names a register beyond the target's budget (R323). -/
def beyond (lr : LaunchRec) (m : RStore) : Bool :=
  255 < m.reg || m.target.any fun r => !inBudget lr.vbud lr.kbud r
/-- The fate of a store whose turn has come, by the table of R323 below its first row; `true` once it has been taken up
or refused for good. One whose registers are empty is applied though an earlier store of its stream is held for a full one: the
table says so, where R324 has stores of a stream applied in order (DEDUCED, log 99). -/
def State.takeStore (s : State) (tid : Nat) (m : RStore) : Bool × State :=
  match s.team? tid with
  | none => (true, s.ackStore m .dead)
  | some t =>
    match s.cohort? t.cohort with
    | none => (true, s.ackStore m .dead)
    | some C =>
      let up := s.setTeam tid (t.tookUp m)
      match s.gang? (gangKey tid m.tgang) with
      | none => (true, up.ackStore m .dead)
      | some g =>
        if g.regs.retired && t.state ≠ .restart then (true, up.ackStore m .dead)
        else if m.target.isEmpty && m.reg ≤ 255 then (true, up.applyStore tid m)
        else if beyond C.lr m then (true, up.ackStore m .badwin)
        else match t.state with
          | .restart => (false, s.retryStore tid m)
          | .migrating =>
            if t.fwdQ.length < 64 then (false, s.setTeam tid { t with fwdQ := t.fwdQ ++ [m] })
            else (false, s.retryStore tid m)
          | _ =>
            if g.regs.takes m then (true, up.applyStore tid m)
            else if s.inboxUsed tid m < 64 then (true, up.toInbox tid m)
            else (false, s.retryStore tid m)
/-- Takes up the waiting stores of a stream whose turn has come. -/
def State.takeNext (s : State) (tid stream : Nat) : Nat → State
  | 0 => s
  | n + 1 =>
    match s.team? tid with
    | none => s
    | some t =>
      match t.inbox.find? fun m => m.stream = stream && m.seq = t.nextOf stream with
      | none => s
      | some m =>
        let r := (s.setTeam tid { t with inbox := t.inbox.erase m }).takeStore tid m
        if r.1 then r.2.takeNext tid stream n else r.2
/-- A store at its target team, whose stream records last until it exits (DESIGN CHOICE, log 97): in turn, or resent after it
was held and a save had no place for it, it meets its fate; ahead of its turn it waits; after an earlier store refused for retry
it is refused for retry too. -/
def State.deliverStore (s : State) (tid : Nat) (m : RStore) : State :=
  match s.team? tid with
  | none => s.ackStore m .dead
  | some t =>
    let x := t.streamOf m.stream
    if !(t.streams.any (·.stream = m.stream)) && 64 ≤ t.streams.length then s.send (.remoteStoreRetry m)
    else if x.refused.any (· < m.seq) then s.retryStore tid m
    else if m.seq ≤ x.next then
      let r := s.takeStore tid m
      if r.1 then r.2.takeNext tid m.stream 64 else r.2
    else
      let s := s.setTeam tid (t.setStream x)
      match t.state with
      | .restart => s.retryStore tid m
      | .migrating =>
        if t.fwdQ.length < 64 then s.modTeam tid fun t => { t with fwdQ := t.fwdQ ++ [m] } else s.retryStore tid m
      | _ => if s.inboxUsed tid m < 64 then s.toInbox tid m else s.retryStore tid m
/-- A remote store arrives (R323): the tenant and the hallmark first, then the target team; its region ends (R372). -/
def State.arriveStore (s : State) (m : RStore) : State :=
  match s.byHall m.group m.hall with
  | none => s.ackStore m .dead
  | some (tid, t) =>
    if !s.ofTenant t m.tenant then s.ackStore m .xten
    else
      s.inImage tid fun s => if t.state = .restart then s.deliverStore tid m else (s.deliverStore tid m).endRegion tid

/-! ### CHGIVE and HMQ (R326, R327) -/

/-- Sends a request or an answer; its destination is owed until the answer comes (R189). -/
def Ctx.askFor (c : Ctx) (d : RegNum) (s : State) : State :=
  let r : List RegRef := [.k d.toNat]
  s.owe c.gid 0 (r.filter fun r => !r.fixed)
/-- CHGIVE, a grant (R326). -/
def execChgive (g : Guard) (entry : BitVec 6) (perm : BitVec 3) (d : RegNum) (hall desc : Src) (s : State) : Out :=
  issue (.chgive g entry perm d hall desc) s fun c s =>
    let w := c.r.ks desc
    let gang := w.toNat % 256
    let hi := w.toNat / 256 % 256 + w.toNat / 2 ^ 16 % 256
    let s := c.endRegion s
    if w.toNat / 2 ^ 24 = 0 || w.toNat / 2 ^ 16 % 256 = 0 || perm = 0 || c.C.ngangs ≤ gang ||
        ((perm.getLsbD 0 || perm.getLsbD 2) && 8 * c.C.lr.vbud < hi) ||
        ((perm.getLsbD 1 || perm.getLsbD 2) && 8 * c.C.lr.kbud < hi) then c.putK s d 4
    else
      let image : BitVec 128 := BitVec.ofNat 128 (c.T.hall.toNat + 2 ^ 32 * w.toNat + 2 ^ 64 * perm.toNat + 2 ^ 67)
      let m : ChanMsg := { sender := c.gid, group := c.T.group, dst := d, tenant := c.tenant, hall := c.r.ks hall,
                           giver := c.T.hall, entry := entry.toNat, image := image, revoke := false, force := false }
      .done (c.askFor d (s.send (.chgiveArrival m)))
/-- CHGIVE `.rev` (R326). -/
def execChgiveRev (g : Guard) (entry : BitVec 6) (d : RegNum) (hall : Src) (s : State) : Out :=
  issue (.chgiveRev g entry d hall) s fun c s =>
    let m : ChanMsg := { sender := c.gid, group := c.T.group, dst := d, tenant := c.tenant, hall := c.r.ks hall,
                         giver := c.T.hall, entry := entry.toNat, image := 0, revoke := true, force := false }
    .done (c.askFor d ((c.endRegion s).send (.chgiveArrival m)))
/-- Writes a channel entry of a team where it lies, and ends the team's region (R372). -/
def State.setChan (s : State) (tid n : Nat) (e : BitVec 128) : State :=
  let again : Bool := (s.team? tid).any fun t => t.state = .restart
  s.inImage tid fun s => if again then s.writeChan tid n e else (s.writeChan tid n e).endRegion tid
/-- Clears the VALID bit of an entry image. -/
def chInvalid (e : BitVec 128) : BitVec 128 := e &&& ~~~(1#128 <<< 67)
/-- The entry of a team as its image or the machine holds it. -/
def State.chanOf (s : State) (tid n : Nat) : BitVec 128 :=
  match s.team? tid with
  | none => 0
  | some t =>
    if t.away && t.hall ≠ 0 then
      match s.loadImage tid with
      | .ok s => ((s.team? tid).map fun t => t.chan n).getD 0
      | .error _ => 0
    else t.chan n
/-- A CHGIVE or CHSET at the team it names (R326, R405): its status and the state after it. -/
def State.giveChan (s : State) (m : ChanMsg) : Nat × State :=
  match s.byHall m.group m.hall with
  | none => (2, s)
  | some (tid, t) =>
    if !t.live then (2, s)
    else if !s.ofTenant t m.tenant then (3, s)
    else
      let e := s.chanOf tid m.entry
      let mine := chValid e && chHall e = m.giver
      if m.force then
        (if m.image.toNat / 2 ^ 68 ≠ 0 then (4, s) else (0, s.setChan tid m.entry m.image))
      else if m.revoke then (if mine then (0, s.setChan tid m.entry (chInvalid e)) else (5, s))
      else if !chValid e || mine then (0, s.setChan tid m.entry m.image)
      else (1, s)
/-- HMQ `.team` (R327). -/
def execHmqTeam (g : Guard) (d : RegNum) (a : SrcI) (s : State) : Out :=
  issue (.hmqTeam g d a) s fun c s =>
    let v : Word := match s.findTeam c.T.cohort (c.r.ksI a).toNat with
      | some (_, t) => if t.live then t.hall else 0
      | none => 0
    .done (c.askFor d (s.send (.remoteAnswer c.gid d v)))
/-- HMQ `.live` (R327). -/
def execHmqLive (g : Guard) (d : RegNum) (a : SrcI) (s : State) : Out :=
  issue (.hmqLive g d a) s fun c s =>
    let v : Word := match s.byHall c.T.group (c.r.ksI a) with
      | some (_, t) => if t.live && s.ofTenant t c.tenant then 1 else 0
      | none => 0
    .done (c.askFor d (s.send (.remoteAnswer c.gid d v)))

end Machine
end Sys2Proof
end

