-- ==== Sys2Proof/Machine/Collective.lean ====
section
/-!
DEFINITION. Collectives and remote copies, major opcodes 0xA8–0xAC (R329–R346), and the work of a collective
sequencer.
-/
namespace Sys2Proof
namespace Machine

/-! ### The parameter block (R331–R334) -/

/-- Whether an operation reduces. -/
def CollBlock.reduces (b : CollBlock) : Bool := b.op = 1 || b.op = 2 || b.op = 4
/-- The checks of R334 on the block alone. -/
def CollBlock.bad (b : CollBlock) (n : Nat) : Bool :=
  n / 2 ^ 416 ≠ 0 || n / 2 ^ 388 % 2 ^ 12 ≠ 0 || 6 < b.ty || 4 < b.fn || 5 < b.op ||
  (!b.reduces && b.fn ≠ 0) || (b.fn = 3 && b.ty ≠ 5) || (b.ty = 5 && b.fn ≠ 3 && b.reduces) ||
  (b.ty = 6 && b.reduces) || b.permit = 0 || 64 < b.permit || b.nrank = 0 || 2048 < b.nrank ||
  b.stagesz < b.permit * 4096 * (if b.fn = 4 then 2 else 1) || b.stage % 4096 ≠ 0 || b.stagesz % 4096 ≠ 0
/-- Element size (R331). -/
def CollBlock.z (b : CollBlock) : Nat := if b.ty = 5 then 16 else if b.ty = 6 then 1 else if b.ty = 1 || b.ty = 2 then 2 else 4
/-- Bytes of one buffer block. -/
def CollBlock.bytes (b : CollBlock) : Nat := b.count * b.z
/-- Chunks of one buffer block (R335). -/
def CollBlock.chunks (b : CollBlock) : Nat := (b.bytes + 4095) / 4096
/-- Bytes of chunk `c` of a block. -/
def CollBlock.chunkLen (b : CollBlock) (c : Nat) : Nat := min 4096 (b.bytes - 4096 * c)
/-- Blocks that SEND and RECV of rank `r` of `n` hold (R332). -/
def CollBlock.sendBlocks (b : CollBlock) (n r : Nat) : Nat :=
  if b.op = 0 then (if r = b.root then 1 else 0) else if b.op = 4 || b.op = 5 then n else 1
def CollBlock.recvBlocks (b : CollBlock) (n r : Nat) : Nat :=
  if b.op = 1 then (if r = b.root then 1 else 0) else if b.op = 3 || b.op = 5 then n else 1
/-- The pointer checks of R334: trap code, cause and address. -/
def collPtr (scr priv : Nat) (p : DWord) (align len : Nat) : Option (Nat × Nat × DWord) :=
  if 1 < ptrSpace p then some (0x10, 2, p)
  else match ptrCause p scr priv with
    | some k => some (0x10, k, p)
    | none =>
      if p.toNat % align ≠ 0 then some (0x11, 0, p)
      else if ptrSpace p = 1 && scr < ptrAddr p + len then some (0x10, 3, p)
      else none
/-- The parts of a block that must agree at every rank (R333). -/
def CollBlock.agreed (b : CollBlock) : CollBlock :=
  { b with send := 0, recv := 0, stage := 0, stagesz := 0, hring := 0, tmo := 0 }

/-! ### COLL (R333, R334) -/

/-- Teams of the issuing cohort with a gang in a circle, ascending (R333). -/
def Ctx.circleRanks (c : Ctx) (circle : Nat) : List Word :=
  let ts := (c.C.circleMembers circle).map (·.1)
  ((List.range c.C.lr.nteams).filter ts.contains).map (BitVec.ofNat 32)
/-- The engine that reads for a gang, under a policy. -/
def Ctx.eng (c : Ctx) (pol : Nat) : Eng := ⟨c.core, c.dev, c.tenant, c.tid, pol, c.gid⟩
/-- The trap of a fault met while the block is read. -/
def Ctx.blockTrap (c : Ctx) (f : EngFault) (s : State) : Res :=
  if f.cause = 9 then c.trapAt 0x13 0 f.addr s
  else if f.cause = 10 then c.trapAt 0x10 2 f.addr s
  else if f.cause = 11 then c.trapAt 0x10 3 f.addr s
  else c.trapAt 0x12 f.cause f.addr s
/-- Takes a free slot and gives its number. -/
def Ctx.takeSlot (c : Ctx) (j : Nat) (x : CollSlot) (d : RegNum) (s : State) : Res :=
  let (id, s) := s.newId
  let x := { x with gang := c.G.idx, since := s.time, coll := id }
  let s := c.endRegion (s.modTeam c.tid fun t => { t with colls := Store.set {} t.colls j x })
  c.putK (s.send (.collMatch (collKey c.tid j))) d (BitVec.ofNat 32 j)
/-- The ranks that wait to match a team whose rank table could not be read, or will, enter ERROR with it (R341). -/
def State.tableFault (s : State) (t : Team) (tag cause rank : Nat) : State :=
  let n := (t.colls.filter fun q => q.2.state = .matching && q.2.block.tag = tag).length
  ({ s with lateColl := s.lateColl ++ [⟨tag, [], t.who, n, [t.who], 4, cause, rank⟩] } : State).rematch
/-- Begins a collective: MATCH, or ERROR when the rank table faulted (R340, R341). -/
def Ctx.beginColl (c : Ctx) (j : Nat) (b : CollBlock) (raw : List Byte) (ranks : List Word) (me : Nat) (flt : Option Nat)
    (d : RegNum) (s : State) : Res :=
  match flt with
  | none => c.takeSlot j { state := .matching, block := b, raw := raw, ranks := ranks, me := me } d s
  | some k =>
    c.takeSlot j { state := .error, block := b, raw := raw, status := 4, fcause := k, frank := me } d
      (s.tableFault c.T b.tag k me)
/-- The rank of the issuing team, when it appears exactly once. -/
def Ctx.myRank (c : Ctx) (b : CollBlock) (ranks : List Word) : Option Nat :=
  let me : Word := if b.rset then c.T.hall else BitVec.ofNat 32 c.T.tidx
  if ranks.count me = 1 then some (ranks.idxOf me) else none
/-- The checks on pointers, once the number of ranks is known (R334). -/
def Ctx.collPtrs (c : Ctx) (b : CollBlock) (n me : Nat) : Option (Nat × Nat × DWord) :=
  let scr := c.C.scratchBytes
  let chk := collPtr scr c.C.lr.privsz
  match chk b.send b.z (b.sendBlocks n me * b.bytes) with
  | some f => some f
  | none =>
    match chk b.recv b.z (b.recvBlocks n me * b.bytes) with
    | some f => some f
    | none => if scr < b.stage + b.stagesz then some (0x10, 3, scrPtr b.stage) else none
/-- The checks once the rank set has been read (R334); of a table with faults, entries that could not be read name no team. -/
def Ctx.collRanks (c : Ctx) (j : Nat) (b : CollBlock) (raw : List Byte) (ranks : List Word) (flt : Option EngFault) (d : RegNum)
    (s : State) : Res :=
  let me := c.myRank b ranks
  let mine : Word := if b.rset then c.T.hall else BitVec.ofNat 32 c.T.tidx
  if (me.isNone && flt.isNone) || 1 < ranks.count mine || ranks.length ≤ b.root then c.trap 0x1B 0 s
  else match c.collPtrs b ranks.length (me.getD ranks.length) with
    | some (code, cause, addr) => c.trapAt code cause addr s
    | none => c.beginColl j b raw ranks (me.getD 0) (flt.map (·.cause)) d s
/-- COLL after its block has been read. -/
def Ctx.coll (c : Ctx) (j : Nat) (raw : List Byte) (d : RegNum) (s : State) : Res :=
  let n := ofBytes raw
  let b := collBlock n
  if b.bad n then c.trap 0x1B 0 s
  else if !b.rset then c.collRanks j b raw (c.circleRanks b.circle) none d s
  else match collPtr c.C.scratchBytes c.C.lr.privsz b.rtab 4 (4 * b.nrank) with
    | some (code, cause, addr) => c.trapAt code cause addr s
    | none =>
      let y := ({ s := s, feed := c.G.seen } : EngRun).read (c.eng (policyOf b.rtab .none)) (ptrSpace b.rtab) 0 0 b.rtab (4 * b.nrank)
      match y.2.stall with
      | some w => .wait w (c.eyeOn y.2.needs y.2.s)
      | none =>
        let rank (i : Nat) : Word := match allBytes ((y.1.drop (4 * i)).take 4) with
          | some bs => BitVec.ofNat 32 (ofBytes bs)
          | none => 0
        c.collRanks j b raw ((List.range b.nrank).map rank) y.2.faults.head? d y.2.s
/-- COLL (R334), a release of the gang's earlier accesses (R238); of the free slots it takes the lowest (DESIGN CHOICE, log 100). -/
def execColl (g : Guard) (d : RegNum) (ptr : Src) (off : Option Word) (s : State) : Out :=
  issue (.coll g d ptr off) s fun c s =>
    let p := c.kaddr ptr ((off.getD 0).signExtend 64)
    match collPtr c.C.scratchBytes c.C.lr.privsz p 128 128 with
    | some (code, cause, addr) => c.trapAt code cause addr s
    | none =>
      match (List.range 4).find? fun j => (Store.get {} c.T.colls j : CollSlot).state = .free with
      | none => .wait .queue s
      | some j =>
        match c.release s with
        | (some w, s) => .wait w s
        | (none, s) =>
          let y := ({ s := s, feed := c.G.seen } : EngRun).read (c.eng (policyOf p .none)) (ptrSpace p) 0 0 p 128
          match y.2.stall, y.2.faults with
          | some w, _ => .wait w (c.eyeOn y.2.needs y.2.s)
          | none, f :: _ => c.blockTrap f y.2.s
          | none, [] => c.coll j (y.1.map (·.getD 0)) d y.2.s

/-! ### Combination (R336) -/

/-- A 16-bit element as an FP32 code, and back. -/
def wide16 (bf : Bool) (x : Nat) : Word := r32 .rne ((pairFmt bf).dec x)
def narrow16 (bf : Bool) (w : Word) : Nat := (pairFmt bf).rnd .rne false (f32 w)
/-- comb(a, b) of two elements, as their bytes (R336). -/
def collComb (ty fn a b : Nat) : Nat :=
  let x : Word := BitVec.ofNat 32 a
  let y : Word := BitVec.ofNat 32 b
  match ty, fn with
  | 0, 0 => (combW .fadd x y).toNat
  | 0, 1 => (combW .fmin x y).toNat
  | 0, _ => (combW .fmax x y).toNat
  | 1, 0 | 2, 0 => (pairW (ty = 2) .rne (fun p q _ => Fx.add .rne p q) x y 0).toNat % 2 ^ 16
  | 1, 1 | 2, 1 => narrow16 (ty = 2) (combW .fmin (wide16 (ty = 2) a) (wide16 (ty = 2) b))
  | 1, _ | 2, _ => narrow16 (ty = 2) (combW .fmax (wide16 (ty = 2) a) (wide16 (ty = 2) b))
  | 3, 0 | 4, 0 => (x + y).toNat
  | 3, 1 => (combW .minI x y).toNat
  | 3, _ => (combW .maxI x y).toNat
  | 4, 1 => (combW .minN x y).toNat
  | 4, _ => (combW .maxN x y).toNat
  | _, _ => (mrg (Trip.ofBits (BitVec.ofNat 128 (a % 2 ^ 102))) (Trip.ofBits (BitVec.ofNat 128 (b % 2 ^ 102)))).toBits.toNat
/-- Combines two chunks element by element. -/
def combBytes (b : CollBlock) (x y : List Byte) : List Byte :=
  (List.range (x.length / b.z)).flatMap fun i => toBytes b.z (collComb b.ty b.fn (field x (b.z * i) b.z) (field y (b.z * i) b.z))
/-- A node whose right operand is absent: itself, or its merge with an empty triple (R336). -/
def combLone (b : CollBlock) (x : List Byte) : List Byte :=
  if b.fn = 3 then
    combBytes b x ((List.range (x.length / 16)).flatMap fun _ => toBytes 16 Trip.none.toBits.toNat)
  else x
/-! ### Trees (R335, R337) -/

/-- Number of a chunk of RECV, and of the tree that a reduction has for it at its owner. -/
def recvChunk (blk c : Nat) : Nat := blk * 2 ^ 32 + c
/-- Levels of the tree over `n` leaves: ⌈log2 n⌉; a cohort has at most 2^24 teams (R350). -/
def levels (n : Nat) : Nat := ((List.range 24).find? fun k => n ≤ 2 ^ k).getD 24
/-- Level and index of a node. -/
def nodeLevel (k : Nat) : Nat := k / 2 ^ 24
def nodeIndex (k : Nat) : Nat := k % 2 ^ 24
/-- Root of the tree over `n` leaves. -/
def rootNode (n : Nat) : Nat := levels n * 2 ^ 24
/-- The parent of a node, and the children of one above the leaves. -/
def parentNode (k : Nat) : Nat := (nodeLevel k + 1) * 2 ^ 24 + nodeIndex k / 2
def childNode (k : Nat) (right : Bool) : Nat := (nodeLevel k - 1) * 2 ^ 24 + 2 * nodeIndex k + (if right then 1 else 0)
/-- Whether a node of the tree over `n` leaves exists: some leaf below it does. -/
def nodeExists (n k : Nat) : Bool := nodeIndex k * 2 ^ nodeLevel k < n
/-- Whether a node above the leaves has no right child. -/
def loneNode (n k : Nat) : Bool := !nodeExists n (childNode k true)
/-- Nodes of the tree over `n` leaves, level by level. -/
def treeNodes (n : Nat) : List Nat :=
  (List.range (levels n + 1)).flatMap fun l => (List.range ((n + 2 ^ l - 1) / 2 ^ l)).map (l * 2 ^ 24 + ·)
/-- Trees of a reduction among `n` ranks. -/
def CollBlock.trees (b : CollBlock) (n : Nat) : List Nat :=
  let cs := List.range b.chunks
  match b.op with
  | 1 | 2 => cs
  | 4 => (List.range n).flatMap fun j => cs.map (recvChunk j)
  | _ => []
/-- The rank that owns a tree (R335). -/
def CollBlock.owner (b : CollBlock) (n tree : Nat) : Nat :=
  match b.op with
  | 1 => b.root
  | 2 => tree % n
  | _ => tree / 2 ^ 32
/-- The rank that evaluates a node: the root the owner, and any other node a rank whose leaf is below it, which ALG chooses
(log 76). -/
def collPlace (alg n owner k : Nat) : Nat :=
  let base := nodeIndex k * 2 ^ nodeLevel k
  if k = rootNode n && 1 < n then owner
  else base + Config.collNode alg n owner k % (max 1 (min (2 ^ nodeLevel k) (n - base)))
/-- The collective that a rank takes part in, as its sequencer sees it: block, algorithm, ranks and own rank. -/
structure CollView where
  b   : CollBlock
  alg : Nat
  n   : Nat
  me  : Nat
  deriving DecidableEq, Repr
/-- Where a node of a tree is evaluated. -/
def CollView.place (v : CollView) (tree k : Nat) : Nat := collPlace v.alg v.n (v.b.owner v.n tree) k
/-! ### The work of a rank (R335) -/

/-- What a step carries: a block and chunk of SEND, or a node of a tree. -/
inductive CollSrc where
  | send (blk chunk : Nat)
  | node (tree k : Nat)
  deriving DecidableEq, Repr
/-- One part of a rank's work: the peer, what it carries, its number, and whether it is a chunk of the peer's RECV. -/
structure CollItem where
  dst   : Nat
  src   : CollSrc
  num   : Nat
  final : Bool
  deriving DecidableEq, Repr
/-- Number under which a node value travels. -/
def nodeNum (tree k : Nat) : Nat := tree * 2 ^ 32 + k
/-- The parts of one tree: the nodes of this rank that other ranks take in, level by level, and the result for the other ranks of an
allreduce; a lone rank copies its leaf. -/
def CollView.treeItems (v : CollView) (tree : Nat) : List CollItem :=
  let leaf : CollSrc := .send (tree / 2 ^ 32) (tree % 2 ^ 32)
  if v.n = 1 then [⟨v.me, leaf, recvChunk 0 (tree % 2 ^ 32), true⟩]
  else
    let out := (treeNodes v.n).filter fun k => k ≠ rootNode v.n && v.place tree k = v.me && v.place tree (parentNode k) ≠ v.me
    out.map (fun k => ⟨v.place tree (parentNode k), if nodeLevel k = 0 then leaf else .node tree k, nodeNum tree k, false⟩) ++
    if v.b.op = 2 && v.b.owner v.n tree = v.me then
      ((List.range v.n).filter (· ≠ v.me)).map fun r => ⟨r, .node tree (rootNode v.n), recvChunk 0 (tree % 2 ^ 32), true⟩
    else []
/-- The work that a rank sends, in order; its own copies among it. -/
def CollView.items (v : CollView) : List CollItem :=
  let cs := List.range v.b.chunks
  let rs := List.range v.n
  match v.b.op with
  | 0 => if v.me = v.b.root then cs.flatMap fun c => rs.map fun r => ⟨r, .send 0 c, recvChunk 0 c, true⟩ else []
  | 3 => cs.flatMap fun c => rs.map fun r => ⟨r, .send 0 c, recvChunk v.me c, true⟩
  | 5 => cs.flatMap fun c => rs.map fun r => ⟨r, .send r c, recvChunk v.me c, true⟩
  | _ => (v.b.trees v.n).flatMap v.treeItems
/-- What a rank takes in of one tree, level by level. -/
def CollView.treeJobs (v : CollView) (tree : Nat) : List CollJob :=
  ((treeNodes v.n).filter fun k => 0 < nodeLevel k && v.place tree k = v.me).map (.node tree) ++
  if v.b.op = 2 && v.b.owner v.n tree ≠ v.me then [.recv (recvChunk 0 (tree % 2 ^ 32)) (v.b.owner v.n tree)] else []
/-- What a rank takes in, in the order in which it gives out its staging units: that in which every rank sends (log 76). -/
def CollView.jobs (v : CollView) : List CollJob :=
  let cs := List.range v.b.chunks
  let peers := (List.range v.n).filter (· ≠ v.me)
  match v.b.op with
  | 0 => if v.me = v.b.root then [] else cs.map fun c => .recv (recvChunk 0 c) v.b.root
  | 3 | 5 => cs.flatMap fun c => peers.map fun r => .recv (recvChunk r c) r
  | _ => (v.b.trees v.n).flatMap v.treeJobs
/-- Chunks of RECV that a rank must have written. -/
def CollView.recvTotal (v : CollView) : Nat := v.b.recvBlocks v.n v.me * v.b.chunks
/-- Steps of a rank: its parts for other ranks (R335). -/
def CollView.steps (v : CollView) : Nat := (v.items.filter fun i => i.dst ≠ v.me).length

/-! ### The sequencer -/

/-- A slot of a team. -/
def Team.coll (t : Team) (j : Nat) : CollSlot := Store.get {} t.colls j
def State.modColl (s : State) (tid j : Nat) (f : CollSlot → CollSlot) : State :=
  s.modTeam tid fun t => { t with colls := Store.upd {} t.colls j f }
/-- The team and slot of a rank of a running collective. -/
def State.collRank (s : State) (coll rank : Nat) : Option (Nat × Nat × Team × CollSlot) :=
  s.teamList.findSome? fun p => p.2.colls.findSome? fun q =>
    if q.2.coll = coll && q.2.me = rank && q.2.state = .run then some (p.1, q.1, p.2, q.2) else none
/-- The algorithm of a collective: ALG, or the choice that auto makes of the rank set (R335). -/
def State.collAlg (s : State) (t : Team) (x : CollSlot) : Nat :=
  if x.block.alg ≠ 0 then x.block.alg
  else
    let devs := ((x.ranks.filterMap (s.rankOf t x)).map fun p => p.2.dev).eraseDups
    if devs.length ≤ 1 then 1 else if (devs.map (· / 32)).eraseDups.length ≤ 1 then 2 else 3
/-- The view that a slot's sequencer has. -/
def State.collView (s : State) (t : Team) (x : CollSlot) : CollView := ⟨x.block, s.collAlg t x, x.ranks.length, x.me⟩
/-- Tells a sequencer to look at its slot again, once for any number of reasons. -/
def State.kick (s : State) (key : Nat) : State := if s.net.contains (.collMatch key) then s else s.send (.collMatch key)
/-- What an attempt of the sequencer comes to: nothing to do, a state to go on from, or work that waits for a queue place or
scoreboard entries. -/
inductive Pump where
  | idle
  | go (s : State)
  | retry
  deriving DecidableEq, Repr
/-- A pointer into SEND or RECV. -/
def CollBlock.chunkPtr (b : CollBlock) (base : DWord) (blk c : Nat) : DWord := base + BitVec.ofNat 64 (blk * b.bytes + 4096 * c)
/-- Begins a transfer of a slot in the driving gang's name, of `len` bytes, when a queue place and scoreboard entries are free
(R208, R335). -/
def State.collXfer (s : State) (tid j : Nat) (t : Team) (x : CollSlot) (act : CollAct) (src dst : DWord) (len : Nat)
    (data : List Byte) (ranges : List (DWord × Bool)) : Option State :=
  let core := coreKey t.die (match s.gang? (gangKey tid x.gang) with | some g => g.core | none => 0)
  let tenant := match s.cohort? t.cohort with | some c => c.tenant | none => 0
  let board := (ranges.filter fun r => ptrSpace r.1 = 1).map fun r => ⟨ptrAddr r.1, ptrAddr r.1 + len, r.2⟩
  if 64 ≤ (s.xfers.filter fun q => q.core = core).length || !s.boardRoom t board.length then none
  else
    let (id, s) := s.newId
    some { s with xfers := s.xfers ++ [
      { id := id, gang := gangKey tid x.gang, team := tid, core := core, die := t.die, tenant := tenant, group := 0,
        kind := .coll j act, src := src, dst := dst, geo := BitVec.ofNat 32 len, geo1 := 0, ci := 0, vals := 0,
        pol := policyOf src .none, dpol := policyOf dst .none, ipol := 0, vpol := 0, board := board, begun := false,
        done := false, data := data.map some }] }
/-- Begins to read a chunk of SEND, which may go to a staging unit. -/
def State.collSend (s : State) (tid j : Nat) (t : Team) (x : CollSlot) (act : CollAct) (blk c : Nat) (unit : List DWord) :
    Option State :=
  let p := x.block.chunkPtr x.block.send blk c
  s.collXfer tid j t x act p 0 (x.block.chunkLen c) [] ((p, false) :: unit.map fun u => (u, true))
/-- Begins to write a chunk of RECV that came from a rank, from a staging unit when it lies in one. -/
def State.collRecv (s : State) (tid j : Nat) (t : Team) (x : CollSlot) (num src : Nat) (bs : List Byte) (unit : List DWord) :
    Option State :=
  let p := x.block.chunkPtr x.block.recv (num / 2 ^ 32) (num % 2 ^ 32)
  s.collXfer tid j t x (.recv num src) 0 p bs.length bs ((p, true) :: unit.map fun u => (u, false))

/-! ### The staging area (R335, R339, R342) -/

/-- Bytes and number of the parts of the staging area that are given out: units of 4096 bytes, or under FN = 4 the slots of
hand-offs, with a unit for each operand. -/
def CollBlock.cellLen (b : CollBlock) : Nat := if b.fn = 4 then 8192 else 4096
def CollBlock.cells (b : CollBlock) : Nat := if b.fn = 4 then min 32 (b.stagesz / 8192) else b.stagesz / 4096
/-- Scratchpad offset of an operand of a part; the value lies at the left one. -/
def CollBlock.cellAt (b : CollBlock) (u : Nat) (right : Bool) : Nat :=
  b.stage + b.cellLen * u + (if b.fn = 4 && right then 4096 else 0)
/-- Bytes of what a part takes in. -/
def CollBlock.jobLen (b : CollBlock) : CollJob → Nat
  | .node tree _ => b.chunkLen (tree % 2 ^ 32)
  | .recv num _ => b.chunkLen (num % 2 ^ 32)
/-- The value of a part. -/
def CollPart.bytes (p : CollPart) (t : Team) (b : CollBlock) : List Byte :=
  readBytes t.scratch (b.cellAt p.unit false) (b.jobLen p.job)
/-- The part of some work. -/
def CollSlot.part? (x : CollSlot) (job : CollJob) : Option CollPart := x.parts.find? (·.job = job)
/-- Forgets the part of some work: its unit is free. -/
def CollSlot.drop (x : CollSlot) (job : CollJob) : CollSlot := { x with parts := x.parts.filter (·.job ≠ job) }
/-- Whether a part needs no second operand. -/
def CollJob.alone (n : Nat) : CollJob → Bool
  | .node _ k => loneNode n k
  | .recv .. => true
/-- An operand lands in a part (R335–R339): it is combined at once with the one that lies there; under FN = 4 the pair is handed to
the team's gangs. -/
def State.land (s : State) (tid j : Nat) (t : Team) (x : CollSlot) (n : Nat) (p : CollPart) (right : Bool) (bs : List Byte) : State :=
  let b := x.block
  let other := readBytes t.scratch (b.cellAt p.unit (!right)) bs.length
  let two := if right then p.left else p.right
  let alone := p.job.alone n
  let val := if b.fn = 4 then bs
    else if two then (if right then combBytes b other bs else combBytes b bs other)
    else match p.job with
      | .node .. => if alone then combLone b bs else bs
      | .recv .. => bs
  let give := b.fn = 4 && two
  let q := { p with
    left := p.left || !right
    right := p.right || right
    whole := alone || (two && b.fn ≠ 4)
    hand := if give then some (t.phaseBit false b.hring p.unit) else none }
  let t := { t with scratch := writeBytes t.scratch (b.cellAt p.unit right) val }
  (s.setTeam tid (if give then t.toggle true b.hring p.unit else t)).modColl tid j fun y =>
    { y with parts := y.parts.map fun z => if z.job = p.job then q else z }
/-- Takes the value of a hand-off whose slot has been given back (R339). -/
def State.handDone (s : State) (tid j : Nat) (t : Team) (x : CollSlot) : Pump :=
  match x.parts.find? fun p => p.hand.any (t.phaseBit false x.block.hring p.unit ≠ ·) with
  | none => .idle
  | some p => .go (s.modColl tid j fun y =>
      { y with parts := y.parts.map fun z => if z.job = p.job then { z with whole := true, hand := none } else z })
/-- The child of a node, above the leaves, whose value this rank holds itself, and on which side it stands. -/
def CollView.ownChild (v : CollView) : CollJob → Option (Nat × Bool)
  | .node tree k => (([false, true].map fun r => (childNode k r, r)).filter fun c =>
      0 < nodeLevel c.1 && nodeExists v.n c.1 && v.place tree c.1 = v.me).head?
  | .recv .. => none
/-- Gives the next work that a rank takes in a staging unit, in the order of the work (log 76): the unit of the child that lies at
this rank already, or a free one. -/
def State.collOpen (s : State) (tid j : Nat) (t : Team) (x : CollSlot) (v : CollView) : Pump :=
  match v.jobs[x.opened]? with
  | none => .idle
  | some job =>
    let add (s : State) (u : Nat) : State :=
      s.modColl tid j fun y => { y with opened := y.opened + 1, parts := y.parts ++ [{ job := job, unit := u }] }
    match v.ownChild job, job with
    | some (c, right), .node tree _ =>
      match x.part? (.node tree c) with
      | some p =>
        if !p.whole then .idle
        else
          let s := add (s.modColl tid j fun y => y.drop p.job) p.unit
          .go (s.land tid j ((s.team? tid).getD t) x v.n { job := job, unit := p.unit } right (p.bytes t x.block))
      | none => .idle
    | _, _ =>
      match (List.range x.block.cells).find? fun u => !(x.parts.any fun p => p.unit = u) with
      | some u => .go (add s u)
      | none => .idle
/-- The rank that the next operand of a part comes from, and its side: the rank's own leaf first, then the left one. -/
def CollView.wants (v : CollView) (p : CollPart) : Option (Nat × Bool) :=
  if p.whole || p.hand.isSome then none
  else match p.job with
    | .recv _ src => some (src, false)
    | .node tree k =>
      let open_ := ([(false, p.left), (true, p.right)].filter fun o => !o.2 && nodeExists v.n (childNode k o.1)).map fun o =>
        (v.place tree (childNode k o.1), o.1)
      (open_.find? (·.1 = v.me)).or open_.head?
/-- Transfers of a slot. -/
def State.slotXfers (s : State) (tid j : Nat) : List CollAct :=
  s.xfers.filterMap fun q => if q.team = tid then (match q.kind with
    | .coll k a => if k = j then some a else none
    | _ => none) else none
/-- Begins to read the rank's own leaf for a part that wants it. -/
def State.collLeaf (s : State) (tid j : Nat) (t : Team) (x : CollSlot) (v : CollView) : Pump :=
  let own (p : CollPart) : Option (CollPart × Nat × Bool) := match v.wants p, p.job with
    | some (r, right), .node tree _ =>
      if r = v.me && !(s.slotXfers tid j).contains (.leaf tree) then some (p, tree, right) else none
    | _, _ => none
  match x.parts.findSome? own with
  | none => .idle
  | some (p, tree, right) =>
    match s.collSend tid j t x (.leaf tree) (tree / 2 ^ 32) (tree % 2 ^ 32) [scrPtr (x.block.cellAt p.unit right)] with
    | some s => .go s
    | none => .retry
/-- Grants a permit to a peer that a part wants an operand of (R335): at most PERMIT to each peer at a time, and as many as there are
units for its steps. -/
def State.collGrant (s : State) (tid j : Nat) (x : CollSlot) (v : CollView) : Pump :=
  let asked := (x.parts.filterMap v.wants).map (·.1)
  let due (r : Nat) : Bool := r ≠ v.me && Store.get 0 x.granted r < min x.block.permit (asked.count r)
  match asked.find? due with
  | none => .idle
  | some r => match s.collRank x.coll r with
    | some (k, i, _) =>
      .go ((s.modColl tid j fun y => { y with granted := Store.upd 0 y.granted r (· + 1) }).send (.permitReturn k i x.me true))
    | none => .idle
/-- A step of a peer has been consumed: its permit returns (R335). -/
def State.consumed (s : State) (tid j src : Nat) (x : CollSlot) : State :=
  let s := s.modColl tid j fun y => { y with granted := Store.upd 0 y.granted src (· - 1) }
  match s.collRank x.coll src with
  | some (k, i, _) => s.send (.permitReturn k i x.me false)
  | none => s
/-- The bytes of a lone rank's leaf as MOMLD loads them (R179, R336). -/
def leafBytes (b : CollBlock) (bs : List Byte) : List Byte :=
  if b.fn = 3 then (List.range (bs.length / 16)).flatMap fun i => toBytes 16 (field bs (16 * i) 16 % 2 ^ 102) else bs
/-- Whether some part of the work that is left, or some transfer, carries a node. -/
def State.owesNode (s : State) (tid j : Nat) (x : CollSlot) (v : CollView) (tree k : Nat) : Bool :=
  ((v.items.drop x.nextOut).any fun i => i.src = .node tree k) ||
  (s.slotXfers tid j).any fun a => match a with
    | .node _ t c _ _ => t = tree && c = k
    | _ => false
/-- The number of the chunk of RECV that a whole part holds, and the rank that it came from. -/
def CollView.result (v : CollView) (p : CollPart) : Option (Nat × Nat) :=
  match p.job with
  | .recv num src => if p.left then some (num, src) else none
  | .node tree k => if p.whole && k = rootNode v.n then some (recvChunk 0 (tree % 2 ^ 32), v.me) else none
/-- A chunk of RECV goes there from its unit; the unit of a root is free once the other ranks have it too. -/
def State.collTake (s : State) (tid j : Nat) (t : Team) (x : CollSlot) (v : CollView) : Pump :=
  let rs := x.parts.filterMap fun p => (v.result p).map fun r => (p, r.1, r.2)
  let spent (p : CollPart × Nat × Nat) : Bool := match p.1.job with
    | .node tree k => x.gotten.contains p.2.1 && !s.owesNode tid j x v tree k
    | .recv .. => false
  match rs.find? spent with
  | some (p, _) => .go (s.modColl tid j fun y => y.drop p.job)
  | none =>
    match rs.find? fun p => !x.gotten.contains p.2.1 && !(s.slotXfers tid j).contains (.recv p.2.1 p.2.2) with
    | none => .idle
    | some (p, num, src) =>
      match s.collRecv tid j t x num src (p.bytes t x.block) [scrPtr (x.block.cellAt p.unit false)] with
      | some s => .go s
      | none => .retry

/-! ### Sending (R335) -/

/-- Begins the transfer of the next part of a rank's work when it is ready, the peer is on its cores and a permit is held. -/
def State.collItem (s : State) (tid j : Nat) (t : Team) (x : CollSlot) (i : CollItem) : Pump :=
  let open_ : Bool := i.dst = x.me ||
    match s.collRank x.coll i.dst with
    | some (_, _, u, _) => u.state = .resident && 0 < Store.get 0 x.held i.dst
    | none => false
  let begun : Option (Option State) :=
    if !open_ then none
    else match i.src with
      | .send blk c => some (s.collSend tid j t x (.send i.dst blk c i.num i.final) blk c [])
      | .node tree k =>
        ((x.part? (.node tree k)).filter (·.whole)).map fun p =>
          let u := scrPtr (x.block.cellAt p.unit false)
          s.collXfer tid j t x (.node i.dst tree k i.num i.final) u 0 (x.block.jobLen p.job) [] [(u, false)]
  match begun with
  | none => .idle
  | some none => .retry
  | some (some s) => .go (s.modColl tid j fun y =>
      { y with nextOut := y.nextOut + 1, held := if i.dst = y.me then y.held else Store.upd 0 y.held i.dst (· - 1) })
/-- The first attempt of a list that comes to something; one that waits lets later ones go first. -/
def Pump.first : List Pump → Pump
  | [] => .idle
  | .go s :: _ => .go s
  | .idle :: ps => Pump.first ps
  | .retry :: ps => match Pump.first ps with
    | .idle => .retry
    | p => p
/-- Whether a slot has done its work: every RECV byte written, every send consumed (R340). -/
def State.collDone (s : State) (tid j : Nat) (x : CollSlot) (v : CollView) : Bool :=
  v.items.length ≤ x.nextOut && v.steps ≤ x.step && v.jobs.length ≤ x.opened && x.parts.isEmpty &&
  x.gotten.length = v.recvTotal && (s.slotXfers tid j).isEmpty
/-- One action of the sequencer of a slot. -/
def State.pumpOnce (s : State) (tid j : Nat) : Pump :=
  match s.team? tid with
  | none => .idle
  | some t =>
    let x := t.coll j
    let v := s.collView t x
    if x.state ≠ .run || t.state ≠ .resident then .idle
    else if s.collDone tid j x v then .go (s.modColl tid j fun y => { y with state := .done })
    else Pump.first [s.handDone tid j t x, s.collTake tid j t x v, s.collOpen tid j t x v, s.collLeaf tid j t x v,
      s.collGrant tid j x v,
      match v.items[x.nextOut]? with
      | some i => s.collItem tid j t x i
      | none => .idle]
/-- The sequencer of a slot does what it can. -/
def State.pump (s : State) (tid j : Nat) : Nat → State
  | 0 => s.kick (collKey tid j)
  | f + 1 =>
    match s.pumpOnce tid j with
    | .idle => s
    | .retry => s.kick (collKey tid j)
    | .go s => s.pump tid j f
/-- What follows when a transfer of a slot has been performed, with the bytes that it read: `none` while what follows must
wait for a queue place. -/
def State.collRetire (s : State) (tid j : Nat) (act : CollAct) (bs : List Byte) : Option State :=
  match s.team? tid with
  | none => some s
  | some t =>
    let x := t.coll j
    let v := s.collView t x
    if x.state ≠ .run then some s
    else
      let after : Option State := match act with
        | .send peer _ _ num final =>
          if peer = x.me then s.collRecv tid j t x num x.me (if x.block.reduces then leafBytes x.block bs else bs) []
          else some (s.send (.collStepArrival ⟨x.coll, x.me, peer, num, final, bs⟩))
        | .node peer tree k num final =>
          let s := s.send (.collStepArrival ⟨x.coll, x.me, peer, num, final, bs⟩)
          some (if final then s else s.modColl tid j fun y => y.drop (.node tree k))
        | .leaf tree =>
          some (match x.parts.find? fun p => match p.job with | .node r _ => r = tree && (v.wants p).any (·.1 = v.me) | _ => false with
            | some p => s.land tid j t x v.n p (((v.wants p).map (·.2)).getD false) bs
            | none => s)
        | .recv num src =>
          let s := s.modColl tid j fun y => { y with gotten := y.gotten ++ [num] }
          some (if src = x.me then s else (s.modColl tid j fun y => y.drop (.recv num src)).consumed tid j src x)
      after.map fun s => s.kick (collKey tid j)

/-! ### Matching and the messages of a collective -/

/-- The team of a rank: a live team, `none` when it has not started yet, or the status of R341. -/
def State.rankTeam (s : State) (t : Team) (tenant : Nat) (x : CollSlot) (r : Word) : Except Nat (Option (Nat × Team)) :=
  match s.rankOf t x r with
  | none => if x.block.rset then .error 2 else .ok none
  | some (k, u) =>
    if u.state = .exited then .error 2
    else if !s.ofTenant u tenant then .error 5
    else .ok (some (k, u))
/-- The slot of a team in MATCH that belongs with one of team `t` (R333). -/
def State.matchSlot (s : State) (t u : Team) (x : CollSlot) : Option (Nat × CollSlot) :=
  u.colls.find? fun q => s.samePost t x u q.2
/-- A slot in MATCH is looked at: its collective runs once every rank has a slot that agrees, and fails on a
disagreement, a dead rank, one of another tenant, or an error that some rank has met before. -/
def State.collMatch (s : State) (tid j : Nat) (t : Team) (x : CollSlot) : State :=
  let tenant := match s.cohort? t.cohort with | some c => c.tenant | none => 0
  let ts := x.ranks.map (s.rankTeam t tenant x)
  let teams := ts.map fun r => match r with
    | .ok u => u
    | .error _ => none
  match s.lateFor t x, ts.findSome? fun r => match r with | .error k => some k | .ok _ => none with
  | some e, _ => s.meetLate tid j t x e
  | none, some k => s.abortColl tid j k 0 0
  | none, none =>
    let us := teams.map fun r => r.bind fun p =>
      if p.1 = tid then some (tid, j, x) else (s.matchSlot t p.2 x).map fun q => (p.1, q.1, q.2)
    let ms := us.filterMap id
    if ms.length ≠ us.length then s
    else if ms.all fun m => m.2.2.block.agreed = x.block.agreed && m.2.2.ranks = x.ranks then
      let s := s.collOver x.block.tag (s.rankWho t x) (s.collInst t x)
      let s := ms.foldl (fun s m => s.modColl m.1 m.2.1 fun y => { y with state := .run, coll := x.coll, moved := true }) s
      let s := ms.foldl (fun s m => s.modTeam m.1 fun u =>
        { u with colls := Store.upd {} u.colls m.2.1 fun y => { y with total := (s.collView u y).steps } }) s
      ms.foldl (fun s m => s.pump m.1 m.2.1 65536) s
    else s.abortColl tid j 1 0 0
/-- A message for the sequencer of a slot. -/
def State.seqWork (s : State) (key : Nat) : State :=
  match s.team? (key / 4) with
  | none => s
  | some t =>
    let x := t.coll (key % 4)
    match x.state with
    | .matching => s.collMatch (key / 4) (key % 4) t x
    | .run => s.pump (key / 4) (key % 4) 65536
    | _ => s
/-- The part that a step lands in, and its side. -/
def CollSlot.lands (x : CollSlot) (m : CollStep) : Option (CollPart × Bool) :=
  if m.final then (x.part? (.recv m.chunk m.src)).map fun p => (p, false)
  else
    let k := m.chunk % 2 ^ 32
    (x.part? (.node (m.chunk / 2 ^ 32) (parentNode k))).map fun p => (p, k % 2 = 1)
/-- A step arrives at its receiver (R335), and lands in the part of the staging area that its permit is for; false while the team's
return is awaited. A node value is taken in at once, a chunk of RECV once it is written there (log 76). -/
def State.collStep (s : State) (m : CollStep) : Bool × State :=
  match s.collRank m.coll m.dst with
  | none => (true, s)
  | some (tid, j, t, x) =>
    if t.state ≠ .resident && t.state ≠ .stopping then (false, s)
    else match x.lands m with
      | none => (false, s)
      | some (p, right) =>
        let s := s.land tid j t x (s.collView t x).n p right m.data
        (true, (if m.final then s else s.consumed tid j m.src x).pump tid j 65536)
/-- A permit is granted to a rank, or returns to it, the step that it was held for being complete (R335). -/
def State.permitBack (s : State) (tid j peer : Nat) (grant : Bool) : State :=
  (s.modColl tid j fun y => if grant then { y with held := Store.upd 0 y.held peer (· + 1) } else { y with step := y.step + 1 }).pump
    tid j 65536

/-! ### COLLW and COLLQ (R343) -/

/-- COLLW (R343). -/
def execCollw (g : Guard) (q : Bool) (d : RegNum) (slot : SrcI) (s : State) : Out :=
  issue (.collw g q d slot) s fun c s =>
    let j := (c.r.ksI slot).toNat
    if 3 < j then c.trap 0x1B 0 s
    else
      let x := c.T.coll j
      let free (s : State) : State := c.acquire true (s.modTeam c.tid fun t => { t with colls := Store.erase t.colls j })
      match x.state with
      | .free => c.putK (c.acquire true s) d 0
      | .done => c.putK (free s) d 0
      | .error => if q then c.putK (free s) d (BitVec.ofNat 32 x.status) else c.trap 0x1C x.status s
      | _ => .wait .answer s
/-- COLLQ (R343). -/
def execCollq (g : Guard) (op : CollQ) (d : RegNum) (slot : SrcI) (s : State) : Out :=
  issue (.collq g op d slot) s fun c s =>
    let j := (c.r.ksI slot).toNat
    if 3 < j then c.trap 0x1B 0 s
    else
      let x := c.T.coll j
      c.putK s d (BitVec.ofNat 32 (match op with
        | .state => x.state.code
        | .step => x.step
        | .total => x.total
        | .fault => if x.fcause = 0 then 0 else x.fcause + 256 * x.frank))

/-! ### RCPY and RCPYW (R345, R346) -/

/-- Rows and row length in bytes of an RCPY geometry word. -/
def rcpyRows (g : Word) : Nat := g.toNat / 2 ^ 20 + 1
def rcpyLen (g : Word) : Nat := g.toNat / 16 % 2 ^ 16 * 16
/-- The plan of RCPY. -/
def rcpyPlan (src dst : DWord) (geo pitch : Word) : CopyPlan :=
  let sp := pitch.toNat / 65536 * 16
  let dp := pitch.toNat % 65536 * 16
  let n := rcpyRows geo
  { ptrs := [(src, false), (dst, false)], geo := geo.toNat % 16 ≠ 0 || rcpyLen geo = 0,
    aligns := [(src, 16), (dst, 16)], pitch := 0, unit := 16,
    ranges := [(src, (n - 1) * sp + rcpyLen geo, false), (dst, (n - 1) * dp + rcpyLen geo, true)] }
/-- Whether RCPY may name a pointer's space (R345). -/
def rcpySpace (p : DWord) : Bool := ptrSpace p = 0 || ptrSpace p = 1 || ptrSpace p = 3 || ptrSpace p = 6
/-- RCPY (R345). -/
def execRcpy (g : Guard) (grp : BitVec 3) (src dst geo : Src) (off : Word) (pol : PolOv) (s : State) : Out :=
  issue (.rcpy g grp src dst geo off pol) s fun c s =>
    let a := c.kaddr src (off.signExtend 64)
    let b := c.r.ks2 dst
    let g0 := c.r.k geo.reg.toNat
    let g1 := c.r.k (geo.reg.toNat + 1)
    let early := if !rcpySpace a then some (2, a)
      else match ptrCause a c.C.scratchBytes c.C.lr.privsz with
        | some k => some (k, a)
        | none => if !rcpySpace b then some (2, b) else none
    match early with
    | some (k, p) => c.trapAt 0x10 k p s
    | none =>
      c.issueCopy (rcpyPlan a b g0 g1) grp.toNat (ptrSpace b ≠ 1) (c.xfer .rcpy a b g0 g1 0 0 pol) s true
/-- The engine of one side of an RCPY: remote bytes are uncached at their home (R345). -/
def Eng.side (e : Eng) (p : DWord) : Eng := if ptrSpace p = 3 || ptrSpace p = 6 then { e with pol := 4 } else e
/-- The run of an RCPY (R345). -/
def EngRun.rcpy (x : EngRun) (e : Eng) (q : Xfer) : EngRun :=
  let sp := q.geo1.toNat / 65536 * 16
  let dp := q.geo1.toNat % 65536 * 16
  (List.range (rcpyRows q.geo)).foldl (fun x i =>
    let y := x.read (e.side q.src) (ptrSpace q.src) 0 i (q.src + BitVec.ofNat 64 (i * sp)) (rcpyLen q.geo)
    y.2.write (({ e with pol := q.dpol } : Eng).side q.dst) (ptrSpace q.dst) 1 i (q.dst + BitVec.ofNat 64 (i * dp)) y.1) x
/-- RCPYW (R346). -/
def execRcpyw (g : Guard) (q info : Bool) (d : RegNum) (mask : SrcI) (s : State) : Out :=
  issue (.rcpyw g q info d mask) s fun c s =>
    let m := (c.r.ksI mask).toNat
    if info then
      (if 7 < m then c.trap 0x18 0 s else c.putK s d (BitVec.ofNat 32 (c.G.group true m).rinfo))
    else if 0xFF < m then c.trap 0x18 0 s
    else match c.waitGroups true q false 8 0x1A d m s with
      | .done s =>
        if q then
          .done (s.modGang c.gid fun g => (List.range 8).foldl (fun g i =>
            if m.testBit i && (g.group true i).cause ≠ 0 then g.modGroup true i Group.clear else g) g)
        else .done s
      | r => r

end Machine
end Sys2Proof
end

