-- ==== Sys2Proof/Machine/Control.lean ====
section
/-!
DEFINITION. Control flow, major opcodes 0x00–0x0F (R140–R159).
-/
namespace Sys2Proof
namespace Machine

/-- Moves the issuing slot to `pc`. -/
def Ctx.jump (c : Ctx) (pc : DWord) (s : State) : State := c.mod s fun x => x.setPc c.sec pc
/-- The branch target X + IMM32 (R140). -/
def Ctx.rel (c : Ctx) (off : Word) : DWord := c.X + off.signExtend 64
/-- Lanes of the issuing slot. -/
def Ctx.slotLanes (c : Ctx) : BitVec 32 := (c.r.slot c.sec).lmask
/-- Whether some lane of the slot stands at counter 0 in `f`. -/
def Ctx.anyAt0 (c : Ctx) (f : Nat → Nat) : Bool := (lanesOf c.slotLanes).any fun l => f l = 0
/-- Rewrites the counters of the slot's lanes and jumps when `go` holds (R146). -/
def Ctx.nest (c : Ctx) (f : Nat → Nat) (go : Bool) (off : Word) (s : State) : State :=
  let s := c.mod s fun x => x.mapC fun l => if c.slotLanes.getLsbD l then f l else x.c l
  if go then c.jump (c.rel off) s else s
/-- IF and LOOP: counters rise unless one would pass 63 (R146, R147). -/
def Ctx.raiseC (c : Ctx) (f : Nat → Nat) (off : Word) (s : State) : Res :=
  if (lanesOf c.slotLanes).any fun l => 63 < f l then c.trap 0x0A 0 s
  else .done (c.nest f (!c.anyAt0 f) off s)

/-- NOP (R159). -/
def execNop (g : Guard) (form : Form) (s : State) : Out := issue (.nop g form) s fun _ s => .done s

/-- BRA (R150). -/
def execBra (g : Guard) (off : Word) (s : State) : Out :=
  issue (.bra g off) s fun c s => .done (c.jump (c.rel off) s)

/-- BRX (R150). The record of its branch-target trap holds ADDR 0, as that of RET does: R394 allows the pointer or 0 (DESIGN
CHOICE, log 63). -/
def execBrx (g : Guard) (t : Src) (s : State) : Out :=
  issue (.brx g t) s fun c s =>
    let a := c.r.ks2 t
    if codeOk a then .done (c.jump a s) else c.trap 0x0C 0 s

/-! ### Calls (R151–R155) -/

/-- What the check of a call target comes to (R152). -/
inductive Target where
  | ok (s : State)
  | bad (code cause : Nat) (addr : DWord) (s : State)
  | wait (s : State)

/-- The check of one call target (R151, R152). A target of 0, whose header would lie at 2^64 - 8, fails with the branch-target
trap: the rules do not name the case (DESIGN CHOICE, log 62). -/
def Ctx.target (c : Ctx) (t : DWord) (s : State) : Target :=
  if !codeOk t || t.toNat % 32 ≠ 0 || t = 0 then .bad 0x0C 0 t s
  else
    match s.fetchBlock c.core c.tenant c.dev c.gid (t - 8) with
    | .wait s => .wait s
    | .flt cause s => .bad 0x0E cause (t - 8) s
    | .ok b s =>
      let h := b.toNat / 2 ^ 192
      let vbud := h / 2 ^ 14 % 256
      if h / 2 ^ 22 ≠ 0 || h % 2 ^ 14 ≠ 0x3FC || vbud = 0 || 32 < vbud then .bad 0x0C 0 t s
      else if c.C.lr.vbud < vbud then .bad 0x0D vbud t s
      else .ok s

/-- The checks of the targets of several lanes: the faults, and the lanes that passed with their targets. -/
inductive Targets where
  | ok (bad : List LaneFault) (good : List (Nat × DWord)) (s : State)
  | wait (s : State)

/-- Checks the targets of lanes in turn; `known` lists the pages whose walk faulted, each with its cause, since the walk of a
page reports its fault once; poison is a matter of the header's own sector (R152). -/
def Ctx.targetsFrom (c : Ctx) (t : Nat → DWord) (known : List (Nat × Nat)) : List Nat → State → Targets
  | [], s => .ok [] [] s
  | l :: ls, s =>
    let page := (t l - 8).toNat / 65536
    let seen := if !codeOk (t l) || (t l).toNat % 32 ≠ 0 || t l = 0 then none else known.find? (·.1 = page)
    let r : Target := match seen with
      | some p => .bad 0x0E p.2 (t l - 8) s
      | none => c.target (t l) s
    match r with
    | .wait s => .wait s
    | .bad code cause addr s =>
      match c.targetsFrom t (if code = 0x0E && cause ≠ 9 then (page, cause) :: known else known) ls s with
      | .ok bad good s => .ok (⟨l, code, cause, addr⟩ :: bad) good s
      | .wait s => .wait s
    | .ok s =>
      match c.targetsFrom t known ls s with
      | .ok bad good s => .ok bad ((l, t l) :: good) s
      | .wait s => .wait s
/-- Checks the target of each lane. -/
def Ctx.targets (c : Ctx) (t : Nat → DWord) (ls : List Nat) (s : State) : Targets := c.targetsFrom t [] ls s

/-- Counters, link and PC of a call to the group of lanes `g0` at `t0` (R154 steps 10 and 11). -/
def Ctx.enter (c : Ctx) (link : RegNum) (g0 : BitVec 32) (t0 : DWord) (s : State) : State :=
  c.mod s fun x =>
    let lm := (x.slot c.sec).lmask
    let x := x.mapC fun l =>
      if !lm.getLsbD l then x.c l
      else if !c.amask.getLsbD l then x.c l + 1
      else if g0.getLsbD l then x.c l
      else 1
    (x.setK2 link.toNat c.next).setPc c.sec t0

/-- CALL and CALLX (R154): `t` gives each lane's target and `creg` the register recorded for a parked group. -/
def Ctx.call (c : Ctx) (link : RegNum) (t : Nat → DWord) (creg : BitVec 8) (s : State) : Res :=
  if c.emask = 0 then .done s
  else if (lanesOf (c.slotLanes &&& ~~~c.amask)).any fun l => c.r.c l = 63 then c.trap 0x0A 0 s
  else match c.targets t (lanesOf c.emask) s with
  | .wait s => .wait .walk s
  | .ok bad good s =>
    let several := match good with
      | [] => false
      | p :: rest => rest.any fun q => q.2 ≠ p.2
    if several && c.r.sec.valid && c.r.sec.kind = 2 then c.trap 0x0B 0 s
    else
      let r := c.laneTrap bad s
      if !r.1 then .done r.2
      else
        let s := r.2
        match good with
        | [] => .done (c.mod s fun x => (x.setKFull link.toNat true).setKFull (link.toNat + 1) true)
        | p :: _ =>
          let g0 := maskOf fun l => good.any fun q => q.1 = l && q.2 = p.2
          if !several then .done (c.enter link g0 p.2 s)
          else
            match s.gang? c.gid with
            | none => .done s
            | some G =>
              if G.regs.sec.valid then .done (c.jump c.X s)
              else
                let park := maskOf fun l => good.any fun q => q.1 = l && q.2 ≠ p.2
                let s := c.mod s fun x =>
                  { x with pri := { x.pri with lmask := x.pri.lmask &&& ~~~park }, sec := ⟨c.X, park, true, 2, creg⟩ }
                .done (c.enter link g0 p.2 s)

/-- CALL (R154). -/
def execCall (g : Guard) (link : RegNum) (off : Word) (s : State) : Out :=
  issue (.call g link off) s fun c s => c.call link (fun _ => c.rel off) 0 s

/-- CALLX (R154). -/
def execCallx (g : Guard) (link : RegNum) (t : Src) (s : State) : Out :=
  issue (.callx g link t) s fun c s => c.call link (fun l => c.r.src2 t l) t.reg s

/-- What the dispatch of a parked call group comes to (R155). -/
inductive Dispatched where
  | go (g : BitVec 32) (t : DWord) (s : State)
  | trapped (s : State)
  | wait (s : State)

/-- The targets of the parked lanes, read again and checked (R155): the group of the lowest parked lane. -/
def Ctx.dispatch (c : Ctx) (s : State) : Dispatched :=
  let park := lanesOf c.r.sec.lmask
  match c.targets (fun l => c.r.v2 c.r.sec.creg.toNat l) park s with
  | .wait s => .wait s
  | .ok [] good s =>
    match good with
    | [] => .go 0 c.next s
    | p :: _ => .go (maskOf fun l => good.any fun q => q.1 = l && q.2 = p.2) p.2 s
  | .ok (f :: fs) _ s =>
    let mask := maskOf fun l => (f :: fs).any (·.lane = l)
    .trapped (s.deliver c.gid c.sec f.code f.cause mask c.X f.addr c.X)

/-- The dispatched group joins the primary slot at counter 0 and its target (R155). -/
def takeGroup (g : BitVec 32) (t : DWord) (x : Regs) : Regs :=
  let left := x.sec.lmask &&& ~~~g
  let sec : PcSlot := if left = 0 then {} else { x.sec with lmask := left }
  let x := x.mapC fun l => if g.getLsbD l then 0 else x.c l
  { x with pri := { x.pri with lmask := x.pri.lmask ||| g, valid := true, pc := t }, sec := sec }

/-- RET (R155). -/
def execRet (g : Guard) (link : Src) (d : BitVec 6) (s : State) : Out :=
  issue (.ret g link d) s fun c s =>
    if d ≠ 0 || c.amask &&& ~~~c.emask ≠ 0 then
      .done (c.mod s fun x => x.mapC fun l => if c.emask.getLsbD l then d.toNat + 1 else x.c l)
    else
      let a := c.r.ks2 link
      if !codeOk a then c.trap 0x0C 0 s
      else if c.r.sec.valid && c.r.sec.kind = 2 && c.r.sec.pc + 8 = a then
        match c.dispatch s with
        | .wait s => .wait .walk s
        | .trapped s => .done s
        | .go grp t s =>
          .done (c.mod s fun x =>
            takeGroup grp t (x.mapC fun l => if c.slotLanes.getLsbD l && x.c l = 0 then 1 else x.c l))
      else
        .done (c.mod s fun x => (x.mapC fun l => if c.slotLanes.getLsbD l then x.c l - 1 else x.c l).setPc c.sec a)

/-! ### Structure (R146–R149) -/

/-- IF (R146). -/
def execIfThen (inv : Bool) (p : PredNum) (off : Word) (s : State) : Out :=
  issue (.ifThen inv p off) s fun c s =>
    c.raiseC (fun l =>
      if 0 < c.r.c l then c.r.c l + 1
      else if (c.r.p p.toNat).getLsbD l != inv then 0
      else 1) off s

/-- ELSE (R146). -/
def execElseDo (off : Word) (s : State) : Out :=
  issue (.elseDo off) s fun c s =>
    let f (l : Nat) : Nat := if c.r.c l = 0 then 1 else if c.r.c l = 1 then 0 else c.r.c l
    .done (c.nest f (!c.anyAt0 f) off s)

/-- ENDIF (R146). -/
def execEndIf (s : State) : Out :=
  issue .endIf s fun c s => .done (c.nest (fun l => c.r.c l - 1) false 0 s)

/-- LOOP (R146). -/
def execLoop (off : Word) (s : State) : Out :=
  issue (.loop off) s fun c s => c.raiseC (fun l => if 0 < c.r.c l then c.r.c l + 2 else 0) off s

/-- BREAK (R146). -/
def execBrk (g : Guard) (d : BitVec 6) (s : State) : Out :=
  issue (.brk g d) s fun c s =>
    .done (c.mod s fun x => x.mapC fun l => if c.emask.getLsbD l then d.toNat + 2 else x.c l)

/-- CONT (R146). -/
def execCont (g : Guard) (d : BitVec 6) (s : State) : Out :=
  issue (.cont g d) s fun c s =>
    .done (c.mod s fun x => x.mapC fun l => if c.emask.getLsbD l then d.toNat + 1 else x.c l)

/-- ENDLOOP (R146). -/
def execEndLoop (off : Word) (s : State) : Out :=
  issue (.endLoop off) s fun c s =>
    let f (l : Nat) : Nat := if c.r.c l = 1 then 0 else c.r.c l
    if c.anyAt0 f then .done (c.nest f true off s)
    else .done (c.nest (fun l => if f l = 2 then 0 else if 3 ≤ f l then f l - 2 else f l) false off s)

/-! ### Leaving (R158, R159) -/

/-- The primary slot has lost its last lane and the secondary holds a fault split: the split becomes the primary slot
with its trap record (R158). -/
def promoteSec (g : Gang) : Gang :=
  { g with regs := { g.regs with pri := { pc := g.regs.sec.pc, lmask := g.regs.sec.lmask, valid := true }, sec := {} },
           tr0 := g.tr1, tr1 := {}, wait := g.wait2, wait2 := .ready }

/-- The issuing slot's last lanes have left: the gang retires, or the other slot takes over (R158); a trap record of the secondary stays
as it was when its lanes leave, active too (DESIGN CHOICE, log 89). -/
def Ctx.leave (c : Ctx) (drop : State → State) (s : State) : Res :=
  if c.sec then .done ((s.modRegs c.gid fun x => { x with sec := {} }).afterRetire c.gid)
  else if c.r.sec.valid && c.r.sec.kind = 2 then
    match c.dispatch s with
    | .wait s => .wait .walk s
    | .trapped s => .done s
    | .go grp t s => .done ((drop s).modRegs c.gid (takeGroup grp t))
  else if c.r.sec.valid then .done ((drop s).modGang c.gid promoteSec)
  else .done (((drop s).modRegs c.gid fun x => { x with pri := { x.pri with valid := false } }).afterRetire c.gid)

/-- EXIT (R158). A slot's last lanes leave once the gang's accesses have been performed and its core has published, since
every access of a team comes before what waits for its cohort (R356). -/
def execExit (g : Guard) (s : State) : Out :=
  issue (.exit g) s fun c s =>
    if c.emask = 0 then .done s
    else
      let left := c.slotLanes &&& ~~~c.emask
      let drop (s : State) : State := s.modRegs c.gid fun x => x.setSlot c.sec { x.slot c.sec with lmask := left }
      if left ≠ 0 then .done (drop s)
      else match c.release s with
        | (some w, s) => .wait w s
        | (none, s) => c.leave drop s


/-- TRAP (R159). -/
def execTrap (g : Guard) (code : BitVec 7) (s : State) : Out :=
  issue (.trap g code) s fun c s =>
    .done (c.laneTrapTo ((lanesOf c.emask).map fun l => ⟨l, 0x30, code.toNat, 0⟩) c.next s).2

/-- BPT (R159). -/
def execBpt (g : Guard) (s : State) : Out :=
  issue (.bpt g) s fun c s => .done (if c.emask = 0 then s else c.trapTo 0x32 0 0 c.next s)

end Machine
end Sys2Proof
end

