-- ==== Sys2Proof/Machine/Passes.lean ====
section
/-!
DEFINITION. The entry into a flux pass (R375, R376): the words that would end one, the load that waits for its walk just before the
blocked word, and the pass that a gang enters.
-/
namespace Sys2Proof
namespace Machine

/-! ### A word tried in a pass -/

/-- A control instruction issued on its own (R381). -/
def runControl (i : Instr) (s : State) : Out :=
  match i with
  | .nop g form => execNop g form s
  | .bra g off => execBra g off s
  | .brx g t => execBrx g t s
  | .call g link off => execCall g link off s
  | .callx g link t => execCallx g link t s
  | .ret g link d => execRet g link d s
  | .ifThen inv p off => execIfThen inv p off s
  | .elseDo off => execElseDo off s
  | .endIf => execEndIf s
  | .loop off => execLoop off s
  | .brk g d => execBrk g d s
  | .cont g d => execCont g d s
  | .endLoop off => execEndLoop off s
  | _ => .next s
/-- The buffer entries that a load takes in a pass (R377, R380). -/
def Opn.take (o : Opn) : FluxAct := fun c arch f s =>
  let w := c.emask ||| (c.amask &&& f.guardPoison arch o.e o.sh)
  ((fluxDests o.i o.e o.sh).foldl (fun (f? : Option Flux) d => f?.bind fun f =>
    f.write arch (s.fluxFree c.gid arch c.die) d w 0) (some f)).map fun f => (f, s)
/-- The buffer once a word has been tried as the first of a pass; `none` when it ends the pass (R380–R382). -/
def Opn.tried (o : Opn) (gid : Nat) (g : Gang) (f : Flux) (s : State) : Option Flux :=
  let s := { s.setGang gid { g with flux := some { f with budget := f.budget + 2 } } with curGang := gid, curSec := false }
  let r : Out :=
    if fluxClass o.i o.e.pl.opc.toNat = .control then runControl o.i s else issueF o.i s o.take fun _ s => .done s
  match r with
  | .next s => ((s.gang? gid).bind (·.flux)).bind fun f => if f.ending then none else some f
  | _ => none
/-- Whether a word of one or two operations ends a pass whose first word it is: both halves of a pair read before either writes. -/
def State.endsPass (s : State) (gid : Nat) (g : Gang) (f : Flux) (os : List Opn) : Bool :=
  (os.foldl (fun (f? : Option Flux) o => f?.bind fun x => o.tried gid g { f with entries := x.entries } s) (some f)).isNone

/-! ### The loads that a blocked word waits for -/

/-- Passes in progress in a gang's partition. -/
def State.passesOf (s : State) (die : Nat) (G : Gang) : Nat :=
  (s.gangList.filter fun p => p.2.core = G.core && p.2.part = G.part && p.2.flux.isSome &&
    (match s.team? p.2.team with | some t => t.die = die | none => false)).length
/-- What a load of a pass's gang will write, `none` for a word that is no load (R380). -/
def Opn.loads (o : Opn) : Option (List RegRef) :=
  let d := o.sh.d.refs o.e.pl.dst.toNat
  match o.i with
  | .ld _ _ _ _ _ p => some ((d ++ (p.map fun n => RegRef.p n.toNat).toList).filter fun r => !r.fixed)
  | .ldk .. | .momld .. => some (d.filter fun r => !r.fixed)
  | _ => none
/-- A gang that waits at a load for the walk of its page (R195), as it is once that load has issued, and what the load will write. At
the clock of the walk's start the walk alone must predict it long: its source is not known yet (R376). -/
def State.heldLoad (s : State) (gid : Nat) (g : Gang) (t : Team) (c : Cohort) : Option (Gang × List RegRef) :=
  let walking := s.walks.any fun w => w.waiters.contains gid && w.res.isNone
  if !walking || !longNs walkNs g.walkMhz then none
  else match s.wordAt gid g t c g.regs.pri.pc with
    | some [o] => o.loads.map fun rs =>
        ({ g with regs := g.regs.setPc false (g.regs.pri.pc + BitVec.ofNat 64 o.e.form.bytes) }, rs)
    | _ => none
/-- The interlocks on which a word waits, when they are all of the gang's own loads in flight, or of the one that waits for its walk,
and one is predicted long; `none` otherwise (R375). -/
def State.longWait (s : State) (gid : Nat) (g : Gang) (held : List RegRef) (os : List Opn) : Option (List Nat) :=
  let rs := os.flatMap (·.touches)
  let ids := ((g.owed.filter fun p => rs.contains p.2).map (·.1)).eraseDups
  let load (id : Nat) : Bool := s.accesses.any fun a => a.id = id && a.gang = gid && a.op.isLoad
  if ids.all load && (held.any rs.contains || (held.isEmpty && ids.any g.long.contains)) then some ids else none
/-- A gang as it is once what its loads owe has come: nothing owed, and the registers that loads `ids` and the held one write full
(R189). -/
def Gang.loaded (g : Gang) (ids : List Nat) (held : List RegRef) : Gang :=
  let full (x : Regs) (r : RegRef) : Regs := match r with
    | .v n => x.setVFull n true
    | .k n => x.setKFull n true
    | _ => x
  { g with owed := [], regs := (held ++ (g.owed.filter fun o => ids.contains o.1).map (·.2)).foldl full g.regs }

/-! ### Entry (R375) -/

/-- The pass that a gang enters, when every condition of R375 holds; the predicates that a load in flight will write begin
poisoned (R378). -/
def State.canFlux (s : State) (gid : Nat) (g : Gang) : Option Flux :=
  match s.team? g.team with
  | none => none
  | some t =>
    match s.cohort? t.cohort with
    | none => none
    | some c =>
      let slots := g.regs.pri.valid && (!g.regs.sec.valid || g.regs.sec.kind = 2)
      if !g.seated t (s.dieNow t.die) || !g.active || g.flux.isSome || g.fluxBudget = 0 || !slots ||
          2 ≤ s.passesOf t.die g || s.fluxFree gid g t.die = 0 then none
      else
        let (x, held) := (s.heldLoad gid g t c).getD (g, [])
        let X := x.regs.pri.pc
        match if x.fluxDone.contains X then none else s.wordAt gid x t c X with
        | none => none
        | some os =>
          (s.longWait gid x held os).bind fun ids =>
            let loads := (s.accesses.filter fun a => a.gang = gid && a.op.isLoad).map (·.id)
            let owed := (x.owed.filter fun o => loads.contains o.1).map (·.2) ++ held
            let f : Flux := { ctx := x.regs, budget := x.fluxBudget.toNat, block := X, waitOn := ids, loads := loads, held := held,
                              ppois := (owed.filterMap fun r => match r with | .p n => some n | _ => none).foldl
                                (fun m n => Store.set 0 m n (BitVec.allOnes 32)) [] }
            if checkWord os (x.loaded ids held) c.lr ≠ .ok || s.endsPass gid x f os ||
                os.any fun o => !(poolFaults o.reads x (x.regs.active false)).isEmpty then none
            else some f
/-- A gang enters a flux pass when every condition of R375 holds. -/
def State.enterFlux (s : State) (gid : Nat) : State :=
  match s.gang? gid with
  | none => s
  | some g =>
    match s.canFlux gid g with
    | none => s
    | some f => s.modGang gid fun g => { g with flux := some f, fluxPasses := satInc g.fluxPasses, wait := .ready }
/-- Whether a slot's next word waits by interlock on a load that missed in the L2 (R361). -/
def State.missWait (s : State) (gid : Nat) (g : Gang) (sec : Bool) : Bool :=
  let rs := (s.slotOps gid g sec).flatMap (·.touches)
  s.accesses.any fun a => a.gang = gid && a.op.isLoad && a.miss && g.owed.any fun o => o.1 = a.id && rs.contains o.2

end Machine
end Sys2Proof
end

