-- ==== Sys2Proof/Machine/Transfer.lean ====
section
/-!
DEFINITION. Running a transfer of an engine: its start and its progress sector by sector, what it writes and records, and its
retirement (R236, R237, R268, R283, R287, R290, R335, R345, R431).
-/
namespace Sys2Proof
namespace Machine

/-- Whether a transfer counts in a remote group (R346, R431). -/
def Xfer.remote (q : Xfer) : Bool := match q.kind with
  | .rcpy | .tsnd .. => true
  | _ => false
/-- Whether a transfer is a timed send. -/
def Xfer.timed (q : Xfer) : Bool := match q.kind with
  | .tsnd .. => true
  | _ => false
/-- The engine that runs a transfer. -/
def Xfer.eng (q : Xfer) : Eng := ⟨q.core, devOfDie q.die, q.tenant, q.team, q.pol, xferWaiter q.id⟩
/-- KIND of a transfer's fault record (R287). -/
def Xfer.code (q : Xfer) : Nat := match q.kind with
  | .cpyg .. => 1
  | .cpys .. => 2
  | _ => 0
/-- The data that has come to the home for a transfer. -/
def Xfer.fed (q : Xfer) : List (Nat × BitVec 512) :=
  match q.needs, q.feed with
  | some n, some d => [(n.2, d)]
  | _, _ => []
/-- The run of a transfer from where an earlier attempt left it, with the bytes that a collective's read gives; a timed send
writes the bytes it read when it became due, uncached at their home. -/
def Xfer.run (q : Xfer) (s : State) : List (Option Byte) × EngRun :=
  let x : EngRun := { s := s, old := q.log, feed := q.fed, byp := q.byp }
  let toDst (e : Eng) : List (Option Byte) × EngRun := (q.data, x.write e (ptrSpace q.dst) 1 0 q.dst q.data)
  match q.kind with
  | .cpy f p tr rm sat => ([], x.cpy q.eng q f p tr rm sat)
  | .cpyg f rm sat => ([], x.cpyg q.eng q f rm sat)
  | .cpys f rm sat => ([], x.cpys q.eng q f rm sat)
  | .rcpy => ([], x.rcpy q.eng q)
  | .tsnd .. => toDst { q.eng with pol := 4 }
  | .coll _ (.recv ..) => toDst { q.eng with pol := q.dpol }
  | .coll .. => x.read q.eng (ptrSpace q.src) 0 0 q.src q.geo.toNat
/-- Changes a transfer. -/
def State.modXfer (s : State) (id : Nat) (f : Xfer → Xfer) : State :=
  { s with xfers := s.xfers.map fun x => if x.id = id then f x else x }
/-- Changes the group a transfer counts in, where the gang's records lie (R431). -/
def State.modXferGroup (s : State) (q : Xfer) (f : Group → Group) : State :=
  s.inImage q.team fun s => s.modGang q.gang fun g => g.modGroup q.remote q.group f
/-- Whether a load that the gang issued before the transfer has not bound yet: the transfer's writes are never returned
to it (R236). -/
def State.loadsBefore (s : State) (q : Xfer) : Bool :=
  s.accesses.any fun a => a.gang = q.gang && a.id < q.id && a.op ≠ .store
/-- The other groups that an RCPY or a timed send reaches. -/
def Xfer.farGroups (q : Xfer) : List Nat :=
  (([q.src, q.dst].filter fun p => ptrSpace p = 6).map fun p => ptrAddr p / 2 ^ 51).eraseDups.filter (· ≠ q.die / 256)
/-- Whether a transfer may not run yet: it has ended, a timed send is not due, it waits in a circuit queue (R423), an earlier one
bars its ranges (R290), or a load before it is still to bind. -/
def State.xferHeld (s : State) (q : Xfer) : Bool :=
  q.done || (q.timed && !q.begun) || s.circWaits (devOfDie q.die) q.id || (!q.timed && s.barred q.id q.team q.board) ||
  s.loadsBefore q
/-- A transfer has performed every write: what it wrote, what it read, and its faults, those of a timed send's reads among them, as
one faulted transfer (R287, R431); a step of a collective that meets a fault aborts it (R341). -/
def State.xferDone (s : State) (q : Xfer) (bs : List (Option Byte)) (x : EngRun) : State :=
  match q.kind, q.bad ++ x.faults with
  | .coll slot _, f :: _ =>
    let me := match s.team? q.team with | some t => (t.coll slot).me | none => 0
    ({ s with xfers := s.xfers.filter (·.id ≠ q.id) } : State).send (.collAbort q.team slot 4 f.cause me)
  | _, fs =>
    let s := s.modXfer q.id fun y =>
      { y with begun := true, done := true, wrote := x.wrote.eraseDups, data := bs, log := [], needs := none, feed := none, bad := [] }
    if fs.isEmpty then s else s.modXferGroup q fun g => g.record q.code fs
/-- A timed send that is due reads its source, as weak loads under R236, and joins its group's queue in circuit mode once it has read
it all (R423, R431); what it has read is kept while a sector lacks its token or a page its translation. -/
def State.sendRead (s : State) (q : Xfer) (len : Nat) : State :=
  let away := (s.team? q.team).any fun t => t.away && ptrSpace q.src = 1
  let from_ := match if away then s.loadImage q.team else .ok s with
    | .ok s => s
    | .error _ => s
  let r := ({ s := from_, old := q.log, feed := q.fed, byp := q.byp } : EngRun).read q.eng (ptrSpace q.src) 0 0 q.src len
  let s := if away then s else r.2.s
  if r.2.stall.isSome then
    s.modXfer q.id fun y => { y with log := r.2.log, needs := r.2.needs, feed := none, byp := r.2.byp }
  else
    let s := s.modXfer q.id fun y =>
      { y with unread := none, data := r.1, bad := r.2.faults, log := [], needs := none, feed := none, byp := [] }
    q.farGroups.foldl (fun s g => s.circJoin (devOfDie q.die) g q.id len) s
/-- A timed send becomes due (R431): its destination register is written, and it begins to read its source, whatever else its ranges
wait for. -/
def State.sendDue (s : State) (q : Xfer) (due len : Nat) (dst : RegNum) : State :=
  if q.begun || s.time < due then s
  else
    let s := s.modXfer q.id fun y => { y with begun := true, unread := some len }
    let s := s.inImage q.team fun s => s.modRegs q.gang fun x => x.setK dst.toNat q.geo1
    (s.repay q.gang q.id).sendRead q len
/-- COPY_TRANSFER_START (R283): the transfer runs sector by sector until it has ended, or until a sector lacks its tokens, a page
its translation or its flip has not ended (R268); what it has come to is kept. -/
def State.startXfer (s : State) (q : Xfer) : State :=
  if q.begun && q.unread.isSome then s.sendRead q (q.unread.getD 0)
  else if s.xferHeld q then s
  else if !q.begun && !q.farGroups.isEmpty && (s.dev (devOfDie q.die)).run then
    (q.farGroups.foldl (fun s g => s.circJoin (devOfDie q.die) g q.id (rcpyRows q.geo * rcpyLen q.geo)) s).modXfer q.id
      fun y => { y with begun := true }
  else
    let r := q.run s
    if r.2.stall.isNone then r.2.s.xferDone q r.1 r.2
    else r.2.s.modXfer q.id fun y =>
      { y with begun := true, log := r.2.log, needs := r.2.needs, feed := none, byp := r.2.byp }
/-- COPY_TRANSFER_RETIRE (R237, R283): the issuing core publishes and drops its L1 lines of what was written, and the
transfer leaves its group and the scoreboard; a collective goes on. -/
def State.retireXfer (s : State) (q : Xfer) : State :=
  if !q.done then s
  else
    let ls := (q.wrote.map lineOfSec).eraseDups
    let r := s.pubAll q.core ls
    if !r.1 then r.2
    else
      let s := ls.foldl (fun s l => (s.setL1 q.core (2 * l) {}).setL1 q.core (2 * l + 1) {}) r.2
      let out : State := { s with xfers := s.xfers.filter (·.id ≠ q.id) }
      match q.kind with
      | .coll slot act => (out.collRetire q.team slot act (q.data.map (·.getD 0))).getD s
      | _ => out.modXferGroup q fun g => { g with inflight := g.inflight - 1 }
end Machine
end Sys2Proof
end

