-- ==== Sys2Proof/Machine/Walks.lean ====
section
/-!
DEFINITION. The progress of walks (R193–R196, R213): what the end of one does, a walk of this or of another device, and those that
tokens arriving at a holder let go on (R256).
-/
namespace Sys2Proof
namespace Machine

/-- A gang's wait for a walk is over, in either slot. -/
def State.walkDone (s : State) (gid : Nat) : State := s.modGang gid fun g => g.wake .walk
/-- Counts the fault of a walk that a lane of a pass waited for (R380). -/
def State.fluxFault (s : State) (gid : Nat) : State :=
  s.modGang gid fun g => { g with fluxFaults := satInc g.fluxFaults }
/-- Whether a waiter of a walk is a lane of a flux load: its gang's words and the transfers have numbers below and above. -/
def fluxLaneWaiter (x : Nat) : Bool := 2 ^ 64 ≤ x && x < 2 ^ 66
/-- A walk ends (R193, R194): its entry is installed in the L2 TLB and in the L1 TLBs of the cores that wait; a fault is
left for the gangs and transfers that wait. -/
def State.endWalk (s : State) (w : Walk) (r : WalkRes) : State :=
  let gangs := ((w.waiters.filter (· < 2 ^ 66)).map (· % 2 ^ 64)).eraseDups
  let real := w.waiters.filter fun x => !fluxLaneWaiter x && (x < 2 ^ 64 || s.xfers.any fun q => xferWaiter q.id = x)
  let gone (s : State) : State := { s with walks := s.walks.filter (·.id ≠ w.id) }
  let s := match r with
    | .ok e =>
      let e := { e with at_ := s.time, fab := w.fab }
      let cores := (gangs.filterMap fun g => match s.gang? g with
        | some x => if x.resident then some (coreKey w.die x.core) else none
        | none => none).eraseDups
      gone (cores.foldl (fun s ck => s.installL1 ck e) (s.install w.die none e))
    | .flt k _ =>
      let hits := w.waiters.filter fun x => fluxLaneWaiter x && (x < 2 ^ 65 || k ≠ 2)
      let s := hits.foldl (fun s x => s.fluxFault (x % 2 ^ 64)) s
      if real.isEmpty then gone s
      else { s with walks := s.walks.map fun x => if x.id = w.id then { x with waiters := real, res := some r } else x }
  real.foldl (fun s g => s.walkDone g) s
/-- The die whose walkers serve a page for a die: its own, or on another device that of the same number, or the next that is not
fenced (R196, DESIGN CHOICE, log 82). -/
def State.walkDie (s : State) (dev di : Nat) : Nat :=
  if dev = devOfDie di then di
  else (((List.range 8).map fun i => 8 * dev + (di + i) % 8).find? fun d => !(s.die d).fenced).getD (8 * dev + di % 8)
/-- A walk goes on (R193, R213): a local one reads its tables through its die's L2, and goes on waiting while a sector of them
lacks its token there; one of another device ends with the outcome that came back (R196). -/
def State.advanceWalk (s : State) (w : Walk) : State :=
  if w.remote then
    match w.ans with
    | some r => s.endWalk w r
    | none => s
  else
    let r := s.walkReads w.die w.dev w.tenant w.page
    if r.1 then r.2.endWalk w (r.2.walk w.dev w.tenant w.page) else r.2
/-- The outcome of a walk request is on its way back. -/
def State.answerWalk (s : State) (id : Nat) (r : WalkRes) : State :=
  { s with walks := s.walks.map fun x => if x.id = id then { x with ans := some r } else x }
/-- A walk request at the target device (R196): one that waits in a circuit queue has not left its device (R423); otherwise the
target walks its tables, and the request stays while a sector of them lacks its token. -/
def State.remoteWalk (s : State) (w : Walk) : State :=
  if s.circWaits (devOfDie w.die) w.id then s.send (.remoteWalkRequest w.id)
  else
    let r := s.walkReads (s.walkDie w.dev w.die) w.dev w.tenant w.page
    if r.1 then r.2.answerWalk w.id (r.2.walk w.dev w.tenant w.page) else r.2.send (.remoteWalkRequest w.id)
/-- Whether a walk that has not ended reads a sector through a die's slice, or at the home for one that cannot cache it. -/
def State.walkWants (s : State) (w : Walk) (sec h : Nat) : Bool :=
  let di := if w.remote then s.walkDie w.dev w.die else w.die
  w.res.isNone && w.ans.isNone && secDev sec = w.dev && (h = homeH || di = dieOfHolder sec h) &&
    (s.walkPas w.dev w.tenant w.page).any fun pa => sectorOf w.dev pa = sec
/-- Walks that wait for a sector at a holder go on: those of a die itself, and those of other devices that it serves (R256). -/
def State.walksWaiting (s : State) (sec h : Nat) : State :=
  (s.walks.filter fun w => s.walkWants w sec h).foldl (fun s w =>
    if !w.remote then s.advanceWalk w
    else match s.take (.remoteWalkRequest w.id) with
      | some s => s.remoteWalk w
      | none => s) s

end Machine
end Sys2Proof
end

