-- ==== Sys2Proof/Machine/TokenEvents.lean ====
section
/-!
DEFINITION. The events of the token protocol (chapter 10): token requests and their answers, loss, clamps, recasts,
and the fencing of a die (R242–R261, R412).
-/
namespace Sys2Proof
namespace Machine

/-! ### Receiving a message -/

/-- Receives a message: it leaves the network and `f` acts on it; one that is not in flight has no effect (log 5). -/
def State.receive (s : State) (e : Ev) (f : State → State) : Out :=
  match s.take e with
  | some s => .next (f s)
  | none => .next s

/-! ### Holders (R242–R248) -/

/-- Counter key of the part that a holder of a sector belongs to (R261). -/
def partOfHolder (sec h : Nat) : Nat :=
  if h = homeH then partOfUnit (unitOf sec)
  else if h < 256 then dieOfHolder sec h
  else 16384 + 64 * secPod sec + (h - 256)
/-- Key of the hub of a host holder. -/
def hubOfHolder (sec h : Nat) : Nat := 64 * secPod sec + (h - 256)
/-- Whether a holder is on a fenced die (R412). -/
def State.holderFenced (s : State) (sec h : Nat) : Bool := (s.die (partOfHolder sec h)).fenced
/-- What any holder has of a sector, the home memory included. -/
def State.holdAny (s : State) (sec h : Nat) : Hold :=
  if h = homeH then
    let t := s.homeTokOf sec
    { count := t.1, owner := t.2, cast := (s.smetaOf sec).cast, data := s.memSec sec }
  else s.holdOf sec h
/-- A line of a die's L2 whose sectors have no tokens left is freed unless it is pinned (R205, R250). -/
def State.tidyLine (s : State) (di line : Nat) : State :=
  let h := holderOfDie di
  match Store.get none s.l2 (l2Key di line) with
  | some x =>
    if x.pin.isNone && (s.holdOf (2 * line) h).count = 0 && (s.holdOf (2 * line + 1) h).count = 0 then
      { s with l2 := Store.erase s.l2 (l2Key di line) }
    else s
  | none => s
/-- Replaces what a holder has of a sector; the home memory keeps no dirty flag. -/
def State.putAny (s : State) (sec h : Nat) (o : Hold) : State :=
  if h = homeH then s.setHomeTok sec (o.count, o.owner)
  else
    let s := s.setHold sec h o
    if h < 256 && o.count = 0 then s.tidyLine (dieOfHolder sec h) (lineOfSec sec) else s
/-- A holder sends `n` of its tokens, the owner token among them or not: TDAT when it holds the owner token, otherwise
TTOK (R248, R255). -/
def State.giveTokens (s : State) (sec h dest n : Nat) (own : Bool) : State :=
  let o := s.holdAny sec h
  let m : TokMsg := ⟨sec, dest, o.cast, n, own, own && o.dirty, h, s.time, if o.owner then o.data else 0⟩
  let rest : Hold :=
    if n = o.count then {} else { o with count := o.count - n, owner := o.owner && !own, dirty := o.dirty && !own }
  (s.putAny sec h rest).send (if o.owner then .tdat m else .ttok m)
/-- A holder sends every token it has (R248, R255). -/
def State.giveAll (s : State) (sec h dest : Nat) : State :=
  let o := s.holdAny sec h
  if o.count = 0 then s else s.giveTokens sec h dest o.count o.owner
/-- The answer of R248 to a transient request. -/
def State.answer (s : State) (sec h dest : Nat) (write : Bool) : State :=
  let o := s.holdAny sec h
  if write then s.giveAll sec h dest
  else if o.owner then s.giveTokens sec h dest 1 (o.count = 1)
  else s
/-- Whether a holder gives up tokens in the answer of R248. -/
def Hold.gives (o : Hold) (write : Bool) : Bool := if write then 0 < o.count else o.owner
/-- The clamp that stands at a holder for a sector (R255); the home unit knows its own (R256). -/
def State.standing (s : State) (sec h : Nat) : Option ClampEnt :=
  let u := unitOf sec
  if h = homeH then
    ((s.home u).active.filter fun a => a.req.sector = sec && !a.dea).map fun a => ⟨a.num, true, a.req.write, sec, a.req.req⟩
  else (Store.get none s.clampTab (u * 512 + h)).filter fun c => c.live && c.sector = sec

/-! ### Age and cast (R247, R261) -/

/-- What a loss report says of the owner token of a message. -/
def tokLoss (m : TokMsg) : OwnerLoss := if m.owner then (if m.dirty then .dirty else .clean) else .absent
/-- Counts a message discarded for age. -/
def State.countAged (s : State) (part : Nat) : State :=
  s.modDie part fun d => { d with aged := min (d.aged + 1) 0xFFFFFFFF }
/-- Counts a message discarded for its cast. -/
def State.countStale (s : State) (part : Nat) : State :=
  s.modDie part fun d => { d with stale := min (d.stale + 1) 0xFFFFFFFF }
/-- Whether a message is older than 20 µs. -/
def State.old (s : State) (m : TokMsg) : Bool := 20000 < s.time - m.sent
/-- The checks of R247 against the receiver's cast: the state after a discard, or `none` when the message is
accepted. -/
def State.discard (s : State) (m : TokMsg) (carries : Bool) (cast : Option (BitVec 8)) : Option State :=
  let part := partOfHolder m.sector m.dest
  if s.old m then
    let s := s.countAged part
    some (if carries then s.send (.lossReport m.sector m.cast (tokLoss m)) else s)
  else if cast.any fun c => c ≠ m.cast then some (s.countStale part)
  else none

/-! ### The host holder's recall (R264–R266) -/

/-- The host filter's count for a sector: 0, 1 or 256. -/
def Hub.filtered (b : Hub) (sec : Nat) : Nat := ((b.filter.find? (·.sector = sec)).map (·.count)).getD 0
/-- Replaces the filter entry of a sector; a count of 0 removes it. -/
def Hub.setFilter (b : Hub) (sec count order : Nat) : Hub :=
  let rest := b.filter.filter (·.sector ≠ sec)
  { b with filter := if count = 0 then rest else rest ++ [⟨sec, count, order⟩] }
/-- A request as its holder looks at it again, once what held it back has ended: its age does not count from its sending
(R247, log 81). -/
def Ev.fresh (now : Nat) : Ev → Ev
  | .trd m => .trd { m with sent := now }
  | .twr m => .twr { m with sent := now }
  | e => e
/-- Begins a recall, or leaves the message that asks for it waiting behind the recall in progress. -/
def State.beginRecall (s : State) (sec h : Nat) (shared : Bool) (cause : Option Ev) : State :=
  let k := hubOfHolder sec h
  if (s.hub k).recalls.any (·.sector = sec) then
    match cause with
    | some e => s.send (Ev.fresh s.time e)
    | none => s
  else s.modHub k fun b => { b with recalls := b.recalls ++ [⟨sec, shared, cause, s.time + 2000000⟩] }

/-- The host holder of a hub. -/
def hostHolder (hub : Nat) : Nat := hubHolder (hub / 2) (hub % 2)
/-- The least recently granted entry of a full filter is recalled first (R265). -/
def State.evictFilter (s : State) (hub : Nat) : State :=
  match (s.hub hub).filter with
  | [] => s
  | e :: rest =>
    let old := rest.foldl (fun a b => if b.order < a.order then b else a) e
    if (s.hub hub).recalls.any fun r => r.cause.isNone then s
    else s.beginRecall old.sector (hostHolder hub) false none

/-! ### TRD and TWR (R248, R250, R252) -/

/-- Before slice s of a home die answers for the home memory a request of another die, the cores that its filter marks publish
(R239, R242, R250). -/
def State.homeMarked (s : State) (sec req : Nat) : Bool × State :=
  match homeDie sec with
  | some di => if req = holderOfDie di || req = homeH then (true, s) else s.forcePublish di sec
  | none => (true, s)
/-- A token request reaches a holder (R247, R248): the cores that a die's scope filter marks publish first (R239, R250), and a
home unit in FLIP holds it (R268). -/
def State.onRequest (s : State) (e : Ev) (m : TokMsg) (write : Bool) : State :=
  if s.holderFenced m.sector m.dest then s
  else match s.discard m false (s.castOf m.sector m.dest) with
    | some s => s
    | none =>
      let held (s : State) : State := s.send (Ev.fresh s.time e)
      if m.dest = homeH then
        if (s.standing m.sector homeH).isSome then s
        else match s.secState m.sector with
          | .flip => held s
          | .recast => s
          | _ =>
            let r := s.homeMarked m.sector m.req
            if r.1 then r.2.answer m.sector homeH m.req write else held r.2
      else if m.dest < 256 then
        let di := dieOfHolder m.sector m.dest
        let r := (s.addHint di m.sector m.req).forcePublish di m.sector
        if !r.1 then held r.2
        else if (r.2.standing m.sector m.dest).isSome then r.2
        else r.2.answer m.sector m.dest m.req write
      else if (s.standing m.sector m.dest).isSome || !(s.holdOf m.sector m.dest).gives write then s
      else
        let n := (s.hub (hubOfHolder m.sector m.dest)).filtered m.sector
        if n = 0 then s
        else s.beginRecall m.sector m.dest (!write && n = 256) (some e)
/-- TRD (R248). -/
def execTrd (s : State) : Out :=
  match s.curEv with
  | some (.trd m) => s.receive (.trd m) fun s => s.onRequest (.trd m) m false
  | _ => .next s
/-- TWR (R248). -/
def execTwr (s : State) : Out :=
  match s.curEv with
  | some (.twr m) => s.receive (.twr m) fun s => s.onRequest (.twr m) m true
  | _ => .next s

/-! ### Tokens arrive (R244, R247, R256) -/

/-- A holder keeps the tokens of a message (R243). -/
def State.keepTokens (s : State) (m : TokMsg) (data : Bool) : State :=
  if m.dest = homeH then
    let t := s.homeTokOf m.sector
    let s := if m.owner && m.dirty then s.putMemSec m.sector m.data else s
    s.setHomeTok m.sector (t.1 + m.count, t.2 || m.owner)
  else
    let o := s.holdOf m.sector m.dest
    let s := s.setHold m.sector m.dest
      { count := o.count + m.count, owner := o.owner || m.owner, dirty := if m.owner then m.dirty else o.dirty,
        cast := m.cast, data := if data && (m.owner || !o.readable) then m.data else o.data,
        bare := !data && !o.readable }
    if m.dest < 256 then s.touchLine (dieOfHolder m.sector m.dest) (lineOfSec m.sector) false false else s
/-- Whether a holding satisfies a request (R248). -/
def Hold.satisfies (o : Hold) (write : Bool) : Bool := if write then o.count = 256 else o.readable
/-- Whether what the home memory has satisfies its own request (R262): a token and current data for a read. -/
def State.holdsFor (s : State) (sec h : Nat) (write : Bool) : Bool :=
  let o := s.holdAny sec h
  if h = homeH && !write then o.owner else o.satisfies write
/-- Removes the requests of a holder that are satisfied; those of a host holder only once its filter has the grant. -/
def State.dropMisses (s : State) (sec h : Nat) : State :=
  let waits : Bool := 256 ≤ h && h ≠ homeH && (s.hub (hubOfHolder sec h)).filtered sec = 0
  if waits then s
  else { s with misses := s.misses.filter fun m => !(m.holder = h && m.sector = sec && s.holdsFor sec h m.write) }
/-- The host takes what it asked for (R264): it keeps one token or all 256, and the surplus goes home. A grant that
finds the filter full waits for the recall of its least recent entry (R265). -/
def State.grantHost (s : State) (sec h : Nat) : State :=
  let k := hubOfHolder sec h
  let o := s.holdOf sec h
  let wants (w : Bool) : Bool := s.misses.any fun m => m.holder = h && m.sector = sec && m.write = w
  let full : Bool := (s.hub k).filtered sec = 0 && 2 ^ 20 ≤ (s.hub k).filter.length
  let home (s : State) (n : Nat) (own : Bool) : State :=
    if n = 0 then s
    else s.send (.tret ⟨sec, homeH, o.cast, n, own, own && o.dirty, h, s.time, if own && o.dirty then o.data else 0⟩)
  if wants true then
    if o.count ≠ 256 then s
    else if full then s.evictFilter k
    else s.modHub k fun b => b.setFilter sec 256 s.nextId
  else if wants false then
    if !o.readable then s
    else if full then s.evictFilter k
    else
      let keepOwner := o.count = 1 && o.owner
      let s := s.modHub k fun b => b.setFilter sec 1 s.nextId
      let s := s.setHold sec h { o with count := 1, owner := keepOwner, dirty := keepOwner && o.dirty }
      home s (o.count - 1) (o.owner && !keepOwner)
  else if (s.hub k).filtered sec = 0 then home (s.setHold sec h {}) o.count o.owner
  else s
/-- The cores whose publication of a sector waits for its tokens: those of a die, or any where the home memory is to take it. -/
def State.askers (s : State) (sec h : Nat) : List Nat :=
  s.cores.filterMap fun p =>
    let x : L1Sec := Store.get {} p.2.l1 sec
    if x.asked && x.dirty ≠ 0 && (h = homeH || p.1 / 48 = dieOfHolder sec h) then some p.1 else none
/-- Bytes whose publication waited are published, now that their tokens have come, and their marks in the scope filter go (R239);
what the sector's new bias or pins send elsewhere is asked for there. -/
def State.publishWaiting (s : State) (sec h : Nat) : State :=
  (s.askers sec h).foldl (fun s ck =>
    match s.pubSec ck sec with
    | some t => t.unmark ck (lineOfSec sec)
    | none => s.putOff ck sec) s
/-- Publishes what a fill meets in the scope filter; whether both sectors then have a token and data in the slice. -/
def State.fillReady (s : State) (f : Fill) : Bool × State :=
  [2 * f.line, 2 * f.line + 1].foldl (fun (acc : Bool × State) sec =>
    let p := acc.2.forcePublish f.die sec
    (acc.1 && p.1 && p.2.sliceHas f.die sec, p.2)) (true, s)
/-- A fill that can end: both sectors have a token and data in the slice. -/
def State.fillLine (s : State) (f : Fill) : State :=
  let secs := [2 * f.line, 2 * f.line + 1]
  let h := holderOfDie f.die
  if (s.die f.die).fenced || s.bypasses f.die f.line || secs.any fun x => s.hostBias (secDev x) (secPa x) then s
  else
    let r := s.fillReady f
    if r.1 then
      let s := r.2.touchLine f.die f.line f.stream f.persist
      match f.core with
      | none => s
      | some ck => secs.foldl (fun s sec => s.l1Fill ck (l1Key sec f.priv) (s.holdOf sec h).data f.stream) s
    else if s.misses.any fun m => m.holder = h && secs.contains m.sector then r.2.send (.lineFillComplete f)
    else r.2
/-- Lanes that wait at the home for a sector are performed there (R262). -/
def State.homeWaiting (s : State) (sec : Nat) : State :=
  let at_ (y : LaneAcc) : Bool := y.got.isNone && y.place = .home && y.loc.sec? = some sec
  (s.accesses.filter fun a => a.lanes.any at_ && !s.circWaits (devOfDie a.die) a.id).foldl (fun s a =>
    let r := s.farLanes at_ a
    (r.1.setAccess r.2).reportAccess r.2) s
/-- Transfers that wait for the tokens of a sector at a holder go on (R256). -/
def State.xfersWaiting (s : State) (sec h : Nat) : State :=
  (s.xfers.filter fun q => q.needs = some (h, sec)).foldl (fun s q => s.startXfer q) s
/-- A fill that waits for a sector of a die's slice brings it to its L1 (R210). -/
def State.fillsWaiting (s : State) (sec h : Nat) : State :=
  let o := s.holdOf sec h
  if !o.readable then s
  else s.net.foldl (fun s e => match e with
    | .lineFillComplete f => (match f.core with
      | some ck => if f.die = dieOfHolder sec h && f.line = lineOfSec sec then s.l1Fill ck sec o.data f.stream else s
      | none => s)
    | _ => s) s
/-- Words that wait to read a sector in a die's slice, or at the home, have read it (R256). -/
def State.wordsWaiting (s : State) (sec h : Nat) : State :=
  let o := s.holdAny sec h
  let here (g : Gang) : Bool := h = homeH || (s.team? g.team).any fun t => t.die = dieOfHolder sec h
  if (if h = homeH then o.owner else o.readable) then
    { s with gangs := s.gangs.map fun p => (p.1, p.2.map fun g => if here g then g.sees (eyeKey sec h) o.data else g) }
  else s
/-- What waited for tokens at a holder is performed: accesses in the slice or at the home, the reads of words and walks, fills,
publications and transfers, and what the host asked for; under a clamp CLDONE follows (R256). -/
def State.serve (s : State) (sec h : Nat) : State :=
  let s := if h < 256 then ((s.bindWaiting (dieOfHolder sec h) sec).fillsWaiting sec h) else if h = homeH then s
    else s.grantHost sec h
  let s := if h = homeH || (homeDie sec).any fun d => holderOfDie d = h then s.homeWaiting sec else s
  let s := if h < 256 || h = homeH then (s.wordsWaiting sec h).walksWaiting sec h else s
  let s := if (h < 256 || h = homeH) && (s.holdAny sec h).count = 256 then s.publishWaiting sec h else s
  let s := (s.xfersWaiting sec h).dropMisses sec h
  match s.standing sec h with
  | some c =>
    let e : Ev := .cldone ⟨unitOf sec, c.num, sec, c.req, c.write, h⟩
    if c.req = h && s.holdsFor sec h c.write && !s.net.contains e then s.send e else s
  | none => s
/-- Tokens of a line that has no place in a die's fully pinned set go home once nothing there waits for them (R206). -/
def State.noPlace (s : State) (sec h : Nat) : State :=
  if h < 256 && s.bypasses (dieOfHolder sec h) (lineOfSec sec) && (s.standing sec h).isNone &&
      !(s.misses.any fun x => x.holder = h && x.sector = sec) then s.retTokens (dieOfHolder sec h) sec
  else s
/-- TDAT or TTOK reaches its receiver (R247, R255, R256); a die keeps no token of a page in host bias, whose tokens are the
home memory's (R267). -/
def State.onTokens (s : State) (m : TokMsg) (data : Bool) : State :=
  if s.holderFenced m.sector m.dest then s
  else match s.discard m true (s.castOf m.sector m.dest) with
    | some s => s
    | none =>
      let s := if m.dest < 256 then s.addHint (dieOfHolder m.sector m.dest) m.sector m.req else s
      let pass (dest : Nat) : TokMsg := { m with dest := dest, req := m.dest, sent := s.time }
      let read (x : Miss) : Bool := x.holder = homeH && x.sector = m.sector && !x.write
      let keep (s : State) : State :=
        let s := s.keepTokens m data
        let s := if data && m.dest = homeH then
            { s.homeData m.sector m.data with misses := s.misses.filter fun x => !read x } else s
        (s.serve m.sector m.dest).noPlace m.sector m.dest
      match s.standing m.sector m.dest with
      | some c => if c.req = m.dest then keep s else s.send (if data then .tdat (pass c.req) else .ttok (pass c.req))
      | none =>
        if m.dest < 256 && s.hostBias (secDev m.sector) (secPa m.sector) then s.send (.tret (pass homeH))
        else if !data && m.dest ≠ homeH && !(s.holdOf m.sector m.dest).readable &&
            !(s.misses.any fun x => x.holder = m.dest && x.sector = m.sector && x.write) then
          s.send (.tret (pass homeH))
        else keep s
/-- TDAT (R247). -/
def execTdat (s : State) : Out :=
  match s.curEv with
  | some (.tdat m) => s.receive (.tdat m) fun s => s.onTokens m true
  | _ => .next s
/-- TTOK (R247). -/
def execTtok (s : State) : Out :=
  match s.curEv with
  | some (.ttok m) => s.receive (.ttok m) fun s => s.onTokens m false
  | _ => .next s
/-- The home unit serves a standing clamp: its own, or with every token for a requester that is not fenced (R255). -/
def State.serveClamp (s : State) (sec : Nat) (c : ClampEnt) : State :=
  if c.req = homeH then s.serve sec homeH else if s.holderFenced sec c.req then s else s.giveAll sec homeH c.req
/-- TRET at the home memory (R244): dirty data is written before the tokens count; under an active clamp they go on to
its requester (R255). -/
def State.onReturn (s : State) (m : TokMsg) : State :=
  if s.homeFenced m.sector then s
  else match s.discard m true (s.castOf m.sector homeH) with
  | some s => s
  | none =>
    let s := s.keepTokens { m with dest := homeH } true
    match s.standing m.sector homeH with
    | some c => s.serveClamp m.sector c
    | none => s.serve m.sector homeH
/-- TRET (R244). -/
def execTret (s : State) : Out :=
  match s.curEv with
  | some (.tret m) => s.receive (.tret m) fun s => s.onReturn m
  | _ => .next s

/-! ### Recasting (R257–R260) -/

/-- The holders of a sector that clamps and recasts address: the dies of the pod that are not fenced, and the host
holders of the home device (R255, R259). -/
def State.peersOf (s : State) (sec : Nat) : List Nat :=
  ((List.range 256).filter fun h => !s.holderFenced sec h) ++ [hubHolder (secDev sec) 0, hubHolder (secDev sec) 1]
/-- A recast message of the home unit. -/
def recastMsg (sec dest : Nat) (cast : BitVec 8) (now : Nat) : TokMsg := ⟨sec, dest, cast, 0, false, false, homeH, now, 0⟩
/-- Whether a home unit may begin a recast of a sector (R258, R260). -/
def State.mayRecast (s : State) (sec : Nat) : Bool :=
  let u := s.home (unitOf sec)
  let t := Store.get 0 s.trecAt sec
  !s.homeFenced sec && u.recast.isNone && u.done.isNone && u.relAt ≤ s.time && (t = 0 || t - 1 + 48000 ≤ s.time)
/-- Begins a recast (R259 steps 1 and 2); the reports of the replaced cast that were held back say what they say of the owner
token (step 6). -/
def State.startRecast (s : State) (sec : Nat) (clean : Bool) : State :=
  let u := unitOf sec
  let old := (s.smetaOf sec).cast
  let t := s.homeTokOf sec
  let said (x : HeldLoss) : Bool := x.sector = sec && x.cast = old
  let clean := clean || (s.home u).held.any fun x => said x && x.owner = .clean
  let s := s.modHome u fun x => { x with held := x.held.filter fun y => !said y }
  let s := s.modSmeta sec fun x => { x with cast := old + 1 }
  let s := s.setHomeTok sec (0, false)
  let s := s.modDie (partOfUnit u) fun d => { d with recasts := min (d.recasts + 1) 0xFFFFFFFF }
  let s := { s with trecAt := Store.set 0 s.trecAt sec (s.time + 1) }
  let r : Recast := { sector := sec, old := old, first := s.time, lastTx := s.time, tokens := t.1, owner := t.2, clean := clean }
  let s := s.modHome u fun x => { x with recast := some r }
  { s with net := s.net ++ (s.peersOf sec).map fun h => Ev.trec (recastMsg sec h (old + 1) s.time) }
/-- Ends a recast once every holder has answered or been fenced (R259 steps 5 to 7); a clamp that stands is served again, and is done
when its requester says so after that, or has been fenced. -/
def State.tryEndRecast (s : State) (u : Nat) : State :=
  match (s.home u).recast with
  | none => s
  | some r =>
    let ps := s.peersOf r.sector
    if ps.all r.answers.contains then
      let s := if r.owner && r.dirty then s.putMemSec r.sector r.data else s
      let pois := !r.owner && !r.clean
      let s := if pois then
          (s.modSmeta r.sector fun x => { x with pois := true }).modDie (partOfUnit u) fun d =>
            { d with poisoned := min (d.poisoned + 1) 0xFFFF }
        else s
      let s := s.setHomeTok r.sector (256, true)
      let s := s.modHome u fun x =>
        { x with recast := none, done := some { r with lastTx := s.time, acks := [] } }
      let s := { s with net := s.net ++ ps.map fun h => Ev.trdone (recastMsg r.sector h (r.old + 1) s.time) }
      match s.standing r.sector homeH with
      | some c =>
        let s := s.modHome u fun x => { x with active := x.active.map fun a => { a with at_ := s.time, done := false } }
        s.serveClamp r.sector c
      | none => s
    else s
/-- Releases a home unit from its recast once every holder has acknowledged TRDONE or been fenced (R260). -/
def State.tryRelease (s : State) (u : Nat) : State :=
  match (s.home u).done with
  | none => s
  | some r =>
    if (s.peersOf r.sector).all r.acks.contains then
      s.modHome u fun x => { x with done := none, relAt := s.time + 21000 }
    else s
/-- LOSS_REPORT (R257). -/
def execLossReport (s : State) : Out :=
  match s.curEv with
  | some (.lossReport sec cast o) => s.receive (.lossReport sec cast o) fun s =>
    let u := unitOf sec
    match s.secState sec with
    | .recast => s.modHome u fun x => { x with recast := x.recast.map fun r =>
        if r.old = cast && o = .clean then { r with clean := true } else r }
    | st =>
      if (s.smetaOf sec).cast ≠ cast then s
      else if (st = .idle || st = .active) && s.mayRecast sec then s.startRecast sec (o = .clean)
      else s.modHome u fun x => { x with held := x.held ++ [⟨sec, cast, o⟩] }
  | _ => .next s
/-- A clamp that has stood 40 µs without CLDONE starts a recast (R258). -/
def State.stallRecast (s : State) (u : Nat) : State :=
  match (s.home u).active with
  | some a =>
    if !a.dea && !a.done && a.at_ + 40000 ≤ s.time && s.secState a.req.sector = .active && s.mayRecast a.req.sector then
      s.startRecast a.req.sector false
    else s
  | none => s
/-- CLAMP_STALL_TIMEOUT (R258). -/
def execClampStallTimeout (s : State) : Out :=
  match s.curEv with
  | some (.clampStallTimeout u) => .next (s.stallRecast u)
  | _ => .next s
/-- RECAST_BOUND_RELEASE (R257, R258): the first held report whose sector is idle or active is looked at again. -/
def execRecastBoundRelease (s : State) : Out :=
  match s.curEv with
  | some (.recastBoundRelease u) =>
    let free (h : HeldLoss) : Bool := s.secState h.sector = .idle || s.secState h.sector = .active
    match (s.home u).held.find? free with
    | some h =>
      let s' := s.modHome u fun x => { x with held := x.held.erase h }
      if (s.smetaOf h.sector).cast ≠ h.cast then .next s'
      else if s.mayRecast h.sector then .next (s'.startRecast h.sector (h.owner = .clean))
      else .next s
    | none => .next (s.stallRecast u)
  | _ => .next s

/-- A holder surrenders its tokens of the replaced cast in TRCA and takes a fence entry (R259 step 3, R260). -/
def State.surrenderCast (s : State) (m : TokMsg) : State :=
  let o := s.holdOf m.sector m.dest
  let old := m.cast - 1
  let mine := o.count ≠ 0 && o.cast = old
  let s := if mine then s.putAny m.sector m.dest {} else s
  let k := m.sector * 512 + m.dest
  let s := { s with recastAct := Store.set 0 s.recastAct k (m.cast.toNat + 1) }
  let s := if 256 ≤ m.dest then s.modHub (hubOfHolder m.sector m.dest) fun b => b.setFilter m.sector 0 0 else s
  let s := { s with fences := Store.set none s.fences k (some ⟨m.cast, none⟩) }
  s.send (.trca ⟨m.sector, homeH, old, if mine then o.count else 0, mine && o.owner, mine && o.dirty, m.dest, s.time,
    if mine && o.owner then o.data else 0⟩)
/-- Whether a holder has acted on the recast to a cast: the last one that it acted on or one of the 127 before it (R247, log 67). -/
def State.acted (s : State) (sec h : Nat) (cast : BitVec 8) : Bool :=
  let last := Store.get 0 s.recastAct (sec * 512 + h)
  last ≠ 0 && (BitVec.ofNat 8 (last - 1) - cast).toNat < 128
/-- TREC at a holder (R259 step 3): one that it has acted on is answered again with no tokens, even when its fence entry has been
freed or a later recast has begun since (DEDUCED, log 67), and a host holder first recalls the host's copy (R266). -/
def State.onRecast (s : State) (m : TokMsg) : State :=
  if s.holderFenced m.sector m.dest then s
  else if s.acted m.sector m.dest m.cast then
    s.send (.trca ⟨m.sector, homeH, m.cast - 1, 0, false, false, m.dest, s.time, 0⟩)
  else if 256 ≤ m.dest && (s.hub (hubOfHolder m.sector m.dest)).filtered m.sector ≠ 0 then
    s.beginRecall m.sector m.dest false (some (.trec m))
  else s.surrenderCast m
/-- TREC (R259). -/
def execTrec (s : State) : Out :=
  match s.curEv with
  | some (.trec m) => s.receive (.trec m) fun s => s.onRecast m
  | _ => .next s
/-- TRCA (R259): checked for its age and against the cast that the recast replaces; with no such recast no cast is right
(R247). -/
def execTrca (s : State) : Out :=
  match s.curEv with
  | some (.trca m) => s.receive (.trca m) fun s =>
    let u := unitOf m.sector
    let stray (s : State) : State := (s.discard m true (some (m.cast + 1))).getD s
    match (s.home u).recast with
    | some r =>
      if r.sector ≠ m.sector then stray s
      else match s.discard m true (some r.old) with
        | some s => s
        | none =>
          let dirty := m.owner && m.dirty
          let r' := { r with answers := if r.answers.contains m.req then r.answers else m.req :: r.answers,
                             tokens := r.tokens + m.count, owner := r.owner || m.owner, dirty := r.dirty || dirty,
                             data := if dirty then m.data else r.data }
          (s.modHome u fun x => { x with recast := some r' }).tryEndRecast u
    | none => stray s
  | _ => .next s
/-- TREC_RESEND (R259 step 4). -/
def execTrecResend (s : State) : Out :=
  match s.curEv with
  | some (.trecResend u) =>
    match (s.home u).recast with
    | some r =>
      if r.lastTx + 10000 ≤ s.time then
        let late := (s.peersOf r.sector).filter fun h => !r.answers.contains h
        let s := s.modHome u fun x => { x with recast := some { r with lastTx := s.time } }
        let s := { s with trecAt := Store.set 0 s.trecAt r.sector (s.time + 1) }
        .next { s with net := s.net ++ late.map fun h => Ev.trec (recastMsg r.sector h (r.old + 1) s.time) }
      else .next s
    | none => .next s
  | _ => .next s
/-- TRDONE (R260). -/
def execTrdone (s : State) : Out :=
  match s.curEv with
  | some (.trdone m) => s.receive (.trdone m) fun s =>
    if s.holderFenced m.sector m.dest then s
    else
      let k := m.sector * 512 + m.dest
      let s := match Store.get none s.fences k with
        | some f =>
          let t := Store.set none s.fences k (some { f with till := some (s.time + 20000) })
          if f.cast = m.cast && f.till.isNone then { s with fences := t } else s
        | none => s
      s.send (.trdack { m with dest := homeH, req := m.dest, sent := s.time })
  | _ => .next s
/-- TRDACK (R260). -/
def execTrdack (s : State) : Out :=
  match s.curEv with
  | some (.trdack m) => s.receive (.trdack m) fun s =>
    let u := unitOf m.sector
    match (s.home u).done with
    | some r =>
      if r.sector = m.sector && r.old + 1 = m.cast then
        let acks := if r.acks.contains m.req then r.acks else m.req :: r.acks
        (s.modHome u fun x => { x with done := some { r with acks := acks } }).tryRelease u
      else s
    | none => s
  | _ => .next s
/-- TRDONE_RESEND (R260). -/
def execTrdoneResend (s : State) : Out :=
  match s.curEv with
  | some (.trdoneResend u) =>
    match (s.home u).done with
    | some r =>
      if r.lastTx + 10000 ≤ s.time then
        let late := (s.peersOf r.sector).filter fun h => !r.acks.contains h
        let s := s.modHome u fun x => { x with done := some { r with lastTx := s.time } }
        .next { s with net := s.net ++ late.map fun h => Ev.trdone (recastMsg r.sector h (r.old + 1) s.time) }
      else .next s
    | none => .next s
  | _ => .next s
/-- RECAST_FENCE_EXPIRY (R260). -/
def execRecastFenceExpiry (s : State) : Out :=
  match s.curEv with
  | some (.recastFenceExpiry h sec) =>
    let k := sec * 512 + h
    match Store.get none s.fences k with
    | some f =>
      if f.till.any fun t => t ≤ s.time then .next { s with fences := Store.erase s.fences k } else .next s
    | none => .next s
  | _ => .next s

/-! ### Attempts and clamps (R251–R256) -/

/-- TRANSIENT_ATTEMPT_TIMEOUT (R251): a request that its holder's tokens now satisfy is served instead. -/
def execTransientAttemptTimeout (s : State) : Out :=
  match s.curEv with
  | some (.transientAttemptTimeout h sec) =>
    match s.misses.find? fun m => m.holder = h && m.sector = sec && s.holdsFor sec h m.write with
    | some _ => .next (s.serve sec h)
    | none =>
      match s.misses.find? fun m => m.holder = h && m.sector = sec && !m.clamped && m.attempt < 3 &&
          m.sent + (if m.far then 1500 else 1000) ≤ s.time && s.time < m.first + 4000 with
      | some m =>
        let n := m.attempt + 1
        let m' := { m with attempt := n, sent := s.time, far := farSet h sec (s.requestSet h sec n) }
        let s := { s with misses := s.misses.map fun x => if x = m then m' else x }
        .next (s.sendAttempt h sec m.write n)
      | none => .next s
  | _ => .next s
/-- The clamp request of a starving request (R253). -/
def Miss.clamp (m : Miss) : ClampMsg := ⟨unitOf m.sector, 0, m.sector, m.holder, m.write, m.holder⟩
/-- CLAMP_RAISE_BOUND (R251); a fill of a flux pass is abandoned instead (R380). -/
def execClampRaiseBound (s : State) : Out :=
  match s.curEv with
  | some (.clampRaiseBound h sec) =>
    match s.misses.find? fun m => m.holder = h && m.sector = sec && !m.clamped && !s.holdsFor sec h m.write &&
        (m.first + 4000 ≤ s.time || (m.attempt = 3 && m.sent + (if m.far then 1500 else 1000) ≤ s.time)) with
    | some m =>
      if m.flux then .next { s with misses := s.misses.erase m }
      else
        let up := s.misses.map fun x => if x = m then { m with clamped := true, sent := s.time } else x
        .next (({ s with misses := up } : State).send (.clmp m.clamp))
    | none => .next s
  | _ => .next s
/-- Whether a home unit has a clamp request queued, in its batch, or active. -/
def HomeUnit.knows (u : HomeUnit) (q : ClampReq) : Bool :=
  u.queue.contains q || u.batch.contains q || u.active.any fun a => a.req = q
/-- CLMP (R253): queued, or refused when the queue is full; one already known is not queued twice (R247). -/
def execClmp (s : State) : Out :=
  match s.curEv with
  | some (.clmp m) => s.receive (.clmp m) fun s =>
    let u := s.home m.unit
    let q : ClampReq := ⟨m.sector, m.req, m.write⟩
    if u.knows q || 64 ≤ u.queue.length then s
    else s.modHome m.unit fun u => { u with queue := u.queue ++ [q] }
  | _ => .next s
/-- A raised clamp that its home unit does not know of. -/
def State.clampLost (s : State) (m : Miss) : Bool :=
  m.clamped && !(s.home (unitOf m.sector)).knows ⟨m.sector, m.holder, m.write⟩ && !s.net.contains (.clmp m.clamp)
/-- CLMP_RETRY (R253). -/
def execClmpRetry (s : State) : Out :=
  match s.curEv with
  | some (.clmpRetry h sec) =>
    match s.misses.find? fun m => m.holder = h && m.sector = sec && s.clampLost m && m.sent + 1000 ≤ s.time with
    | some m =>
      let s := { s with misses := s.misses.map fun x => if x = m then { m with sent := s.time } else x }
      .next (s.send (.clmp m.clamp))
    | none => .next s
  | _ => .next s
/-- The number under which a requester is served: the home unit has that of its home die, and one of the second tier that of its
hub's host holder, which R262 does not give (DESIGN CHOICE, log 70) (R254, R262). -/
def clampRank (q : ClampReq) : Nat :=
  if q.req = homeH then
    (if homePlace q.sector < 8 then secDev q.sector % 32 * 8 + homePlace q.sector
     else hubHolder (secDev q.sector) (homePlace q.sector - 8))
  else q.req
/-- Puts a clamp among those of its sector, in ascending requester number. -/
def insertClamp (q : ClampReq) : List ClampReq → List ClampReq
  | [] => [q]
  | x :: rest => if clampRank q < clampRank x then q :: x :: rest else x :: insertClamp q rest
/-- The order of a batch (R254): sectors by first arrival, then requesters ascending. -/
def batchOrder (qs : List ClampReq) : List ClampReq :=
  ((qs.map (·.sector)).eraseDups).flatMap fun sec => (qs.filter (·.sector = sec)).foldr insertClamp []
/-- Activates a clamp (R255): the home memory gives its tokens as the holders do. -/
def State.activate (s : State) (u : Nat) (q : ClampReq) (rest : List ClampReq) : State :=
  let n := (s.home u).next + 1
  let s := s.modHome u fun x =>
    { x with batch := rest, next := n, active := some { num := n, req := q, at_ := s.time } }
  let s := s.modDie (partOfUnit u) fun d => { d with clamps := min (d.clamps + 1) 0xFFFF }
  let s := { s with net := s.net ++ (s.peersOf q.sector).map fun h => Ev.clact ⟨u, n, q.sector, q.req, q.write, h⟩ }
  if q.req = homeH then s.serve q.sector homeH else s.giveAll q.sector homeH q.req
/-- CLAMP_BATCH_SELECT (R254): the batch is taken when none is being served, and its first clamp is activated when its
sector is idle. -/
def execClampBatchSelect (s : State) : Out :=
  match s.curEv with
  | some (.clampBatchSelect u) =>
    let x := s.home u
    if x.active.isSome then .next s
    else
      let batch := if x.batch.isEmpty then batchOrder x.queue else x.batch
      let queue := if x.batch.isEmpty then [] else x.queue
      match batch with
      | [] => .next s
      | q :: rest =>
        if s.secState q.sector ≠ .idle || s.homeFenced q.sector then .next s
        else .next ((s.modHome u fun x => { x with queue := queue }).activate u q rest)
  | _ => .next s
/-- CLACT at a holder (R255): it records the clamp, sends every token to the requester and answers. -/
def State.onClamp (s : State) (m : ClampMsg) : State :=
  let k := m.unit * 512 + m.peer
  let s := { s with clampTab := Store.set none s.clampTab k (some ⟨m.num, true, m.write, m.sector, m.req⟩) }
  let s := if m.req = m.peer then s else s.giveAll m.sector m.peer m.req
  let s := if 256 ≤ m.peer && m.req ≠ m.peer then
      s.modHub (hubOfHolder m.sector m.peer) fun b => b.setFilter m.sector 0 0 else s
  (if m.req = m.peer then s.serve m.sector m.peer else s).send (Ev.clack m false)
/-- CLACT (R255): one that the holder has acted on is only answered again, and a host holder first recalls the host's
copy (R266). -/
def execClact (s : State) : Out :=
  match s.curEv with
  | some (.clact m) => s.receive (.clact m) fun s =>
    if s.holderFenced m.sector m.peer then s
    else if (Store.get none s.clampTab (m.unit * 512 + m.peer)).any fun c => m.num ≤ c.num then s.send (Ev.clack m false)
    else if 256 ≤ m.peer && m.req ≠ m.peer && (s.hub (hubOfHolder m.sector m.peer)).filtered m.sector ≠ 0 then
      s.beginRecall m.sector m.peer false (some (.clact m))
    else s.onClamp m
  | _ => .next s
/-- Deactivates a clamp once CLDONE and every CLACK have come, or ends it once every CLACK for CLDEA has (R256). -/
def State.tryUnclamp (s : State) (u : Nat) : State :=
  match (s.home u).active with
  | none => s
  | some a =>
    let ps := s.peersOf a.req.sector
    if !ps.all a.acks.contains then s
    else if a.dea then s.modHome u fun x => { x with active := none }
    else if (a.done || s.holderFenced a.req.sector a.req.req) && s.secState a.req.sector = .active then
      let s := s.modHome u fun x => { x with active := some { a with dea := true, acks := [] } }
      { s with net := s.net ++ ps.map fun h => Ev.cldea ⟨u, a.num, a.req.sector, a.req.req, a.req.write, h⟩ }
    else s
/-- CLACK (R256). -/
def execClack (s : State) : Out :=
  match s.curEv with
  | some (.clack m dea) => s.receive (.clack m dea) fun s =>
    match (s.home m.unit).active with
    | some a =>
      if a.num = m.num && a.dea = dea then
        let acks := if a.acks.contains m.peer then a.acks else m.peer :: a.acks
        (s.modHome m.unit fun x => { x with active := some { a with acks := acks } }).tryUnclamp m.unit
      else s
    | none => s
  | _ => .next s
/-- CLDONE (R256). -/
def execCldone (s : State) : Out :=
  match s.curEv with
  | some (.cldone m) => s.receive (.cldone m) fun s =>
    match (s.home m.unit).active with
    | some a =>
      if a.num = m.num then
        (s.modHome m.unit fun x => { x with active := some { a with done := true } }).tryUnclamp m.unit
      else s
    | none => s
  | _ => .next s
/-- CLDEA (R256): in host bias the tokens that a die gathered under the clamp go home (R267). -/
def execCldea (s : State) : Out :=
  match s.curEv with
  | some (.cldea m) => s.receive (.cldea m) fun s =>
    if s.holderFenced m.sector m.peer then s
    else
      let k := m.unit * 512 + m.peer
      let s := match Store.get none s.clampTab k with
        | some c =>
          let t := Store.set none s.clampTab k (some { c with live := false })
          if c.num = m.num then { s with clampTab := t } else s
        | none => s
      let s := if m.peer < 256 && s.hostBias (secDev m.sector) (secPa m.sector) then
          s.retTokens (dieOfHolder m.sector m.peer) m.sector else s
      s.send (Ev.clack m true)
  | _ => .next s
/-- Whether a clamp control message still awaits its answer (R465). -/
def State.unanswered (s : State) (k : CtlKind) (m : ClampMsg) : Bool :=
  let a := (s.home m.unit).active
  match k with
  | .clmp => (s.misses.any fun x => x.clamped && x.clamp = m) && !(a.any fun a => a.req = ⟨m.sector, m.req, m.write⟩)
  | .clact => a.any fun a => a.num = m.num && !a.dea && !a.acks.contains m.peer &&
      m = ⟨m.unit, a.num, a.req.sector, a.req.req, a.req.write, m.peer⟩ && (s.peersOf m.sector).contains m.peer
  | .cldea => a.any fun a => a.num = m.num && a.dea && !a.acks.contains m.peer &&
      m = ⟨m.unit, a.num, a.req.sector, a.req.req, a.req.write, m.peer⟩ && (s.peersOf m.sector).contains m.peer
  | .cldone => m.unit = unitOf m.sector && m.peer = m.req && s.holdsFor m.sector m.req m.write &&
      ((s.standing m.sector m.req).any fun c => c.num = m.num && c.req = m.req && c.write = m.write)
/-- CONTROL_MESSAGE_RESEND (R465). -/
def execControlMessageResend (s : State) : Out :=
  match s.curEv with
  | some (.controlMessageResend k m) =>
    let e : Ev := match k with
      | .clmp => .clmp m
      | .clact => .clact m
      | .cldea => .cldea m
      | .cldone => .cldone m
    .next (if s.unanswered k m then s.send e else s)
  | _ => .next s

/-! ### A fenced die (R259, R412) -/

/-- Stores whose bytes still lay dirty in a core's L1 sector are dropped, each team's logged with its first pointer (R412). -/
def State.dropStores (s : State) (x : L1Sec) : State :=
  if x.dirty = 0 then s else x.writers.foldl (fun s w => s.logStore w.1 w.2) s
/-- Every core drops what its L1 holds of sectors homed on a fenced die, private lines included: dirty bytes are stores that the
home has not performed (R412). -/
def State.dropHomed (s : State) : State :=
  s.cores.foldl (fun s k =>
    k.2.l1.foldl (fun s e =>
      if s.homeFenced (if e.2.priv then e.1 - 2 ^ 50 else e.1) then (s.dropStores e.2).setL1 k.1 e.1 {} else s) s) s
/-- Fences a die: its teams end by trap, what it had in flight is gone, and each of its holdings is reported lost. -/
def State.fenceDie (s : State) (di : Nat) : State :=
  if (s.die di).fenced then s
  else
    let s := s.modDie di fun d => { d with fenced := true }
    let h := holderOfDie di
    let mine := s.hold.filter fun p => p.1 % 512 = h && secPod (p.1 / 512) = di / 256
    let s := mine.foldl (fun s p =>
      (s.setHold (p.1 / 512) h {}).send (.lossReport (p.1 / 512) p.2.cast
        (if p.2.owner then (if p.2.dirty then .dirty else .clean) else .absent))) s
    let s := { s with l2 := s.l2.filter (·.1 / 2 ^ 48 ≠ di), misses := s.misses.filter (fun m =>
                        !(m.holder = h && secPod m.sector = di / 256)),
                      accesses := s.accesses.filter (·.die ≠ di), walks := s.walks.filter (·.die ≠ di),
                      xfers := s.xfers.filter (·.die ≠ di), mats := s.mats.filter (·.core / 48 ≠ di),
                      cores := s.cores.filter (·.1 / 48 ≠ di) }
    let s := (s.spoil fun _ y => match y.loc.sec? with | some sec => s.homeFenced sec | none => false).dropHomed
    let s := (s.teamList.filter fun p => p.2.die = di && p.2.state ≠ .exited).foldl (fun s p => s.closeTeam p.1 5 0 0 s.time) s
    (s.homes.map (·.1)).foldl (fun s u => ((s.tryEndRecast u).tryRelease u).tryUnclamp u) s
/-- RECAST_ANSWER_TIMEOUT (R259 step 4). -/
def execRecastAnswerTimeout (s : State) : Out :=
  match s.curEv with
  | some (.recastAnswerTimeout u) =>
    match (s.home u).recast with
    | some r =>
      if r.first + 40000 ≤ s.time then
        let silent := (s.peersOf r.sector).filter fun h => h < 256 && !r.answers.contains h
        .next (silent.foldl (fun s h => s.fenceDie (dieOfHolder r.sector h)) s)
      else .next s
    | none => .next s
  | _ => .next s
/-- DIE_INTERNAL_ERROR (R412). -/
def execDieInternalError (s : State) : Out :=
  match s.curEv with
  | some (.dieInternalError di) => .next (if di < 16384 then s.fenceDie di else s)
  | _ => .next s
/-- UNCORRECTABLE_SECTOR_ERROR (R19, R411). -/
def execUncorrectableSectorError (s : State) : Out :=
  match s.curEv with
  | some (.uncorrectableSectorError sec) =>
    .next (if backed (secPa sec) then s.modSmeta sec fun x => { x with pois := true } else s)
  | _ => .next s

end Machine
end Sys2Proof
end

