-- ==== Sys2Proof/Machine/MemEvents.lean ====
section
/-!
DEFINITION. The events of accesses, translation, fills and publication (chapters 08, 09), of a gang's timed waits (R224,
R363), and of flux passes (R375, R383).
-/
namespace Sys2Proof
namespace Machine

/-! ### Accesses return (R189, R227, R262) -/

/-- The completion of an access reaches its core: its destinations are written, it leaves the machine, and its waiters
may go on. -/
def State.completeAccess (s : State) (id : Nat) : State :=
  match s.accesses.find? (·.id = id) with
  | none => s
  | some a =>
    if !a.bound then s
    else (({ s.finish a with accesses := s.accesses.filter (·.id ≠ id) } : State)).repay a.gang id
/-- LOAD_DATA_RETURN (R189). -/
def execLoadDataReturn (s : State) : Out :=
  match s.curEv with
  | some (.loadDataReturn id) => s.receive (.loadDataReturn id) fun s => s.completeAccess id
  | _ => .next s
/-- STORE_PERFORMED (R227). -/
def execStorePerformed (s : State) : Out :=
  match s.curEv with
  | some (.storePerformed id) => s.receive (.storePerformed id) fun s => s.completeAccess id
  | _ => .next s
/-- HOME_ACCESS_REQUEST (R262). -/
def execHomeAccessRequest (s : State) : Out :=
  match s.curEv with
  | some (.homeAccessRequest id) => s.receive (.homeAccessRequest id) fun s => s.homeAccess id
  | _ => .next s

/-! ### Walks (R193–R196) -/

/-- WALK_COMPLETE (R193, R213). -/
def execWalkComplete (s : State) : Out :=
  match s.curEv with
  | some (.walkComplete id) =>
    match s.walks.find? fun w => w.id = id && w.res.isNone with
    | some w => .next (s.advanceWalk w)
    | none => .next s
  | _ => .next s
/-- REMOTE_WALK_REQUEST (R196): the target device walks its tables and sends the outcome back. -/
def execRemoteWalkRequest (s : State) : Out :=
  match s.curEv with
  | some (.remoteWalkRequest id) => s.receive (.remoteWalkRequest id) fun s =>
    match s.walks.find? fun w => w.id = id && w.ans.isNone with
    | some w => s.remoteWalk w
    | none => s
  | _ => .next s
/-- Whether a page lies in a range of TLBI. -/
def inRange (range : Option (Nat × Nat)) (page : Nat) : Bool :=
  match range with
  | none => true
  | some (lo, n) => lo ≤ page && page < lo + n
/-- Whether a TLB entry covers a page that TLBI names (R404): the merged entry goes whole. -/
def Tlb.named (e : Tlb) (tenant : Nat) (range : Option (Nat × Nat)) : Bool :=
  e.tenant = tenant && (List.range 16).any fun i => e.mask.getLsbD i && inRange range (e.group * 16 + i)
/-- Removes entries from a die's L2 TLB and its cores' L1 TLBs. -/
def State.dropTlb (s : State) (di : Nat) (p : Tlb → Bool) : State :=
  (List.range 48).foldl (fun s c =>
    if ((s.core (coreKey di c)).ltlb.any p) then
      s.modCore (coreKey di c) fun k => { k with ltlb := k.ltlb.filter fun e => !p e }
    else s) (s.modDie di fun d => { d with tlb := d.tlb.filter fun e => !p e })
/-- An acknowledgement that a gang waits for has come; with the last one it goes on (R404, R428). -/
def State.acknowledge (s : State) (gid : Nat) : State :=
  s.modGang gid fun g => if g.acks ≤ 1 then { g.wake .acks with eligAt := s.time, acks := 0 } else { g with acks := g.acks - 1 }
/-- TLBI_REQUEST (R404): a die drops the entries, its covered walks restart (R195), and the gang goes on once every die
has acknowledged. -/
def execTlbiRequest (s : State) : Out :=
  match s.curEv with
  | some (.tlbiRequest di tenant range gid) => s.receive (.tlbiRequest di tenant range gid) fun s =>
    let s := s.dropTlb di fun e => e.named tenant range
    let hit (w : Walk) : Bool :=
      w.die = di && w.tenant = tenant && w.remote && w.ans.isSome && w.res.isNone && inRange range w.page
    let again := (s.walks.filter hit).map fun w => Ev.remoteWalkRequest w.id
    let s := { s with walks := s.walks.map fun w => if hit w then { w with ans := none } else w, net := s.net ++ again }
    s.acknowledge gid
  | _ => .next s
/-- FABRIC_TLB_EXPIRY (R404). -/
def execFabricTlbExpiry (s : State) : Out :=
  match s.curEv with
  | some (.fabricTlbExpiry di) => .next (s.dropTlb di fun e => e.fab && e.at_ + 1000000 ≤ s.time)
  | _ => .next s

/-! ### Fills and publication (R210, R239) -/

/-- LINE_FILL_COMPLETE (R210): it comes once the tokens have; a fill whose requests were abandoned is dropped (R380). -/
def execLineFillComplete (s : State) : Out :=
  match s.curEv with
  | some (.lineFillComplete f) => s.receive (.lineFillComplete f) fun s => s.fillLine f
  | _ => .next s
/-- When the narrow bytes of a core that have been dirty longest are to be published at the latest (R239); those whose publication
waits for tokens are under way. -/
def Core.publishBy (c : Core) : Option Nat :=
  ((c.l1.filter fun e => e.2.dirty ≠ 0 && !e.2.priv && !e.2.asked).map fun e => e.2.since + 32000).min?
/-- Whether a core has narrow bytes that have been dirty for 32 µs (R239). -/
def State.overdue (s : State) (ck : Nat) : Bool := (s.core ck).publishBy.any (· ≤ s.time)
/-- SCOPE_FILTER_TIMED_PUBLISH (R239): what must wait for tokens is published when they come. -/
def execScopeFilterTimedPublish (s : State) : Out :=
  match s.curEv with
  | some (.scopeFilterTimedPublish ck) =>
    if s.overdue ck then
      .next ((s.modDie (ck / 48) fun d => { d with scfTimed := min (d.scfTimed + 1) 0xFFFFFFFF }).publishCore ck).2
    else .next s
  | _ => .next s

/-! ### Timed waits (R224, R363) -/

/-- What an event makes of the waits of a gang's slots; one that it changes is over. -/
def State.endWaits (s : State) (gid : Nat) (f : Wait → Wait) : State :=
  s.modGang gid fun g => if g.mapWait f = g then g else { g.mapWait f with eligAt := s.time }
/-- WAITLN_REREAD (R224): a waiting WAITLN looks at its words again. -/
def execWaitlnReread (s : State) : Out :=
  match s.curEv with
  | some (.waitlnReread gid) => .next (s.endWaits gid fun w => match w with
    | .watch since _ => .recheck since
    | w => w)
  | _ => .next s
/-- WAITLN_TIMEOUT (R224). -/
def execWaitlnTimeout (s : State) : Out :=
  match s.curEv with
  | some (.waitlnTimeout gid) => .next (s.endWaits gid fun w => match w with
    | .watch since till => if till ≤ s.time then .recheck since else w
    | w => w)
  | _ => .next s
/-- SLEEP_EXPIRY (R363). -/
def execSleepExpiry (s : State) : Out :=
  match s.curEv with
  | some (.sleepExpiry gid) => .next (s.endWaits gid fun w => match w with
    | .sleep till => if till ≤ s.time then .ready else w
    | w => w)
  | _ => .next s

/-! ### Flux passes (R375, R382, R383) -/

/-- FLUX_PASS_ENTRY (R375). -/
def execFluxPassEntry (s : State) : Out :=
  match s.curEv with
  | some (.fluxPassEntry gid) => .next (s.enterFlux gid)
  | _ => .next s
/-- FLUX_PASS_END (R382, R383). -/
def execFluxPassEnd (s : State) : Out :=
  match s.curEv with
  | some (.fluxPassEnd gid) =>
    match s.gang? gid with
    | some g => .next (if g.passOver then s.endFlux gid else s)
    | none => .next s
  | _ => .next s

end Machine
end Sys2Proof
end

