-- ==== Sys2Proof/Machine/HostEvents.lean ====
section
/-!
DEFINITION. The events of the host, of bias flips and of pool shelves (R264–R271, R400, R432).
-/
namespace Sys2Proof
namespace Machine

/-! ### The host's requests (R264, R265) -/

/-- The sectors that a host holder represents: those of its hub's own device (R246). -/
def hostSector (hub sec : Nat) : Bool := secDev sec = hub / 2 && backed (secPa sec)
/-- The host asks for a sector (R264). -/
def State.hostAsk (s : State) (hub sec : Nat) (write : Bool) : State :=
  let b := s.hub hub
  let n := b.filtered sec
  if !b.portUp || !hostSector hub sec || n = 256 || (n = 1 && !write) then s
  else s.request (hostHolder hub) sec write false
/-- HOST_READ (R264). -/
def execHostRead (s : State) : Out :=
  match s.curEv with
  | some (.hostRead hub sec) => .next (s.hostAsk hub sec false)
  | _ => .next s
/-- HOST_READ_FOR_OWNERSHIP (R264). -/
def execHostReadForOwnership (s : State) : Out :=
  match s.curEv with
  | some (.hostReadForOwnership hub sec) => .next (s.hostAsk hub sec true)
  | _ => .next s
/-- A host that holds every token may have written the sector. -/
def State.hostWrote (s : State) (sec h : Nat) (data : Option (BitVec 512)) : State :=
  let o := s.holdOf sec h
  match data with
  | some d => if o.count = 256 then s.setHold sec h { o with data := d, dirty := true } else s
  | none => s
/-- A host holder's tokens go to the home memory, and its filter entry is gone (R264, R265). -/
def State.hostReturn (s : State) (sec h : Nat) : State :=
  let o := s.holdOf sec h
  let s := s.modHub (hubOfHolder sec h) fun b => b.setFilter sec 0 0
  if o.count = 0 then s
  else (s.setHold sec h {}).send
    (.tret ⟨sec, homeH, o.cast, o.count, o.owner, o.owner && o.dirty, h, s.time, if o.owner then o.data else 0⟩)
/-- HOST_WRITEBACK (R264): with the data the host wrote, or an eviction without any. -/
def execHostWriteback (s : State) : Out :=
  match s.curEv with
  | some (.hostWriteback hub sec data) =>
    if !(s.hub hub).portUp || (s.hub hub).filtered sec = 0 then .next s
    else .next ((s.hostWrote sec (hostHolder hub) data).hostReturn sec (hostHolder hub))
  | _ => .next s

/-! ### Recalls end (R264, R266) -/

/-- The host keeps a shared copy of a sector it held whole: its entry counts 1 and keeps its place in the order of grants
(R264, R265). -/
def Hub.shareFilter (b : Hub) (sec : Nat) : Hub :=
  { b with filter := b.filter.map fun e => if e.sector = sec then { e with count := 1 } else e }
/-- What a host holder does once it has the host's answer: it answers the message that asked. -/
def State.answerRecall (s : State) (hub : Nat) (r : Recall) : State :=
  let h := hostHolder hub
  let clear (s : State) : State := s.modHub hub fun b => b.setFilter r.sector 0 0
  match r.cause with
  | some (.trd m) =>
    let o := s.holdOf r.sector h
    if r.shared && o.count = 256 then
      let s := s.modHub hub fun b => b.shareFilter r.sector
      s.giveTokens r.sector h m.req 255 true
    else
      let s := s.answer r.sector h m.req false
      if (s.holdOf r.sector h).count = 0 then clear s else s
  | some (.twr m) => (clear s).answer r.sector h m.req true
  | some (.clact m) => (clear s).onClamp m
  | some (.trec m) => s.surrenderCast m
  | _ => s.hostReturn r.sector h
/-- BIRSP (R266): the host's copy is back, with data when the host had written. -/
def execBirsp (s : State) : Out :=
  match s.curEv with
  | some (.birsp hub sec data) =>
    match (s.hub hub).recalls.find? (·.sector = sec) with
    | none => .next s
    | some r =>
      let s := s.modHub hub fun b => { b with recalls := b.recalls.filter (·.sector ≠ sec) }
      .next ((s.hostWrote sec (hostHolder hub) data).answerRecall hub r)
  | _ => .next s
/-- HOST_SILENT_TIMEOUT (R266): the host is taken to hold nothing, and an owner token it held is lost with unknown
state. -/
def execHostSilentTimeout (s : State) : Out :=
  match s.curEv with
  | some (.hostSilentTimeout hub sec) =>
    match (s.hub hub).recalls.find? (·.sector = sec) with
    | none => .next s
    | some r =>
      if s.time < r.till then .next s
      else
        let h := hostHolder hub
        let o := s.holdOf sec h
        let s := s.modHub hub fun b => { b.setFilter sec 0 0 with recalls := b.recalls.filter (·.sector ≠ sec) }
        let s := s.setHold sec h {}
        let s := if o.owner then s.send (.lossReport sec o.cast .dirty) else s
        .next (s.answerRecall hub r)
  | _ => .next s

/-! ### Bias flips (R268) -/

/-- Whether some home unit still serves a sector of a page with a clamp or a recast. -/
def State.pageBusy (s : State) (dev page : Nat) : Bool :=
  s.homes.any fun p => (p.2.active.any fun a => inPage dev page a.req.sector) ||
    (p.2.recast.any fun r => inPage dev page r.sector)
/-- The flip of a page ends (R268 steps 3 to 6), and the BIAS that asked for it goes on to its next page (R276). -/
def State.endFlip (s : State) (dev : Nat) (f : Flip) : State :=
  let secs := ((s.hold.filter fun p => inPage dev f.page (p.1 / 512)).map fun p => p.1 / 512).eraseDups
  let s := secs.foldl (fun s sec => s.surrender sec) s
  let same := Store.get false (s.dev dev).bias f.page = f.toHost
  let s := s.modDev dev fun d => { d with bias := Store.set false d.bias f.page f.toHost, flips := d.flips.erase f }
  let s := if f.toHost then s.rehome dev f.page else s
  s.nextFlip f.toHost f.rest f.id f.gang f.dst (if same then f.count else f.count + 1)
/-- BIAS_FLIP_COMPLETE (R268): flips of one page end in the order in which they began. -/
def execBiasFlipComplete (s : State) : Out :=
  match s.curEv with
  | some (.biasFlipComplete dev page) =>
    match (s.dev dev).flips.find? (·.page = page) with
    | none => .next s
    | some f =>
      if s.pageBusy dev page then .next s
      else .next ((s.clearPageL1 dev page).endFlip dev f)
  | _ => .next s

/-! ### Pool shelves and ports (R269–R271, R400, R432) -/

/-- POOL_BACK_INVALIDATION (R269): the device caches no pool line, so the hub answers for the lines in flight and nothing
in the device changes. -/
def execPoolBackInvalidation (s : State) : Out := .next s
/-- Fences the windows that `hit` names by tenant key and registers (R271). -/
def State.fenceWindows (s : State) (hit : Nat → Tenant → Bool) : State :=
  let fix (p : Nat × Tenant) : Nat × Tenant :=
    if hit p.1 p.2 then (p.1, { p.2 with fenced := true, shelfUp := false }) else p
  let s := { s with tenants := s.tenants.map fix }
  s.spoil fun a y => match y.loc with
    | .pool _ => s.windowDown a y
    | _ => false
/-- A shelf fails: every window that reaches it is fenced, in every tenant (R271). -/
def State.failShelf (s : State) (shelf : Nat) : State := s.fenceWindows fun _ t => t.shelf = shelf && t.pwsz ≠ 0
/-- SHELF_FAILURE (R271). -/
def execShelfFailure (s : State) : Out :=
  match s.curEv with
  | some (.shelfFailure shelf) => .next (s.failShelf shelf)
  | _ => .next s
/-- POOL_COMPLETION_TIMEOUT (R271): a pool access without completion for 2 ms. -/
def execPoolCompletionTimeout (s : State) : Out :=
  match s.curEv with
  | some (.poolCompletionTimeout id) =>
    match s.accesses.find? fun a => a.id = id && a.at_ + 2000000 ≤ s.time with
    | none => .next s
    | some a =>
      match a.lanes.find? fun y => y.got.isNone && y.place = .pool with
      | none => .next s
      | some y => match y.loc with
        | .pool x => .next (s.failShelf (x / 2 ^ 64))
        | _ => .next s
  | _ => .next s
/-- SHELF_LINK_UP (R400): SHELFUP is set; the window stays fenced until it is reopened. -/
def execShelfLinkUp (s : State) : Out :=
  match s.curEv with
  | some (.shelfLinkUp shelf) =>
    .next { s with tenants := s.tenants.map fun p => if p.2.shelf = shelf then (p.1, { p.2 with shelfUp := true }) else p }
  | _ => .next s
/-- CXL_LINK_DOWN (R432): host accesses behind the port come back as poison, the host's tokens are recalled (R266), and the
pool windows behind it are fenced (R271). -/
def execCxlLinkDown (s : State) : Out :=
  match s.curEv with
  | some (.cxlLinkDown hub) =>
    let dev := hub / 2
    let h : Bool := hub % 2 = 1
    let s := s.modHub hub fun b => { b with portUp := false }
    let s := s.spoil fun a y => match y.loc with
      | .host x => x / 2 ^ 64 = dev && s.windowDown a y
      | _ => false
    let s := (s.hub hub).filter.foldl (fun s e => s.beginRecall e.sector (hostHolder hub) false none) s
    .next (s.fenceWindows fun k t => k / 16 = dev && t.pwsz ≠ 0 && Config.shelfPort dev t.shelf = h)
  | _ => .next s

end Machine
end Sys2Proof
end

