-- ==== Sys2Proof/Machine/EngineEvents.lean ====
section
/-!
DEFINITION. The events of the copy and matrix engines (chapters 11, 12, 18), of barriers, remote stores and answers
(chapter 13), and of collectives (chapter 14).
-/
namespace Sys2Proof
namespace Machine

/-! ### Transfers (R283, R431) -/

/-- COPY_TRANSFER_START (R283). -/
def execCopyTransferStart (s : State) : Out :=
  match s.curEv with
  | some (.copyTransferStart id) => match s.xfers.find? (·.id = id) with
    | some q => .next (s.startXfer q)
    | none => .next s
  | _ => .next s
/-- COPY_TRANSFER_RETIRE (R283). -/
def execCopyTransferRetire (s : State) : Out :=
  match s.curEv with
  | some (.copyTransferRetire id) => match s.xfers.find? (·.id = id) with
    | some q => .next (s.retireXfer q)
    | none => .next s
  | _ => .next s
/-- TSND_DUE (R431). -/
def execTsndDue (s : State) : Out :=
  match s.curEv with
  | some (.tsndDue id) => match s.xfers.find? (·.id = id) with
    | some q => match q.kind with
      | .tsnd due len dst => .next (s.sendDue q due len dst)
      | _ => .next s
    | none => .next s
  | _ => .next s

/-! ### The matrix engine (R303, R304, R310) -/

/-- The entry that a core's matrix engine executes: the first of its queue but an MLOOP left at its promotion (R303, R310). -/
def State.matHead (s : State) (ck : Nat) : Option MatEnt :=
  s.mats.find? fun m => m.core = ck && !((s.team? m.team).any (s.matLeft m))
/-- MATRIX_INSTRUCTION_START (R303): the head of the queue runs, an MLOOP to its next promotion (R300). -/
def execMatrixInstructionStart (s : State) : Out :=
  match s.curEv with
  | some (.matrixInstructionStart ck) =>
    match s.matHead ck with
    | none => .next s
    | some m =>
      match s.team? m.team with
      | none => .next s
      | some t =>
        if (m.begun && m.op.finished) || s.barred m.id m.team m.board then .next s
        else
          let r := t.matRun m.op
          let up := s.mats.map fun x => if x.id = m.id then { x with begun := true, op := r.2 } else x
          .next { s.setTeam m.team r.1 with mats := up }
  | _ => .next s
/-- MATRIX_RETIRE (R303). -/
def execMatrixRetire (s : State) : Out :=
  match s.curEv with
  | some (.matrixRetire ck) =>
    match s.matHead ck with
    | some m =>
      .next (if (m.begun && m.op.finished) || (s.team? m.team).isNone then
        { s with mats := s.mats.filter (·.id ≠ m.id) } else s)
    | none => .next s
  | _ => .next s

/-! ### Barriers by message (R316) -/

/-- CIRCLE_ARRIVAL (R316): recorded at the circle's home die, for the phase that the gang arrived at. -/
def execCircleArrival (s : State) : Out :=
  match s.curEv with
  | some (.circleArrival ck circle gid phase) => s.receive (.circleArrival ck circle gid phase) fun s =>
    match s.cohort? ck, s.team? (gid / 256) with
    | some c, some t =>
      let b : CircBar := Store.get {} c.circs circle
      let who := (t.tidx, gid % 256)
      if t.cohort ≠ ck || b.phase ≠ phase || b.arr.contains who then s
      else
        let circs := Store.set {} c.circs circle { b with arr := b.arr ++ [who] }
        (s.modCohort ck fun x => { x with circs := circs }).circleBarrier ck circle
    | _, _ => s
  | _ => .next s
/-- PHASE_END_NOTICE (R315, R316): a waiting member goes on; one whose team is away finds the wait
satisfied when it resumes. -/
def execPhaseEndNotice (s : State) : Out :=
  match s.curEv with
  | some (.phaseEndNotice gid circle phase) => s.receive (.phaseEndNotice gid circle phase) fun s =>
    match s.gang? gid with
    | some g =>
      if g.bar = some ⟨some circle, phase⟩ && !((s.team? g.team).any (·.away)) then s.leaveBar gid else s
    | none => s
  | _ => .next s

/-! ### Remote stores and answers (R323, R325, R326, R405) -/

/-- REMOTE_STORE_ARRIVAL (R323). -/
def execRemoteStoreArrival (s : State) : Out :=
  match s.curEv with
  | some (.remoteStoreArrival m) => s.receive (.remoteStoreArrival m) fun s => s.arriveStore m
  | _ => .next s
/-- Changes the marks of a sender's channel entry, if the store belongs to its current stream (R325). -/
def State.modMark (s : State) (gid chan stream : Nat) (f : ChMark → ChMark) : State :=
  s.inImage (gid / 256) fun s => s.modTeam (gid / 256) fun t =>
    if streamId gid chan (t.mark chan).epoch = stream then { t with marks := Store.upd {} t.marks chan f } else t
/-- REMOTE_STORE_RETRY (R323, R325): the sending die counts the retry and sends the store again. -/
def execRemoteStoreRetry (s : State) : Out :=
  match s.curEv with
  | some (.remoteStoreRetry m) => s.receive (.remoteStoreRetry m) fun s =>
    (s.modMark m.sender m.chan m.stream fun x => { x with retries := min (x.retries + 1) 255 }).send (.remoteStoreArrival m)
  | _ => .next s
/-- The marks that a fate leaves (R325). -/
def ChMark.fate (x : ChMark) (f : Fate) : ChMark :=
  match f with
  | .dead => { x with dead := true }
  | .xten => { x with xten := true }
  | .badwin => { x with badwin := true }
  | _ => x
/-- Whether a store belongs to the current stream of its sender's entry: a restart begins new ones (R323). -/
def State.streamNow (s : State) (gid chan stream : Nat) : Bool :=
  match s.team? (gid / 256) with
  | some t => streamId gid chan (t.mark chan).epoch = stream
  | none => false
/-- REMOTE_STORE_ACK (R325): OUT falls, and the fate is marked. -/
def execRemoteStoreAck (s : State) : Out :=
  match s.curEv with
  | some (.remoteStoreAck gid chan stream f) => s.receive (.remoteStoreAck gid chan stream f) fun s =>
    if s.streamNow gid chan stream then
      (s.modMark gid chan stream (fun x => x.fate f)).inImage (gid / 256) fun s =>
        s.modGang gid fun g => { g with out := Store.upd 0 g.out chan (· - 1) }
    else s
  | _ => .next s
/-- CHGIVE_ARRIVAL (R326, R405). -/
def execChgiveArrival (s : State) : Out :=
  match s.curEv with
  | some (.chgiveArrival m) => s.receive (.chgiveArrival m) fun s =>
    let r := s.giveChan m
    r.2.send (.remoteAnswer m.sender m.dst (BitVec.ofNat 32 r.1))
  | _ => .next s
/-- The core of a resident gang. -/
def State.gangCore (s : State) (gid : Nat) : Option Nat :=
  match s.gang? gid with
  | some g => if g.resident then (s.team? g.team).map fun t => coreKey t.die g.core else none
  | none => none
/-- REMOTE_ANSWER (R189, R326, R327, R405): the destination is written where the gang's registers lie; the clean lines of its
core's L1 are dropped, as the answer of CTXSV, an acquire, asks for (log 83). -/
def execRemoteAnswer (s : State) : Out :=
  match s.curEv with
  | some (.remoteAnswer gid dst v) => s.receive (.remoteAnswer gid dst v) fun s =>
    let s := s.inImage (gid / 256) fun s => s.modRegs gid fun x => x.setK dst.toNat v
    let s := s.modGang gid fun g => { g with owed := g.owed.erase (0, .k dst.toNat) }
    match s.gangCore gid with
    | some ck => s.dropCleanAll ck
    | none => s
  | _ => .next s

/-! ### Collectives (R333–R341) -/

/-- COLL_MATCH (R333). -/
def execCollMatch (s : State) : Out :=
  match s.curEv with
  | some (.collMatch key) => s.receive (.collMatch key) fun s => s.seqWork key
  | _ => .next s
/-- COLL_MATCH_TIMEOUT (R340). -/
def execCollMatchTimeout (s : State) : Out :=
  match s.curEv with
  | some (.collMatchTimeout tid j) =>
    match s.team? tid with
    | none => .next s
    | some t =>
      let x := t.coll j
      .next (if x.state = .matching && x.block.tmo ≠ 0 && x.since + x.block.tmo * 1000000 ≤ s.time then
        s.abortColl tid j 3 0 0 else s)
  | _ => .next s
/-- COLL_STEP_ARRIVAL (R335). -/
def execCollStepArrival (s : State) : Out :=
  match s.curEv with
  | some (.collStepArrival m) => s.receive (.collStepArrival m) fun s =>
    let r := s.collStep m
    if r.1 then r.2 else r.2.send (.collStepArrival m)
  | _ => .next s
/-- PERMIT_RETURN (R335): a permit comes to a rank, or a step that it sent has been consumed. -/
def execPermitReturn (s : State) : Out :=
  match s.curEv with
  | some (.permitReturn tid j peer grant) => s.receive (.permitReturn tid j peer grant) fun s => s.permitBack tid j peer grant
  | _ => .next s
/-- COLL_ABORT (R341). -/
def execCollAbort (s : State) : Out :=
  match s.curEv with
  | some (.collAbort tid j status cause rank) => s.receive (.collAbort tid j status cause rank) fun s =>
    s.abortColl tid j status cause rank
  | _ => .next s

end Machine
end Sys2Proof
end

