-- ==== Sys2Proof/Machine/Fabric.lean ====
section
/-!
DEFINITION. Fabric and time instructions, major opcodes 0xD0–0xD5 (R414–R431).
-/
namespace Sys2Proof
namespace Machine

/-! ### Time, clocks, rate table and links (R420, R427, R429, R430) -/

/-- TIME `.now` (R427). -/
def execTimeNow (g : Guard) (d : RegNum) (s : State) : Out :=
  issue (.timeNow g d) s fun c s => c.putK2 s d (BitVec.ofNat 64 s.time)
/-- The fabric-wide spread of the reference timer, measured now: any value that R418 allows (log 11). -/
def State.spreadNow (s : State) : Nat × State :=
  let (n, s) := s.draw
  ((Config.freeWord n).toNat % 51, s)
/-- TIME `.skew` (R427). -/
def execTimeSkew (g : Guard) (d : RegNum) (s : State) : Out :=
  issue (.timeSkew g d) s fun c s =>
    let r := s.spreadNow
    c.putK r.2 d (BitVec.ofNat 32 r.1)
/-- CYC `.clk` (R427). -/
def execCycClk (g : Guard) (d : RegNum) (s : State) : Out :=
  issue (.cycClk g d) s fun c s => c.putK2 s d (BitVec.ofNat 64 (s.clk c.die))
/-- CYC `.freq` (R427). -/
def execCycFreq (g : Guard) (d : RegNum) (s : State) : Out :=
  issue (.cycFreq g d) s fun c s => c.putK s d (BitVec.ofNat 32 (s.dieNow c.die).mhz)
/-- CYC `.steps` (R427). -/
def execCycSteps (g : Guard) (d : RegNum) (s : State) : Out :=
  issue (.cycSteps g d) s fun c s => c.putK s d (BitVec.ofNat 32 (min (s.dieNow c.die).steps 0xFFFFFFFF))
/-- The CNQ word of a rate entry (R430). -/
def rateWord (r : Option Rate) : Word :=
  match r with
  | some r => BitVec.ofNat 32 (2 ^ 31 + r.dest % 2 ^ 11 * 2 ^ 16 + r.rate)
  | none => 0
/-- CNQ (R430). -/
def execCnq (g : Guard) (d : RegNum) (i : SrcI) (s : State) : Out :=
  issue (.cnq g d i) s fun c s =>
    let n := (c.r.ksI i).toNat
    if 63 < n then c.trap 0x1D 1 s else c.putK s d (rateWord (Store.get none (s.dieNow c.die).rates n))
/-- Wavelengths of a pair that carry traffic. -/
def Link.wlUp (l : Link) : BitVec 8 := if l.up then ~~~l.down else 0
/-- Whether a wavelength of a link retrains: after the link went down, or on its own (R414, R421). -/
def Link.retrains? (l : Link) : Bool := l.train || (l.up && l.down ≠ 0)
/-- The link status word of link `n` of device `dev` (R429). -/
def linkWord (dev : Nat) (d : Dev) (n : Nat) : Word :=
  let l : Link := Store.get {} d.links n
  if 95 < n || n = dev % 32 then 0
  else if n < 32 then
    BitVec.ofNat 32 ((if l.up then 2 ^ 31 + 2 ^ 16 else 0) + (if l.train then 2 ^ 30 else 0) + min l.retrains 0xFFFF)
  else
    BitVec.ofNat 32 ((if l.wlUp ≠ 0 then 2 ^ 31 else 0) + (if l.retrains? then 2 ^ 30 else 0) + (if d.run then 2 ^ 29 else 0) +
      l.wlUp.toNat * 2 ^ 16 + min l.retrains 0xFFFF)
/-- LINKC `.st` (R429). -/
def execLinkcSt (g : Guard) (d : RegNum) (n : SrcI) (s : State) : Out :=
  issue (.linkcSt g d n) s fun c s => c.putK s d (linkWord c.dev (s.dev c.dev) (c.r.ksI n).toNat)

/-! ### Circuit mode (R422–R424, R428) -/

/-- Devices of a pod. -/
def podDevs (group : Nat) : List Nat := (List.range 32).map fun i => group * 32 + i
/-- Applies `f` to every device of a pod. -/
def State.modPod (s : State) (group : Nat) (f : Dev → Dev) : State := (podDevs group).foldl (fun s d => s.modDev d f) s
/-- Whether the issuing tenant holds the fabric grant of its pod (R426). -/
def Ctx.granted (c : Ctx) (s : State) : Bool :=
  (podDevs c.T.group).any fun d => Store.get none s.grants d = some c.tenant
/-- Whether a slot descriptor breaks R422 for a pod of group `grp`. -/
def slotBad (x : BitVec 128) (grp : Nat) : Bool :=
  x.toNat / 2 ^ 28 % 2 ^ 36 ≠ 0 || x.toNat / 2 ^ 12 % 16 ≠ 0 || (slotMask x).getLsbD grp ||
  (slotLen x ≠ 0 && 1000 * slotLen x ≤ slotGuard x)
/-- The request of SLOTW: one weak load of the descriptor, under the lowest lane of E (R428). -/
def Ctx.slotReq (c : Ctx) (ptr : Src) : MemReq :=
  { op := .load false, size := 16, uni := true, lanes := [((lowLane c.emask).getD 0, c.r.ks2 ptr, 0, 0)] }
/-- SLOTW (R428). -/
def execSlotw (g : Guard) (ptr : Src) (slot : Src) (s : State) : Out :=
  issue (.slotw g ptr slot) s fun c s =>
    if !c.granted s then c.trap 0x22 1 s
    else match c.fetch (c.slotReq ptr) s with
      | .wait w s => .wait w s
      | .flt f s => c.allTrap f.code f.cause f.addr s
      | .bytes bs s =>
        let desc : BitVec 128 := BitVec.ofNat 128 (ofBytes bs)
        let n := (c.r.ks slot).toNat
        if 15 < n || slotBad desc c.T.group then c.trap 0x22 2 s
        else if (s.dev c.dev).run then c.trap 0x22 4 s
        else
          let evs := (podDevs c.T.group).map fun d => Ev.slotTableWrite d n desc c.gid
          .done ({ s with net := s.net ++ evs }.modGang c.gid fun g => { g.setWait c.sec .acks with acks := evs.length })
/-- LINKC `.on` (R424). -/
def execLinkcOn (g : Guard) (t : Src) (s : State) : Out :=
  issue (.linkcOn g t) s fun c s =>
    let at_ := (c.r.ks2 t).toNat
    let d := s.dev c.dev
    if !c.granted s then c.trap 0x22 1 s
    else if at_ < s.time + 10000 || d.rotation.isEmpty then c.trap 0x22 5 s
    else if (podDevs c.T.group).any fun k => (s.dev k).slots ≠ d.slots then c.trap 0x22 4 s
    else
      let r := s.spreadNow
      if d.minGuard < r.1 then c.trap 0x22 3 r.2
      else .done (r.2.modPod c.T.group fun d =>
        { d with startAt := (at_ + 999) / 1000 * 1000, spstop := false, stopAt := none })
/-- LINKC `.off` (R424): a start that has not come yet is withdrawn, and a stop that the spread has set already stands. -/
def execLinkcOff (g : Guard) (s : State) : Out :=
  issue (.linkcOff g) s fun c s =>
    if !c.granted s then c.trap 0x22 1 s
    else .done (s.modPod c.T.group fun d =>
      if d.run then { d with stopAt := some (d.stopAt.getD (d.rotEnd s.time, false)) } else { d with startAt := 0 })
/-- LINKC `.cst` (R429). -/
def execLinkcCst (g : Guard) (d : RegNum) (s : State) : Out :=
  issue (.linkcCst g d) s fun c s =>
    let x := s.dev c.dev
    c.putK s d (BitVec.ofNat 32 ((if x.run then 2 ^ 31 else 0) + (if x.spstop then 2 ^ 30 else 0) + x.rotation.length * 2 ^ 16 +
      x.rotLen % 2 ^ 16))

/-! ### TSND (R431) -/

/-- The plan of TSND's checks, in the order of R345. -/
def tsndPlan (src dst : DWord) (len : Nat) : CopyPlan :=
  { ptrs := [(src, false), (dst, false)], geo := false, aligns := [(src, 16), (dst, 16)], pitch := 0, unit := 16,
    ranges := [(src, len, false)] }
/-- TSND (R431). -/
def execTsnd (g : Guard) (d : RegNum) (grp : BitVec 3) (src dst t : Src) (len : Word) (pol : PolOv) (s : State) : Out :=
  issue (.tsnd g d grp src dst t len pol) s fun c s =>
    let a := c.r.ks2 src
    let b := c.r.ks2 dst
    let early := if ptrSpace a ≠ 0 && ptrSpace a ≠ 1 then some (2, a)
      else match ptrCause a c.C.scratchBytes c.C.lr.privsz with
        | some k => some (k, a)
        | none => if ptrSpace b ≠ 3 && ptrSpace b ≠ 6 then some (2, b) else none
    match early with
    | some (k, p) => c.trapAt 0x10 k p s
    | none =>
      let plan := tsndPlan a b len.toNat
      match plan.fail c.C.scratchBytes c.C.lr.privsz with
      | some (code, cause, addr) => c.trapAt code cause addr s
      | none =>
        let queued := s.xfers.filter fun x => x.die = c.die && !x.begun && (match x.kind with | .tsnd .. => true | _ => false)
        if 256 ≤ queued.length then .wait .queue s
        else if !s.boardRoom c.T plan.board.length then .wait .board s
        else
          let (id, s) := s.newId
          let due := (c.r.ks2 t).toNat
          let x := c.xfer (.tsnd due len.toNat d) a b 0 (if due < s.time then 1 else 0) 0 0 pol id
          let x := { x with group := grp.toNat, board := plan.board }
          let s := { s with xfers := s.xfers ++ [x] }
          let s := s.modGang c.gid fun g => g.modGroup true grp.toNat fun r => { r with inflight := r.inflight + 1 }
          let dst : List RegRef := [.k d.toNat]
          .done (c.endRegion (s.owe c.gid id (dst.filter fun r => !r.fixed)))

end Machine
end Sys2Proof
end

