-- ==== Sys2Proof/Machine/FabricEvents.lean ====
section
/-!
DEFINITION. Events of the fabric (chapter 18): lost flits, links and wavelengths, congestion, die clocks, circuit mode
and power.
-/
namespace Sys2Proof
namespace Machine

/-! ### Flits and links (R414, R421) -/

/-- The loss report of a token-carrying message (R258, R414). -/
def tokenLoss : Ev → Option Ev
  | .tdat m => some (.lossReport m.sector m.cast (tokLoss m))
  | .ttok m => some (.lossReport m.sector m.cast (tokLoss m))
  | .tret m => some (.lossReport m.sector m.cast (tokLoss m))
  | .trca m => if 0 < m.count then some (.lossReport m.sector m.cast (tokLoss m)) else none
  | _ => none
/-- The messages in flight without the token-carrying ones of a flit; `i` is the place of the first. -/
def keepMsgs (lost : List Nat) : Nat → List Ev → List Ev
  | _, [] => []
  | i, e :: rest =>
    if lost.contains i && (tokenLoss e).isSome then keepMsgs lost (i + 1) rest else e :: keepMsgs lost (i + 1) rest
/-- Updates a link of a device; a local link is one with its other end. -/
def State.modLink (s : State) (dev link : Nat) (f : Link → Link) : State :=
  let set (s : State) (d n : Nat) : State := s.modDev d fun x => { x with links := Store.upd {} x.links n f }
  if link < 32 then
    if link = dev % 32 then s else set (set s dev link) (dev / 32 * 32 + link) (dev % 32)
  else if link < 96 then set s dev link
  else s
/-- A link of a device. -/
def Dev.link (d : Dev) (n : Nat) : Link := Store.get {} d.links n
/-- A flit of a link is given up: one more in a row unless the link has delivered one since the last, which the model leaves open; a
link that has lost 8 in a row is about to go down (R414, log 85). -/
def State.flitLost (s : State) (dev link : Nat) : State :=
  let (n, s) := s.draw
  s.modLink dev link fun l => { l with lost := if Config.freeBool n && l.lost < 8 then 1 else l.lost + 1 }
/-- FLIT_RETRY_EXHAUSTED (R414): the token-carrying messages of the flit are reported lost; the others are sent again. -/
def execFlitRetryExhausted (s : State) : Out :=
  match s.curEv with
  | some (.flitRetryExhausted dev link msgs) =>
    let reports := (msgs.eraseDups.filterMap fun i => s.net[i]?).filterMap tokenLoss
    .next (({ s with net := keepMsgs msgs 0 s.net ++ reports } : State).flitLost dev link)
  | _ => .next s
/-- LINK_RETRAIN (R414). -/
def execLinkRetrain (s : State) : Out :=
  match s.curEv with
  | some (.linkRetrain dev link) =>
    .next (s.modLink dev link fun l => if l.up && 8 ≤ l.lost then { l with up := false, train := true, lost := 0 } else l)
  | _ => .next s
/-- FABRIC_LINK_UP (R414): a link that went down has retrained. -/
def execFabricLinkUp (s : State) : Out :=
  match s.curEv with
  | some (.fabricLinkUp dev link) =>
    .next (s.modLink dev link fun l =>
      if l.train then { l with up := true, train := false, lost := 0, retrains := min (l.retrains + 1) 0xFFFF } else l)
  | _ => .next s
/-- WAVELENGTH_WINDOW_END (R421). -/
def execWavelengthWindowEnd (s : State) : Out :=
  match s.curEv with
  | some (.wavelengthWindowEnd dev pair wl errors) =>
    .next (if pair < 64 && wl < 8 && 1024 < errors then
      s.modLink dev (32 + pair) fun l => { l with
        down := l.down ||| (1#8 <<< wl)
        downAt := if l.down.getLsbD wl then l.downAt else Store.set 0 l.downAt wl s.time } else s)
  | _ => .next s
/-- WAVELENGTH_RETRAINED (R421). -/
def execWavelengthRetrained (s : State) : Out :=
  match s.curEv with
  | some (.wavelengthRetrained dev pair wl) =>
    .next (if pair < 64 && wl < 8 then
      s.modLink dev (32 + pair) fun l =>
        if l.down.getLsbD wl then { l with
          down := l.down &&& ~~~(1#8 <<< wl)
          downAt := Store.erase l.downAt wl
          retrains := min (l.retrains + 1) 0xFFFF } else l
      else s)
  | _ => .next s

/-! ### Congestion (R417) -/

/-- The entry of a rate table that names a destination. -/
def Die.rateOf (d : Die) (dest : Nat) : Option Nat :=
  (List.range 64).find? fun i => (Store.get none d.rates i).any fun r => r.dest = dest
/-- The entry that a notice for a new destination takes: the first free one, else the one with the highest rate. -/
def Die.rateSlot (d : Die) : Nat :=
  match (List.range 64).find? fun i => (Store.get none d.rates i).isNone with
  | some i => i
  | none =>
    let rate (i : Nat) : Nat := match Store.get none d.rates i with | some r => r.rate | none => 0
    (List.range 64).foldl (fun b i => if rate b < rate i then i else b) 0
/-- What a notice does to a rate table (R417). -/
def Die.notice (d : Die) (dest now : Nat) : Die :=
  match d.rateOf dest with
  | none => { d with rates := Store.set none d.rates d.rateSlot (some ⟨dest, 128, now, now⟩) }
  | some i =>
    let cut (r : Rate) : Rate :=
      if now < r.lastAt + 1000 then r else { r with rate := max (r.rate / 2) 4, lastAt := now, recAt := now }
    { d with rates := Store.upd none d.rates i fun r => r.map cut }
/-- CONGESTION_NOTICE (R417). -/
def execCongestionNotice (s : State) : Out :=
  match s.curEv with
  | some (.congestionNotice die dest) =>
    .next (if die < 16384 && dest < 2048 then s.modDie die fun d => (d.recovered s.time).notice dest s.time else s)
  | _ => .next s
/-- RATE_RECOVERY (R417). -/
def execRateRecovery (s : State) : Out :=
  match s.curEv with
  | some (.rateRecovery die entry) =>
    .next (if entry < 64 then
      s.modDie die fun d => { d with rates := Store.upd none d.rates entry fun r => r.bind fun r => r.recover s.time } else s)
  | _ => .next s

/-! ### Die clocks (R419, R420, R440) -/

/-- Requests a clock step (R419): a pending step keeps its boundary and takes the new target. -/
def Die.askClock (d : Die) (mhz now : Nat) : Die :=
  { d with pendClk := some (((d.pendClk.map (·.1)).getD ((now / 1000 + 1) * 1000)), mhz) }
/-- CLOCK_STEP (R419). -/
def execClockStep (s : State) : Out :=
  match s.curEv with
  | some (.clockStep die) =>
    match (s.die die).pendClk with
    | some (ts, mhz) => .next (if ts ≤ s.time then s.modDie die fun d => d.stepClock ts mhz else s)
    | none => .next s
  | _ => .next s
/-- RELOCK_END (R419): at most 2 µs after the step. -/
def execRelockEnd (s : State) : Out :=
  match s.curEv with
  | some (.relockEnd die) => .next (s.modDie die fun d => { d with relock := none })
  | _ => .next s
/-- The clock that a die has, or is about to have. -/
def Die.target (d : Die) : Nat := match d.pendClk with
  | some (_, mhz) => mhz
  | none => d.mhz
/-- The fastest die of a device that is not fenced, the lowest-numbered of equals (R440). -/
def State.fastest (s : State) (dev : Nat) : Option Nat :=
  (((List.range 8).map (8 * dev + ·)).filter fun k => !(s.die k).fenced).foldl (fun (b : Option Nat) k => match b with
    | none => some k
    | some x => if (s.die x).target < (s.die k).target then some k else b) none
/-- POWER_THROTTLE_STEP (R440). -/
def execPowerThrottleStep (s : State) : Out :=
  match s.curEv with
  | some (.powerThrottleStep dev pnow) =>
    let d := s.dev dev
    let s := s.modDev dev fun d => { d with pnow := pnow }
    if pnow ≤ d.plimit || (d.thrAt ≠ 0 && s.time < d.thrAt - 1 + 1000000) then .next s
    else match s.fastest dev with
      | none => .next s
      | some k =>
        if (s.die k).target < 650 then .next s
        else .next ((s.modDev dev fun d => { d with thrAt := s.time + 1 }).modDie k fun x => x.askClock (x.target - 50) s.time)
  | _ => .next s

/-! ### Circuit mode (R422–R424, R428) -/

/-- SLOT_TABLE_WRITE (R428): the SLOTW gang issues again once every device has acknowledged. -/
def execSlotTableWrite (s : State) : Out :=
  match s.curEv with
  | some (.slotTableWrite dev slot desc gang) => s.receive (.slotTableWrite dev slot desc gang) fun s =>
    let s := s.modDev dev fun d => { d with slots := Store.set 0 d.slots slot desc }
    s.acknowledge gang
  | _ => .next s
/-- CIRCUIT_ROTATION_START (R424). -/
def execCircuitRotationStart (s : State) : Out :=
  match s.curEv with
  | some (.circuitRotationStart dev) =>
    .next (s.modDev dev fun d => if !d.run && d.startAt ≠ 0 && d.startAt ≤ s.time then { d with run := true } else d)
  | _ => .next s
/-- CIRCUIT_SLOT_BOUNDARY (R423): after the guard the queue of each group that the slot connects is sent from its head; flits that
cannot finish before the slot ends stay queued, and a transfer whose last flit has been sent moves its data (log 46). -/
def execCircuitSlotBoundary (s : State) : Out :=
  match s.curEv with
  | some (.circuitSlotBoundary dev) =>
    let d := s.dev dev
    if !d.run || s.time < d.startAt then .next s
    else
      let e := d.sendSlot s.time
      let gone := (d.circQ.map (·.id)).filter fun id => !e.circQ.any (·.id = id)
      .next ((s.xfers.filter fun q => gone.contains q.id).foldl (fun s q => s.startXfer q) (s.modDev dev fun _ => e))
  | _ => .next s
/-- CIRCUIT_STOP (R424): a measured spread above the smallest guard stops the pod at the end of the rotation, whatever else stops it
there; at the time set, every queue returns to packet routing. -/
def execCircuitStop (s : State) : Out :=
  match s.curEv with
  | some (.circuitStop dev) =>
    let d := s.dev dev
    if !d.run then .next s
    else if d.stopAt.any fun x => x.1 ≤ s.time then
      .next (s.modDev dev fun d => { d with
        run := false
        startAt := 0
        stopAt := none
        circQ := []
        circTill := []
        spstop := (d.stopAt.map (·.2)).getD false })
    else
      let r := s.spreadNow
      .next (if d.minGuard < r.1 then
        r.2.modPod (dev / 32) fun x =>
          if x.run then { x with stopAt := some (((x.stopAt.map (·.1)).getD (x.rotEnd s.time)), true) } else x
        else r.2)
  | _ => .next s

end Machine
end Sys2Proof
end

