-- ==== Sys2Proof/Machine/Integer.lean ====
section
/-!
DEFINITION. Integer, logic and bit-stream instructions, major opcodes 0x20–0x3C (R120–R138).
-/
namespace Sys2Proof
namespace Machine

/-! ### Arithmetic, compare and select (R125) -/

/-- A typed operation of two operands (R125). -/
def Ctx.int2 (c : Ctx) (s : State) (t : IntT) (d : RegNum) (a : Src) (b : SrcI) (f : Int → Int → Int) : Res :=
  c.putT s t d fun l => f (c.r.getT t a l) (c.r.getTI t b l)
/-- A bitwise or shift operation of two operands at either width (R126). -/
def Ctx.log2 (c : Ctx) (s : State) (b64 : Bool) (d : RegNum) (a : Src) (b : SrcI)
    (f32 : Word → Word → Word) (f64 : DWord → DWord → DWord) : Res :=
  if b64 then c.putV2 s d fun l => f64 (c.r.src2 a l) (c.r.srcI2 false b l)
  else c.putV s d fun l => f32 (c.r.src a l) (c.r.srcI b l)
/-- A shift: the amount is one 32-bit value (R127). -/
def Ctx.shift (c : Ctx) (s : State) (b64 : Bool) (d : RegNum) (a : Src) (n : SrcI)
    (f32 : Word → Nat → Word) (f64 : DWord → Nat → DWord) : Res :=
  if b64 then c.putV2 s d fun l => f64 (c.r.src2 a l) (c.r.srcI n l).toNat
  else c.putV s d fun l => f32 (c.r.src a l) (c.r.srcI n l).toNat
/-- A count of bits, one register at either width (R129). -/
def Ctx.count (c : Ctx) (s : State) (b64 : Bool) (d : RegNum) (a : Src) (f32 : Word → Nat) (f64 : DWord → Nat) : Res :=
  c.putV s d fun l => BitVec.ofNat 32 (if b64 then f64 (c.r.src2 a l) else f32 (c.r.src a l))

/-- IADD (R125). -/
def execIadd (g : Guard) (t : IntT) (sat : Bool) (d : RegNum) (a : Src) (b : SrcI) (s : State) : Out :=
  issue (.iadd g t sat d a b) s fun c s => c.int2 s t d a b fun x y => if sat then t.sat (x + y) else x + y
/-- ISUB (R125). -/
def execIsub (g : Guard) (t : IntT) (sat : Bool) (d : RegNum) (a : Src) (b : SrcI) (s : State) : Out :=
  issue (.isub g t sat d a b) s fun c s => c.int2 s t d a b fun x y => if sat then t.sat (x - y) else x - y
/-- IMUL (R125). -/
def execImul (g : Guard) (t : IntT) (k : MulKind) (d : RegNum) (a : Src) (b : SrcI) (s : State) : Out :=
  issue (.imul g t k d a b) s fun c s =>
    match k with
    | .lo => c.int2 s t d a b fun x y => x * y
    | .hi => c.int2 s t d a b fun x y => (x * y) / 2 ^ t.width
    | .wide => c.putV2 s d fun l => BitVec.ofInt 64 (c.r.getT t a l * c.r.getTI t b l)
/-- IMAD (R125). -/
def execImad (g : Guard) (t : IntT) (wide : Bool) (d : RegNum) (a : Src) (b : SrcI) (x : Src) (s : State) : Out :=
  issue (.imad g t wide d a b x) s fun c s =>
    if wide then
      c.putV2 s d fun l =>
        BitVec.ofInt 64 (c.r.getT t a l * c.r.getTI t b l + wval t.signed 64 (c.r.src2 x l).toNat)
    else c.putT s t d fun l => c.r.getT t a l * c.r.getTI t b l + c.r.getT t x l
/-- IDIV (R125). -/
def execIdiv (g : Guard) (t : IntT) (d : RegNum) (a : Src) (b : SrcI) (s : State) : Out :=
  issue (.idiv g t d a b) s fun c s => c.int2 s t d a b t.div
/-- IREM (R125). -/
def execIrem (g : Guard) (t : IntT) (d : RegNum) (a : Src) (b : SrcI) (s : State) : Out :=
  issue (.irem g t d a b) s fun c s => c.int2 s t d a b t.rem
/-- IMIN (R125). -/
def execImin (g : Guard) (t : IntT) (d : RegNum) (a : Src) (b : SrcI) (s : State) : Out :=
  issue (.imin g t d a b) s fun c s => c.int2 s t d a b min
/-- IMAX (R125). -/
def execImax (g : Guard) (t : IntT) (d : RegNum) (a : Src) (b : SrcI) (s : State) : Out :=
  issue (.imax g t d a b) s fun c s => c.int2 s t d a b max
/-- IABS (R125). -/
def execIabs (g : Guard) (t : IntT) (sat : Bool) (d : RegNum) (a : Src) (s : State) : Out :=
  issue (.iabs g t sat d a) s fun c s =>
    c.putT s t d fun l => let v : Int := (c.r.getT t a l).natAbs; if sat then t.sat v else v
/-- INEG (R125). -/
def execIneg (g : Guard) (t : IntT) (sat : Bool) (d : RegNum) (a : Src) (s : State) : Out :=
  issue (.ineg g t sat d a) s fun c s =>
    c.putT s t d fun l => let v := -(c.r.getT t a l); if sat then t.sat v else v
/-- ISAD (R125). -/
def execIsad (g : Guard) (t : IntT) (d : RegNum) (a : Src) (b : SrcI) (x : Src) (s : State) : Out :=
  issue (.isad g t d a b x) s fun c s =>
    c.putV s d fun l => BitVec.ofInt 32 (((c.r.getT t a l - c.r.getTI t b l).natAbs : Int) + c.r.getT t x l)
/-- ICMP (R125). -/
def execIcmp (g : Guard) (rel : Rel) (t : IntT) (p : PredNum) (a : Src) (b : SrcI) (s : State) : Out :=
  issue (.icmp g rel t p a b) s fun c s => c.putP s p fun l => rel.holds (c.r.getT t a l) (c.r.getTI t b l)
/-- ISEL (R125). -/
def execIsel (g : Guard) (b64 : Bool) (d : RegNum) (a : Src) (b : SrcI) (p : PredNum) (s : State) : Out :=
  issue (.isel g b64 d a b p) s fun c s =>
    let sel (l : Nat) : Bool := (c.r.p p.toNat).getLsbD l
    if b64 then c.putV2 s d fun l => if sel l then c.r.src2 a l else c.r.srcI2 false b l
    else c.putV s d fun l => if sel l then c.r.src a l else c.r.srcI b l

/-! ### Logic (R126) -/

/-- AND (R126). -/
def execAnd (g : Guard) (b64 : Bool) (d : RegNum) (a : Src) (b : SrcI) (s : State) : Out :=
  issue (.and g b64 d a b) s fun c s => c.log2 s b64 d a b (· &&& ·) (· &&& ·)
/-- OR (R126). -/
def execOr (g : Guard) (b64 : Bool) (d : RegNum) (a : Src) (b : SrcI) (s : State) : Out :=
  issue (.or g b64 d a b) s fun c s => c.log2 s b64 d a b (· ||| ·) (· ||| ·)
/-- XOR (R126). -/
def execXor (g : Guard) (b64 : Bool) (d : RegNum) (a : Src) (b : SrcI) (s : State) : Out :=
  issue (.xor g b64 d a b) s fun c s => c.log2 s b64 d a b (· ^^^ ·) (· ^^^ ·)
/-- ANDN (R126). -/
def execAndn (g : Guard) (b64 : Bool) (d : RegNum) (a : Src) (b : SrcI) (s : State) : Out :=
  issue (.andn g b64 d a b) s fun c s => c.log2 s b64 d a b (fun x y => x &&& ~~~y) (fun x y => x &&& ~~~y)
/-- ORN (R126). -/
def execOrn (g : Guard) (b64 : Bool) (d : RegNum) (a : Src) (b : SrcI) (s : State) : Out :=
  issue (.orn g b64 d a b) s fun c s => c.log2 s b64 d a b (fun x y => x ||| ~~~y) (fun x y => x ||| ~~~y)
/-- XNOR (R126). -/
def execXnor (g : Guard) (b64 : Bool) (d : RegNum) (a : Src) (b : SrcI) (s : State) : Out :=
  issue (.xnor g b64 d a b) s fun c s => c.log2 s b64 d a b (fun x y => ~~~(x ^^^ y)) (fun x y => ~~~(x ^^^ y))
/-- NOT (R126). -/
def execNot (g : Guard) (b64 : Bool) (d : RegNum) (a : Src) (s : State) : Out :=
  issue (.not g b64 d a) s fun c s =>
    if b64 then c.putV2 s d fun l => ~~~(c.r.src2 a l) else c.putV s d fun l => ~~~(c.r.src a l)
/-- Bit i of the result is `table[4·a[i] + 2·b[i] + c[i]]` (R126). -/
def ternW (table : BitVec 8) (a b c : Word) : Word :=
  maskOf fun i => table.getLsbD
    ((if a.getLsbD i then 4 else 0) + (if b.getLsbD i then 2 else 0) + (if c.getLsbD i then 1 else 0))
/-- TERN (R126). -/
def execTern (g : Guard) (d : RegNum) (a b x : Src) (table : BitVec 8) (s : State) : Out :=
  issue (.tern g d a b x table) s fun c s => c.putV s d fun l => ternW table (c.r.src a l) (c.r.src b l) (c.r.src x l)

/-! ### Shifts, rotations and bit counts (R127–R129) -/

/-- SHL (R127). -/
def execShl (g : Guard) (b64 : Bool) (d : RegNum) (a : Src) (n : SrcI) (s : State) : Out :=
  issue (.shl g b64 d a n) s fun c s => c.shift s b64 d a n shlW shlW
/-- SHR (R127). -/
def execShr (g : Guard) (b64 : Bool) (d : RegNum) (a : Src) (n : SrcI) (s : State) : Out :=
  issue (.shr g b64 d a n) s fun c s => c.shift s b64 d a n shrW shrW
/-- SRA (R127). -/
def execSra (g : Guard) (b64 : Bool) (d : RegNum) (a : Src) (n : SrcI) (s : State) : Out :=
  issue (.sra g b64 d a n) s fun c s => c.shift s b64 d a n sraW sraW
/-- ROT (R127). -/
def execRot (g : Guard) (right b64 : Bool) (d : RegNum) (a : Src) (n : SrcI) (s : State) : Out :=
  issue (.rot g right b64 d a n) s fun c s => c.shift s b64 d a n (rotW right) (rotW right)
/-- FSHL (R128). -/
def execFshl (g : Guard) (d : RegNum) (a b : Src) (n : SrcI) (s : State) : Out :=
  issue (.fshl g d a b n) s fun c s => c.putV s d fun l =>
    (shlW (c.r.src a l ++ c.r.src b l : DWord) (c.r.srcI n l).toNat).extractLsb' 32 32
/-- FSHR (R128). -/
def execFshr (g : Guard) (d : RegNum) (a b : Src) (n : SrcI) (s : State) : Out :=
  issue (.fshr g d a b n) s fun c s => c.putV s d fun l =>
    (shrW (c.r.src a l ++ c.r.src b l : DWord) (c.r.srcI n l).toNat).extractLsb' 0 32
/-- POPC (R129). -/
def execPopc (g : Guard) (b64 : Bool) (d : RegNum) (a : Src) (s : State) : Out :=
  issue (.popc g b64 d a) s fun c s => c.count s b64 d a popW popW
/-- CLZ (R129). -/
def execClz (g : Guard) (b64 : Bool) (d : RegNum) (a : Src) (s : State) : Out :=
  issue (.clz g b64 d a) s fun c s => c.count s b64 d a clzW clzW
/-- CTZ (R129). -/
def execCtz (g : Guard) (b64 : Bool) (d : RegNum) (a : Src) (s : State) : Out :=
  issue (.ctz g b64 d a) s fun c s => c.count s b64 d a ctzW ctzW
/-- BREV (R129). -/
def execBrev (g : Guard) (b64 : Bool) (d : RegNum) (a : Src) (s : State) : Out :=
  issue (.brev g b64 d a) s fun c s =>
    if b64 then c.putV2 s d fun l => revW (c.r.src2 a l) else c.putV s d fun l => revW (c.r.src a l)

/-! ### Bit fields, byte permutation and LEA (R130–R132) -/

/-- BFX of R130. -/
def bfxW (uns : Bool) (a ctl : Word) : Word :=
  match bitField ctl with
  | none => 0
  | some (pos, len) => BitVec.ofInt 32 (wval (!uns) len (a.toNat / 2 ^ pos))
/-- BFI of R130: the field of `c` replaced by the low bits of `a`. -/
def bfiW (a ctl c : Word) : Word :=
  match bitField ctl with
  | none => c
  | some (pos, len) =>
    let m : Word := BitVec.ofNat 32 ((2 ^ len - 1) * 2 ^ pos)
    (c &&& ~~~m) ||| ((a <<< pos) &&& m)
/-- BMSK of R130. -/
def bmskW (ctl : Word) : Word :=
  match bitField ctl with
  | none => 0
  | some (pos, len) => BitVec.ofNat 32 ((2 ^ len - 1) * 2 ^ pos)
/-- PERMB of R131. -/
def permbW (a b sel : Word) : Word :=
  let x : DWord := b ++ a
  let byte (j : Nat) : Nat :=
    let nib := sel.toNat / 2 ^ (4 * j) % 16
    let v := x.toNat / 2 ^ (8 * (nib % 8)) % 256
    if 8 ≤ nib then (if 128 ≤ v then 255 else 0) else v
  BitVec.ofNat 32 (byte 0 + 2 ^ 8 * byte 1 + 2 ^ 16 * byte 2 + 2 ^ 24 * byte 3)

/-- BFX (R130). -/
def execBfx (g : Guard) (uns : Bool) (d : RegNum) (a : Src) (ctl : SrcI) (s : State) : Out :=
  issue (.bfx g uns d a ctl) s fun c s => c.putV s d fun l => bfxW uns (c.r.src a l) (c.r.srcI ctl l)
/-- BFI (R130). -/
def execBfi (g : Guard) (d : RegNum) (a : Src) (ctl : SrcI) (x : Src) (s : State) : Out :=
  issue (.bfi g d a ctl x) s fun c s => c.putV s d fun l => bfiW (c.r.src a l) (c.r.srcI ctl l) (c.r.src x l)
/-- BMSK (R130). -/
def execBmsk (g : Guard) (d : RegNum) (ctl : SrcI) (s : State) : Out :=
  issue (.bmsk g d ctl) s fun c s => c.putV s d fun l => bmskW (c.r.srcI ctl l)
/-- PERMB (R131). -/
def execPermb (g : Guard) (d : RegNum) (a b : Src) (sel : SrcI) (s : State) : Out :=
  issue (.permb g d a b sel) s fun c s => c.putV s d fun l => permbW (c.r.src a l) (c.r.src b l) (c.r.srcI sel l)
/-- LEA (R132). -/
def execLea (g : Guard) (uns uni : Bool) (sh : BitVec 3) (d : RegNum) (base : Src) (idx : SrcI) (s : State) : Out :=
  issue (.lea g uns uni sh d base idx) s fun c s => c.putV2 s d fun l =>
    let i := c.r.srcI idx l
    (if uni then c.r.ks2 base else c.r.src2 base l) + ((if uns then i.setWidth 64 else i.signExtend 64) <<< sh.toNat)

/-! ### Packed arithmetic (R133) -/

/-- Element width of a packed operation. -/
def pw (x16 : Bool) : Nat := if x16 then 16 else 8
/-- A packed operation on elements (R133). -/
def Ctx.packed (c : Ctx) (s : State) (x16 uns : Bool) (d : RegNum) (a : Src) (b : SrcI) (f : Int → Int → Int) : Res :=
  c.putV s d fun l =>
    packE (pw x16) fun e => f (elem (pw x16) (!uns) (c.r.src a l) e) (elem (pw x16) (!uns) (c.r.srcI b l) e)
/-- Saturation of a packed result under `.sat` (R133). -/
def psat (x16 uns sat : Bool) (v : Int) : Int := if sat then wsat (!uns) (pw x16) v else v
/-- A packed shift, with the amount in bits [7:0] (R133). -/
def Ctx.pshift (c : Ctx) (s : State) (x16 signed : Bool) (d : RegNum) (a : Src) (n : SrcI) (f : Int → Nat → Int) : Res :=
  c.putV s d fun l => packE (pw x16) fun e => f (elem (pw x16) signed (c.r.src a l) e) ((c.r.srcI n l).toNat % 256)

/-- PADD (R133). -/
def execPadd (g : Guard) (x16 uns sat : Bool) (d : RegNum) (a : Src) (b : SrcI) (s : State) : Out :=
  issue (.padd g x16 uns sat d a b) s fun c s => c.packed s x16 uns d a b fun x y => psat x16 uns sat (x + y)
/-- PSUB (R133). -/
def execPsub (g : Guard) (x16 uns sat : Bool) (d : RegNum) (a : Src) (b : SrcI) (s : State) : Out :=
  issue (.psub g x16 uns sat d a b) s fun c s => c.packed s x16 uns d a b fun x y => psat x16 uns sat (x - y)
/-- PMUL (R133). -/
def execPmul (g : Guard) (x16 uns sat : Bool) (d : RegNum) (a : Src) (b : SrcI) (s : State) : Out :=
  issue (.pmul g x16 uns sat d a b) s fun c s => c.packed s x16 uns d a b fun x y => psat x16 uns sat (x * y)
/-- PMIN (R133). -/
def execPmin (g : Guard) (x16 uns : Bool) (d : RegNum) (a : Src) (b : SrcI) (s : State) : Out :=
  issue (.pmin g x16 uns d a b) s fun c s => c.packed s x16 uns d a b min
/-- PMAX (R133). -/
def execPmax (g : Guard) (x16 uns : Bool) (d : RegNum) (a : Src) (b : SrcI) (s : State) : Out :=
  issue (.pmax g x16 uns d a b) s fun c s => c.packed s x16 uns d a b max
/-- PAVG (R133). -/
def execPavg (g : Guard) (x16 uns : Bool) (d : RegNum) (a : Src) (b : SrcI) (s : State) : Out :=
  issue (.pavg g x16 uns d a b) s fun c s => c.packed s x16 uns d a b fun x y => (x + y + 1) / 2
/-- PSHL (R133). -/
def execPshl (g : Guard) (x16 : Bool) (d : RegNum) (a : Src) (n : SrcI) (s : State) : Out :=
  issue (.pshl g x16 d a n) s fun c s => c.pshift s x16 false d a n fun x n => x * 2 ^ n
/-- PSHR (R133). -/
def execPshr (g : Guard) (x16 : Bool) (d : RegNum) (a : Src) (n : SrcI) (s : State) : Out :=
  issue (.pshr g x16 d a n) s fun c s => c.pshift s x16 false d a n fun x n => x / 2 ^ n
/-- PSRA (R133). -/
def execPsra (g : Guard) (x16 : Bool) (d : RegNum) (a : Src) (n : SrcI) (s : State) : Out :=
  issue (.psra g x16 d a n) s fun c s => c.pshift s x16 true d a n fun x n => x / 2 ^ n
/-- PCMP (R133). -/
def execPcmp (g : Guard) (rel : Rel) (x16 uns : Bool) (d : RegNum) (a : Src) (b : SrcI) (s : State) : Out :=
  issue (.pcmp g rel x16 uns d a b) s fun c s =>
    c.packed s x16 uns d a b fun x y => if rel.holds x y then -1 else 0

/-! ### The DRAW bit stream (R135–R138) -/

/-- Sets the draw window and cursor of the lanes of a mask. -/
def Regs.setDraw (x : Regs) (m : BitVec 32) (f : Nat → DWord × Nat) : Regs :=
  (lanesOf m).foldl (fun x l =>
    { x with wins := Store.set 0 x.wins l (f l).1, curs := Store.set 0 x.curs l (f l).2 }) x
/-- DRAWC (R135). -/
def execDrawc (g : Guard) (a : Src) (b : SrcI) (s : State) : Out :=
  issue (.drawc g a b) s fun c s =>
    .done (c.mod s fun x => x.setDraw c.emask fun l => (c.r.src2 a l, (c.r.srcI b l).toNat % 32))
/-- One read of `n` bits, 1 to 32: the value, and the window and cursor after it (R136). -/
def drawStep (win : DWord) (cur n : Nat) (pair : DWord) : Word × DWord × Nat :=
  let pos := cur % 64
  let sel := cur / 64
  let v := BitVec.ofNat 32 (win.toNat / 2 ^ pos % 2 ^ n)
  if pos + n < 32 then (v, win, 64 * sel + pos + n)
  else
    let word := if sel = 0 then pair.toNat % 2 ^ 32 else pair.toNat / 2 ^ 32
    (v, BitVec.ofNat 64 (win.toNat / 2 ^ 32 + word * 2 ^ 32), 64 * (1 - sel) + pos + n - 32)
/-- DRAW (R136, R137). -/
def execDraw (g : Guard) (d : RegNum) (a : Src) (w : SrcI) (s : State) : Out :=
  issue (.draw g d a w) s fun c s =>
    let n (l : Nat) : Nat := (c.r.srcI w l).toNat
    let bad := (lanesOf c.emask).filter fun l => 32 < n l
    let r := c.laneTrap (bad.map fun l => ⟨l, 0x14, 0, 0⟩) s
    if !r.1 then .done r.2
    else
      let m := c.emask &&& ~~~(maskOf fun l => bad.contains l)
      let out (l : Nat) := drawStep (Store.get 0 c.r.wins l) (Store.get 0 c.r.curs l) (n l) (c.r.src2 a l)
      let some' := m &&& maskOf fun l => n l ≠ 0
      .done (c.mod r.2 fun x =>
        (x.setV d.toNat m fun l => if n l = 0 then 0 else (out l).1).setDraw some' fun l => (out l).2)

/-! ### Moves (R134) -/

/-- MOV (R134). -/
def execMov (g : Guard) (b64 : Bool) (d : RegNum) (a : MovSrc) (s : State) : Out :=
  issue (.mov g b64 d a) s fun c s =>
    match a with
    | .reg r => if b64 then c.putV2 s d fun l => c.r.src2 r l else c.putV s d fun l => c.r.src r l
    | .i32 w => if b64 then c.putV2 s d fun _ => w.signExtend 64 else c.putV s d fun _ => w
    | .i64 w => c.putV2 s d fun _ => w

end Machine
end Sys2Proof
end

