-- ==== Sys2Proof/Machine/Launch.lean ====
section
/-!
DEFINITION. Launch and scheduling instructions, major opcodes 0xB0–0xB7 (R348–R366, R371), launch records, placement
(R50, R358, R359), and stopping, saving and restarting teams (R367–R373).
-/
namespace Sys2Proof
namespace Machine

/-! ### Launch records (R350, R351, R353) -/

/-- A launch record and its auxiliary table, as LAUNCH reads them. -/
structure LaunchReq where
  lr      : LaunchRec
  roles   : List Role
  inV     : BitVec 256
  inK     : BitVec 128
  members : List Member
  deriving DecidableEq, Repr

/-- Whether a partition word is valid (R49); its reserved bits are ignored (R4). -/
def pwordOk (w : Nat) : Bool := 1 ≤ w % 64 && w % 64 + w / 64 % 64 + w / 4096 % 64 ≤ 48
/-- Granules of a partition word: registers, scratchpad, accumulators. -/
def regG (w : Word) : Nat := w.toNat % 64
def spG (w : Word) : Nat := w.toNat / 64 % 64
def accG (w : Word) : Nat := w.toNat / 4096 % 64
/-- What a granule of a core's SRAM pool holds (R49). -/
inductive Granule where
  | regs | scratch | idle
  | tile (n : Nat)
  deriving DecidableEq, Repr
/-- Granule of accumulator tile `n` of a core (R49). -/
def tileGranule (w : Word) (n : Nat) : Nat := regG w + spG w + n
/-- What granule `n` of 48 holds under a partition word (R49). -/
def granuleOf (w : Word) (n : Nat) : Granule :=
  if n < regG w then .regs
  else if n < regG w + spG w then .scratch
  else if n < regG w + spG w + accG w then .tile (n - regG w - spG w)
  else .idle
/-- Role of a code. -/
def roleOf : Nat → Role
  | 1 => .copy
  | 2 => .mtx
  | 3 => .vec
  | 4 => .link
  | _ => .gen
/-- The record of 256 bytes; the reserved bits of its partition word are ignored (R4). -/
def readRec (bs : List Byte) : LaunchRec :=
  let n := ofBytes bs
  let f (lo w : Nat) : Nat := n / 2 ^ lo % 2 ^ w
  { entry := BitVec.ofNat 64 (f 0 64), nteams := f 64 32, gangs := f 96 8 + 1, ncores := f 104 3 + 1,
    share := f 112 16 * 1024, pword := BitVec.ofNat 32 (f 128 18), vbud := f 160 8, kbud := f 168 8, tiles := f 176 8,
    prio := f 184 3, autoreap := n.testBit 187, cosched := n.testBit 188, diemask := BitVec.ofNat 8 (f 192 8),
    chome := f 200 3, nmem := f 208 16, dep0 := BitVec.ofNat 32 (f 256 32), dep1 := BitVec.ofNat 32 (f 288 32),
    donep := BitVec.ofNat 64 (f 320 64), privb := BitVec.ofNat 64 (f 384 64), privsz := f 448 32,
    aux := BitVec.ofNat 64 (f 512 64), kpre := (List.range 16).map fun i => BitVec.ofNat 32 (f (1024 + 32 * i) 32),
    raw8 := (bs.drop 8).take 16 }
/-- Whether a device pointer of a record is one: space 0x0, its other fields as R54 and R55 ask. -/
def devPtr (p : DWord) : Bool := ptrSpace p = 0 && (ptrCause p 0 0).isNone
/-- Refusal code 1 of a record. -/
def recBad (bs : List Byte) (r : LaunchRec) : Bool :=
  let n := ofBytes bs
  let f (lo w : Nat) : Bool := n / 2 ^ lo % 2 ^ w ≠ 0
  f 1536 512 || f 576 448 || f 480 32 || f 224 32 || f 203 5 || f 189 3 || f 107 5 ||
  r.diemask = 0 || (r.nmem ≠ 0 && r.aux = 0) || r.nteams = 0 || 2 ^ 24 < r.nteams || r.vbud = 0 || 32 < r.vbud ||
  r.kbud = 0 || 16 < r.kbud || 48 < r.tiles || r.privsz % 16 ≠ 0 || r.aux.toNat % 128 ≠ 0 || !devPtr r.aux ||
  r.privb.toNat % 65536 ≠ 0 || !devPtr r.privb || r.donep.toNat % 8 ≠ 0 ||
  (r.donep ≠ 0 && !(devPtr r.donep || (ptrSpace r.donep = 4 && (ptrCause r.donep 0 0).isNone)))
/-- The auxiliary table: whether a reserved byte is set, and its parts. -/
def readAux (r : LaunchRec) (bs : List Byte) : Bool × LaunchReq × Bool :=
  let n := ofBytes (bs.take 256)
  let code (g : Nat) : Nat := n / 2 ^ (4 * g) % 16
  let mem (i : Nat) : Member :=
    let o := 256 + 8 * i
    let t := field bs o 4
    ⟨if t = 2 ^ 32 - 1 then none else some t, field bs (o + 4) 1, field bs (o + 5) 1⟩
  let ms := (List.range r.nmem).map mem
  let resv := field bs 176 80 ≠ 0 || (List.range r.nmem).any fun i => field bs (262 + 8 * i) 2 ≠ 0
  (resv,
   { lr := r, roles := (List.range r.gangs).map fun g => roleOf (code g),
     inV := BitVec.ofNat 256 (field bs 128 32), inK := BitVec.ofNat 128 (field bs 160 16), members := ms },
   (List.range r.gangs).any fun g => 4 < code g)
/-- Circles of one gang of one team. -/
def circlesOfGang (ms : List Member) (team : Option Nat) (gang : Nat) : List Nat :=
  ((ms.filter fun m => m.gang = gang && (m.team = none || m.team = team)).map (·.circle)).eraseDups
/-- Refusal code 4. -/
def auxBad (q : LaunchReq) (badRole : Bool) : Bool :=
  badRole || q.members.any fun m =>
    255 < m.circle || q.lr.gangs ≤ m.gang || 4 < (circlesOfGang q.members m.team m.gang).length

/-! ### Placement (R50, R359) -/

/-- Member core of gang `g`: MTX gangs on member 0, the others dealt out in turn. -/
def memberOf (roles : List Role) (ncores g : Nat) : Nat :=
  if roles.getD g .gen = .mtx then 0
  else ((roles.take g).filter (· ≠ .mtx)).length % ncores
/-- Gangs of member `i`. -/
def gangsOn (roles : List Role) (ncores gangs i : Nat) : List Nat :=
  (List.range gangs).filter fun g => memberOf roles ncores g = i
/-- What the resident teams of a core hold: its partition word when it has any, scratchpad bytes, which accumulator tiles
(R52), gangs with their slots, and register bytes. -/
structure CoreUse where
  word  : Option Word := none
  share : Nat := 0
  tiles : List Nat := []
  slots : List Nat := []
  regs  : Nat := 0
  deriving DecidableEq, Repr
/-- Whether member `i` of a team fits on a core beside what it holds (R33, R50, R359). -/
def CoreUse.fits (u : CoreUse) (lr : LaunchRec) (roles : List Role) (i : Nat) : Bool :=
  let k := (gangsOn roles lr.ncores lr.gangs i).length
  (u.word.isNone || u.word = some lr.pword) && u.share + lr.share ≤ spG lr.pword * 65536 &&
  (i ≠ 0 || u.tiles.length + lr.tiles ≤ accG lr.pword) && u.slots.length + k ≤ 64 &&
  u.regs + k * 1024 * lr.vbud ≤ regG lr.pword * 65536
/-- The lowest-numbered free tiles of a core that member `i` of a team takes, ascending (R52). -/
def CoreUse.pick (u : CoreUse) (lr : LaunchRec) (i : Nat) : List Nat :=
  if i = 0 then ((List.range (accG lr.pword)).filter fun n => !u.tiles.contains n).take lr.tiles else []
/-- A core after it has taken member `i`. -/
def CoreUse.take (u : CoreUse) (lr : LaunchRec) (roles : List Role) (i : Nat) : CoreUse :=
  let k := (gangsOn roles lr.ncores lr.gangs i).length
  let free := (List.range 64).filter fun n => !u.slots.contains n
  { word := some lr.pword, share := u.share + lr.share, tiles := u.tiles ++ u.pick lr i,
    slots := u.slots ++ free.take k, regs := u.regs + k * 1024 * lr.vbud }
/-- Refusal code 3: the shares, tiles and gangs of a team on empty cores. -/
def tooBig (lr : LaunchRec) (roles : List Role) : Bool :=
  (List.range lr.ncores).any fun i => !(({} : CoreUse).fits lr roles i)
/-- Whether a team occupies its cores. -/
def Team.onCores (t : Team) : Bool := t.state = .resident || t.state = .stopping
/-- What a core of a die holds. -/
def State.coreUse (s : State) (di core : Nat) : CoreUse :=
  let ts := s.teamList.filter fun p => p.2.die = di && p.2.onCores && p.2.cores.contains core
  let gs := s.gangList.filter fun p => p.2.resident && p.2.core = core && ts.any fun t => t.1 = p.2.team
  let lrOf (t : Team) : LaunchRec := match s.cohort? t.cohort with | some c => c.lr | none => {}
  { word := if ts.isEmpty then none else some (s.core (coreKey di core)).pword,
    share := ts.foldl (fun a p => a + (lrOf p.2).share) 0,
    tiles := ts.flatMap fun p => if p.2.cores.head? = some core then p.2.tileMap else [],
    slots := gs.map (·.2.rslot),
    regs := gs.foldl (fun a p => a + (match s.team? p.2.team with | some t => 1024 * (lrOf t).vbud | none => 0)) 0 }
/-- The cores of a die that a team takes: member 0 on `first` when it is named (R364), otherwise each member on the
lowest-numbered core that can hold it; with what the cores hold afterwards. -/
def placeOn (use : List CoreUse) (lr : LaunchRec) (roles : List Role) (first : Option Nat) : Option (List Nat × List CoreUse) :=
  (List.range lr.ncores).foldl (fun acc i =>
    match acc with
    | none => none
    | some (cs, us) =>
      match (List.range us.length).find? fun k =>
          !cs.contains k && (i ≠ 0 || first.isNone || first = some k) && (us.getD k {}).fits lr roles i with
      | none => none
      | some k => some (cs ++ [k], us.set k ((us.getD k {}).take lr roles i))) (some ([], use))
/-- What every core of a die holds. -/
def State.dieUse (s : State) (di : Nat) : List CoreUse := (List.range 48).map (s.coreUse di)
/-- Teams of a record that fit on an empty die, at most `k`. -/
def capacity (lr : LaunchRec) (roles : List Role) : List CoreUse → Nat → Nat
  | _, 0 => 0
  | use, k + 1 =>
    match placeOn use lr roles none with
    | some (_, u) => 1 + capacity lr roles u k
    | none => 0
/-- Dies that a mask names. -/
def diesOf (m : BitVec 8) : List Nat := (List.range 8).filter m.getLsbD
/-- Refusal code 9: the teams of a COSCHED cohort do not fit on those of its dies that are not fenced (R412) when the device is
empty. -/
def State.coschedBad (s : State) (dev : Nat) (lr : LaunchRec) (roles : List Role) : Bool :=
  lr.cosched && 8 * 3072 < lr.nteams ||
  (lr.cosched && ((diesOf lr.diemask).filter fun d => !(s.die (8 * dev + d)).fenced).length *
    capacity lr roles (List.replicate 48 {}) (min lr.nteams 3072) < lr.nteams)

/-! ### LAUNCH (R353, R354) -/

/-- Whether a cohort has finished, and the status that LWAIT gives (R354, R356). -/
def Cohort.status (c : Cohort) : Option Nat :=
  match c.state with
  | .done => some 0
  | .error => some 2
  | .cancelled => some 3
  | _ => none

/-- The cohort slot that a handle names on a device, when it holds a cohort of the tenant. -/
def State.findCohort (s : State) (dev tenant : Nat) (h : Word) : Option (Nat × Cohort) :=
  let n := h.toNat
  let key := (8 * dev + n / 2 ^ 24 % 8) * 256 + n % 256
  let sl : CohortSlot := Store.get {} s.cohSlots key
  if n / 2 ^ 27 = 0 && n / 2 ^ 8 % 256 = 0 && sl.gen = n / 2 ^ 16 % 256 then
    match sl.cohort with
    | some c => if c.tenant = tenant then some (key, c) else none
    | none => none
  else none
/-- The free cohort slot of a die that was freed longest ago, the lowest of equals (R321, R354). -/
def State.freeCohSlot (s : State) (di : Nat) : Option Nat :=
  ((List.range 256).foldl (fun (b : Option (Nat × Nat)) i =>
    let sl : CohortSlot := Store.get {} s.cohSlots (di * 256 + i)
    if sl.cohort.isSome then b
    else match b with
      | none => some (i, sl.freed)
      | some q => if sl.freed < q.2 then some (i, sl.freed) else b) none).map (·.1)
/-- Whether a dependence of a record names no live or reapable cohort of the tenant on the device. -/
def State.depsBad (s : State) (dev tenant : Nat) (r : LaunchRec) : Bool :=
  [r.dep0, r.dep1].any fun d => d ≠ 0 && (s.findCohort dev tenant d).isNone
/-- Bytes of the auxiliary table that a record needs read: none when it has none or is refused without it. -/
def auxBytes (bs : List Byte) : Nat :=
  let r := readRec bs
  if recBad bs r || r.aux = 0 then 0 else 256 + 8 * r.nmem
/-- What a record and its table come to for a start on a die: the first refusal of R353 that applies, or the request. When the
table could not be read, `none`, the conditions of the record alone come first, its gangs taken as GEN. -/
def State.judgeLaunch (s : State) (dev die tenant : Nat) (bs : List Byte) (aux : Option (List Byte)) : Except Nat LaunchReq :=
  let r := readRec bs
  let r := { r with prio := min r.prio ((s.tenant (tenantKey dev tenant)).sched.toNat / 2 ^ 16 % 8) }
  let gens := List.replicate r.gangs Role.gen
  let late (e : Nat) : Nat :=
    if s.depsBad dev tenant r then 5 else if (s.freeCohSlot (8 * dev + die)).isNone then 6
    else if !codeOk r.entry then 7 else e
  match aux with
  | none => .error (if !pwordOk r.pword.toNat then 2 else if tooBig r gens then 3 else late 8)
  | some xs =>
    let a := if r.aux = 0 then (false, ({ lr := r, roles := gens, inV := 0, inK := 0, members := [] } : LaunchReq), false)
      else readAux r xs
    if recBad bs r || a.1 then .error 1
    else if !pwordOk r.pword.toNat then .error 2
    else if tooBig r a.2.1.roles then .error 3
    else if auxBad a.2.1 a.2.2 then .error 4
    else match late 0 with
      | 0 => if s.coschedBad dev r a.2.1.roles then .error 9 else .ok a.2.1
      | k => .error k
/-- A launch record that the device reads on its own (R439), and what it comes to. -/
def State.readLaunch (s : State) (dev die tenant ptr : Nat) : Except Nat LaunchReq :=
  match s.loadBytes dev tenant ptr 256 with
  | .error _ => .error 8
  | .ok bs =>
    let aux : Option (List Byte) := if auxBytes bs = 0 then some []
      else match s.loadBytes dev tenant (readRec bs).aux.toNat (auxBytes bs) with
        | .ok xs => some xs
        | .error _ => none
    s.judgeLaunch dev die tenant bs aux
/-- A new cohort looks at the cohorts it depends on: one that has finished already is recorded, since its slot may be freed
before the cohort leaves DEPWAIT (R354). -/
def Cohort.dependNow (c : Cohort) (s : State) : Cohort :=
  [c.lr.dep0, c.lr.dep1].foldl (fun c d =>
    match (s.findCohort c.dev c.tenant d).bind fun p => p.2.status with
    | some st => if d = 0 then c else c.depend c.dev c.tenant d (st = 0)
    | none => c) c
/-- Takes a cohort slot: the new cohort is in DEPWAIT. -/
def State.newCohort (s : State) (dev die tenant : Nat) (control : Bool) (q : LaunchReq) : Option (Nat × State) :=
  (s.freeCohSlot (8 * dev + die)).map fun i =>
    let key := (8 * dev + die) * 256 + i
    let (n, s) := s.newId
    let c : Cohort := { tenant := tenant, dev := dev, control := control, lr := q.lr, roles := q.roles, inV := q.inV,
                        inK := q.inK, members := q.members, order := n }
    (key, { s with cohSlots := Store.upd {} s.cohSlots key fun sl => { sl with cohort := some (c.dependNow s) } })
/-- The request of LAUNCH for `n` bytes at a pointer: acquire loads of scope .sys, sector by sector (R353). -/
def recReq (p : DWord) (n : Nat) : MemReq :=
  { op := .load false, size := 64, weak := false, acq := true, scope := .sys, uni := true,
    lanes := (List.range ((n + 63) / 64)).map fun i => (0, p + BitVec.ofNat 64 (64 * i), 0, 0) }
/-- The record and the table have been read, which acquires: the cohort starts, or DST says why not (R353). -/
def Ctx.launch (c : Ctx) (d : RegNum) (bs : List Byte) (aux : Option (List Byte)) (s : State) : Res :=
  let s := c.endRegion (c.acquire true s)
  match s.judgeLaunch c.C.dev (c.die % 8) c.tenant bs aux with
  | .error k => c.putK s d (BitVec.ofNat 32 (0x80000000 + k))
  | .ok q =>
    match s.newCohort c.C.dev (c.die % 8) c.tenant false q with
    | none => c.putK s d 0x80000006
    | some (key, s) => c.putK s d (BitVec.ofNat 32 (s.handle key))
/-- LAUNCH once its release has been performed: it reads the record, and the table that the record names; where the record cannot be
read the launch is refused (R353). -/
def Ctx.launchFrom (c : Ctx) (d : RegNum) (a : DWord) (s : State) : Res :=
  match c.fetch (recReq a 256) s with
  | .wait w s => .wait w s
  | .flt _ s => c.putK (c.endRegion (c.acquire true s)) d 0x80000008
  | .bytes bs s =>
    let n := auxBytes bs
    if n = 0 then c.launch d bs (some []) s
    else match c.fetch (recReq (readRec bs).aux n) s with
      | .wait w s => .wait w s
      | .flt _ s => c.launch d bs none s
      | .bytes xs s => c.launch d bs (some (xs.take n)) s
/-- LAUNCH (R353). -/
def execLaunch (g : Guard) (d : RegNum) (ptr : Src) (off : Option Word) (s : State) : Out :=
  issue (.launch g d ptr off) s fun c s =>
    let a := c.kaddr ptr ((off.getD 0).signExtend 64)
    match ptrCause a c.C.scratchBytes c.C.lr.privsz with
    | some k => c.trapAt 0x10 k a s
    | none =>
      if ptrSpace a ≠ 0 && ptrSpace a ≠ 4 then c.trapAt 0x10 2 a s
      else if a.toNat % 256 ≠ 0 then c.trapAt 0x11 0 a s
      else match c.release s with
        | (some w, s) => .wait w s
        | (none, s) => c.launchFrom d a s

/-! ### LWAIT and LQRY (R355–R357) -/

/-- Code of a cohort state (R354). -/
def CohSt.code : CohSt → Nat
  | .depwait => 0
  | .dispatch => 1
  | .run => 2
  | .done => 3
  | .error => 4
  | .cancelled => 5
/-- The return of LWAIT with a status: an acquire (R356). -/
def Ctx.lwaitEnd (c : Ctx) (q : Bool) (d : RegNum) (st : Nat) (s : State) : Res :=
  let s := s.modGang c.gid fun g => { g with lwait := none, lres := none }
  if st ≠ 0 && !q then c.trap 0x20 st s else c.putK (if st = 7 then s else c.acquire true s) d (BitVec.ofNat 32 st)
/-- LWAIT (R356). A wait that has begun answers for the cohort it waits for, whether or not its slot has been freed. -/
def execLwait (g : Guard) (q : Bool) (d : RegNum) (h : Src) (s : State) : Out :=
  issue (.lwait g q d h) s fun c s =>
    let found := s.findCohort c.C.dev c.tenant (c.r.ks h)
    match c.G.lres, found with
    | some st, some (key, x) =>
      if c.G.lwait = some key && x.status = some st then c.lwaitEnd q d st (s.freeCohort key) else c.lwaitEnd q d st s
    | some st, none => c.lwaitEnd q d st s
    | none, none => c.lwaitEnd q d 7 s
    | none, some (key, x) =>
      match x.status with
      | some st => c.lwaitEnd q d st (s.freeCohort key)
      | none => .wait .answer (s.modGang c.gid fun g => { g with lwait := some key })
/-- LQRY (R357); what `.placed` and `.done` give for an unknown handle is not stated (log 11). -/
def execLqry (g : Guard) (op : Lqry) (d : RegNum) (h : Src) (s : State) : Out :=
  issue (.lqry g op d h) s fun c s =>
    match s.findCohort c.C.dev c.tenant (c.r.ks h), op with
    | some (_, x), .state => c.putK s d (BitVec.ofNat 32 x.state.code)
    | some (_, x), .placed => c.putK s d (BitVec.ofNat 32 x.started)
    | some (_, x), .done => c.putK s d (BitVec.ofNat 32 x.exited)
    | some (_, x), .status => c.putK s d (BitVec.ofNat 32 (x.status.getD 0xFF))
    | none, .state | none, .status => c.putK s d 7
    | none, _ =>
      let (n, s) := s.draw
      c.putK s d (Config.freeWord n)

/-! ### YIELD, SLEEP, RGN, RGNX, TMIG (R363, R366, R371) -/

/-- The issuing gang goes to the pending set. -/
def Ctx.pend (c : Ctx) (w : Wait) (s : State) : Res :=
  .done (s.modGang c.gid fun g => { g.setWait c.sec w with active := false, movedAt := s.time })
/-- YIELD (R363). -/
def execYield (g : Guard) (s : State) : Out := issue (.yield g) s fun c s => c.pend .ready s
/-- SLEEP (R363). -/
def execSleep (g : Guard) (n : SrcI) (s : State) : Out :=
  issue (.sleep g n) s fun c s =>
    let k := (c.r.ksI n).toNat
    c.pend (if k = 0 then .ready else .sleep (s.time + k)) s
/-- RGN (R371). -/
def execRgn (g : Guard) (s : State) : Out :=
  issue (.rgn g) s fun c s => .done (s.modGang c.gid fun x =>
    { x with rgnOpen := true, rgnPc := c.next, rgnMask := x.regs.pri.lmask })
/-- RGNX (R371). -/
def execRgnx (g : Guard) (s : State) : Out := issue (.rgnx g) s fun c s => .done (c.endRegion s)
/-- The code of R366 with which TMIG refuses. -/
def Ctx.tmigCode (c : Ctx) (n : Nat) : Option Nat :=
  let here := c.die % 8
  let dies := diesOf c.C.lr.diemask
  if 8 < n || (n < 8 && !dies.contains n) || (n = 8 && dies.all (· = here)) then some 1
  else if c.T.colls.any fun p => p.2.state ≠ .free then some 2
  else if n = here then some 3
  else none
/-- Begins to stop a team (R369). -/
def State.stopTeam (s : State) (tid : Nat) : State :=
  match s.team? tid with
  | some t =>
    if t.state = .resident then (s.setTeam tid { t with state := .stopping, since := s.time, stopAt := s.time }).endPasses tid else s
  | none => s
/-- TMIG (R366). -/
def execTmig (g : Guard) (d : RegNum) (n : SrcI) (s : State) : Out :=
  issue (.tmig g d n) s fun c s =>
    let k := (c.r.ksI n).toNat
    match c.tmigCode k with
    | some v => c.putK s d (BitVec.ofNat 32 v)
    | none => .done ((s.modTeam c.tid fun t =>
        { t with fullReq := true, tmig := some ⟨c.gid, d, k, s.time + 1000000, t.die⟩ }).stopTeam c.tid)

/-! ### Starting a team (R321, R359) -/

/-- The free team slot of a die that was freed longest ago, the lowest of equals (R321). -/
def State.freeTeamSlot (s : State) (di : Nat) : Option Nat :=
  ((List.range 4096).foldl (fun (b : Option (Nat × Nat)) i =>
    let sl : TeamSlot := Store.get {} s.teamSlots (di * 4096 + i)
    if sl.team.isSome then b
    else match b with
      | none => some (i, sl.freed)
      | some q => if sl.freed < q.2 then some (i, sl.freed) else b) none).map (·.1)
/-- Hallmark of a slot of a die (R39). -/
def hallOf (di slot gen : Nat) : Word := BitVec.ofNat 32 (di / 8 % 32 * 2 ^ 27 + di % 8 * 2 ^ 24 + slot * 2 ^ 12 + gen)
/-- Launch values of a gang's registers (R30, R47, R359), starting at a PC with a mask. -/
def launchRegs (C : Cohort) (pc : DWord) (mask : BitVec 32) : Regs :=
  let pre := (C.lr.kpre.zipIdx.filter fun p => p.2 < 8 * C.lr.kbud).foldl (fun (m : Store Word) p => Store.set 0 m p.2 p.1) []
  { pri := { pc := pc, lmask := mask, valid := true }, kregs := pre,
    vfull := ~~~C.inV ||| (1#256 <<< 255), kfull := ~~~C.inK ||| (1#128 <<< 127) }
/-- Places one gang on a core: the partition with the fewest resident gangs and the lowest free slot (R359, R360); it is active where a
place is free and no gang of the pending set waits for one (R362). -/
def State.seatGang (s : State) (gid di core : Nat) (g : Gang) : State :=
  let here := s.gangList.filter fun p => p.1 ≠ gid && p.2.resident && p.2.core = core &&
    (match s.team? p.2.team with | some t => t.die = di | none => false)
  let load (k : Nat) : Nat := (here.filter fun p => p.2.part = k).length
  let part := [1, 2, 3].foldl (fun b k => if load k < load b then k else b) 0
  let slot := ((List.range 64).find? fun n => !here.any fun p => p.2.rslot = n).getD 0
  let mates := here.filter fun p => p.2.part = part
  s.setGang gid { g with core := core, part := part, rslot := slot, resident := true,
                         active := (mates.filter (·.2.active)).length < 8 && (oldest mates).isNone,
                         movedAt := s.time, issuedAt := 0, wait := .ready, wait2 := .ready }
/-- Seats every gang of a team on its cores; a core without a resident team adopts the word (R50), and drops its clean
lines, since what came before the start is seen by the team (R353); the team's tiles are mapped anew (R52). -/
def State.seatTeam (s : State) (tid di : Nat) (cs : List Nat) (C : Cohort) (t : Team) (mk : Nat → Gang) : State :=
  let s := cs.foldl (fun s k => (s.modCore (coreKey di k) fun c => { c with pword := C.lr.pword }).dropCleanAll (coreKey di k)) s
  let map := (s.coreUse di (cs.headD 0)).pick C.lr 0
  let s := s.setTeam tid { t with die := di, cores := cs, tileMap := map, state := .resident, since := s.time, startAt := s.time }
  (List.range C.ngangs).foldl (fun s i =>
    s.seatGang (gangKey tid i) di (cs.getD (memberOf C.roles C.lr.ncores i) 0) (mk i)) s
/-- Every team of a cohort has started. -/
def State.checkRun (s : State) (ck : Nat) : State :=
  match s.cohort? ck with
  | some c => if c.state = .dispatch && c.started = c.lr.nteams then s.modCohort ck fun c => { c with state := .run } else s
  | none => s
/-- Starts a waiting team on its die, when cores and a team slot can take it (R359). -/
def State.startTeam (s : State) (tid : Nat) : Option State :=
  match s.team? tid with
  | none => none
  | some t =>
    match s.cohort? t.cohort with
    | none => none
    | some C =>
      let first := if t.stolen then some t.startQ else none
      match placeOn (s.dieUse t.die) C.lr C.roles first, s.freeTeamSlot t.die with
      | some (cs, _), some slot =>
        let sk := t.die * 4096 + slot
        let sl : TeamSlot := Store.get {} s.teamSlots sk
        let s := { s with teamSlots := Store.set {} s.teamSlots sk { sl with team := some tid } }
        let s := s.modCore (coreKey t.die t.startQ) fun c => { c with startQ := c.startQ.erase tid }
        let t := { t with hall := hallOf t.die slot sl.gen, slotKey := sk }
        let s := s.seatTeam tid t.die cs C t fun i =>
          { team := tid, idx := i, role := C.roles.getD i .gen, regs := launchRegs C C.lr.entry (BitVec.allOnes 32) }
        some ((s.modCohort t.cohort fun c => { c with started := c.started + 1 }).checkRun t.cohort)
      | _, _ => none

/-! ### Stopping, saving and placing again (R369–R373) -/

/-- Whether a stopping team takes region restart (R370). -/
def State.restarts (s : State) (tid : Nat) (t : Team) (C : Cohort) : Bool :=
  !t.fullReq && t.ending.isNone && ((teamGangs tid C.ngangs).all fun k => match s.gang? k with | some g => g.rgnOpen | none => false) &&
  C.inV = 0 && C.inK = 0 && t.inbox.isEmpty && t.fwdQ.isEmpty && t.colls.all fun p => p.2.state = .free
/-- Whether an answer is that of a timed send, which no stop waits for or cancels (R431). -/
def State.timed (s : State) (id : Nat) : Bool :=
  s.xfers.any fun x => x.id = id && (match x.kind with | .tsnd .. => true | _ => false)
/-- The gangs of a team leave their cores: flux state, WAITLN and SLEEP are discarded (R369). -/
def State.unseat (s : State) (tid n : Nat) : State :=
  s.modGangs tid n fun g => { g with resident := false, flux := none, wait := .ready, wait2 := .ready, active := false,
                                     owed := g.owed.filter fun o => s.timed o.1, long := [] }
/-- The team of a rank of a running collective. -/
def State.collTeam (s : State) (coll rank : Nat) : Option Nat :=
  (s.teamList.find? fun p => p.2.colls.any fun q => q.2.coll = coll && q.2.me = rank && q.2.state = .run).map (·.1)
/-- The matrix instructions of a team that a stop lets retire: all but an MLOOP that has stopped at its promotion (R310). -/
def State.teamMats (s : State) (tid : Nat) (t : Team) : List MatEnt :=
  s.mats.filter fun m => m.team = tid && !s.matLeft m t
/-- The remainder of an MLOOP (R310). -/
def MatEnt.rem (m : MatEnt) : Option MloopRem :=
  match m.op with
  | .mma p tile pa pb sp q incA incB count =>
    some { count := count, tile := tile, func := p.code + (if sp.isSome then 4 else 0), q1 := q - 1, gang := m.gang % 256,
           pa := pa, pb := pb, inc := incB ++ incA, seed := (sp.map (·.1)).getD 0, g0 := (sp.map (·.2)).getD 0 }
  | _ => none
/-- The stopped MLOOP of a team moves from the engine into the team's record. -/
def State.takeLoop (s : State) (tid : Nat) : State :=
  match s.mats.find? fun m => m.team = tid with
  | none => s
  | some m => { (s.modTeam tid fun t => { t with mrem := m.rem }) with mats := s.mats.filter fun x => x.team ≠ tid }
/-- The engine takes the remainder of an MLOOP up again (R310). -/
def State.resumeLoop (s : State) (tid : Nat) (r : Option MloopRem) : State :=
  match r, s.team? tid with
  | some r, some t =>
    let p := Planes.ofCode (r.func % 4)
    let sp := if 4 ≤ r.func then some (r.seed, r.g0) else none
    let incA : BitVec 16 := r.inc.extractLsb' 0 16
    let incB : BitVec 16 := r.inc.extractLsb' 16 16
    let (id, s) := s.newId
    let plan := mmaPlan p sp.isSome r.pa r.pb incA incB r.count
    { s with mats := s.mats ++ [⟨id, gangKey tid r.gang, tid, t.matCore,
        .mma p r.tile r.pa r.pb sp (r.q1 + 1) incA incB r.count, plan.board, true⟩] }
  | _, _ => s
/-- Whether a gang of a team still waits for acknowledgements of TLBI or SLOTW, which its next instruction follows (R404). -/
def State.acksDue (s : State) (tid n : Nat) : Bool :=
  (teamGangs tid n).any fun k => (s.gang? k).any fun g => g.wait = .acks || g.wait2 = .acks
/-- Whether the work of a stopping team has ended (R369 step 3): accesses, transfers, answers and collective steps. -/
def State.quiet (s : State) (tid : Nat) (n : Nat) : Bool :=
  let mine (g : Nat) : Bool := g / 256 = tid
  !s.acksDue tid n &&
  !(s.accesses.any fun a => mine a.gang) && !(s.xfers.any fun x => x.team = tid && !s.timed x.id) &&
  ((s.team? tid).all fun t => (s.teamMats tid t).isEmpty) &&
  ((teamGangs tid n).all fun k => match s.gang? k with | some g => g.owed.all fun o => s.timed o.1 | none => true) &&
  !(s.net.any fun e => match e with
    | .collStepArrival m => (match s.collTeam m.coll m.dst with | some k => k = tid | none => false)
    | _ => false)
/-- Publishes what the cores of a team hold for it: narrow dirty bytes, and its gangs' private lines. -/
def State.publishTeam (s : State) (t : Team) : Bool × State :=
  t.cores.foldl (fun (acc : Bool × State) k =>
    let ck := coreKey t.die k
    let s := (acc.2.core ck).l1.foldl (fun s e => if e.2.priv then s.privBack ck (e.1 - 2 ^ 50) else s) acc.2
    let r := s.publishCore ck
    (acc.1 && r.1, r.2)) (true, s)
/-- A store that was held is refused for retry after all: it and those after it in its stream are yet to be taken up. -/
def State.putBack (s : State) (tid : Nat) (m : RStore) : State :=
  (s.modTeam tid fun t =>
    let x := t.streamOf m.stream
    t.setStream { x with next := min x.next m.seq }).retryStore tid m
/-- The saved inbox has 64 places: the stores held beyond them, which the cores of a team may have had room for, are refused for
retry, in the order of their streams (R323, log 25). -/
def State.cutInbox (s : State) (tid : Nat) : State :=
  match s.team? tid with
  | none => s
  | some t => (t.inbox.drop 64).foldl (fun s m => s.putBack tid m) (s.setTeam tid { t with inbox := t.inbox.take 64 })
/-- Full save of a stopping team whose work has ended (R373); `none` while it must wait. -/
def State.saveTeam (s : State) (tid : Nat) : Option State :=
  match s.team? tid with
  | none => none
  | some t =>
    match s.cohort? t.cohort with
    | none => none
    | some C =>
      if t.state ≠ .stopping || t.ending.isSome || s.restarts tid t C || !s.quiet tid C.ngangs then none
      else
        let p := s.publishTeam t
        let s' := (p.2.takeLoop tid).cutInbox tid
        if !p.1 then none
        else match s'.storeImage tid with
          | .error a => some (s'.imageFault tid a)
          | .ok s =>
            let s := s.unseat tid C.ngangs
            let s := t.ctxsv.foldl (fun s a => s.send (.remoteAnswer a.1 a.2 0)) s
            some (s.modTeam tid fun t =>
              { t with state := .saved, since := s.time, cores := [], fullReq := false, ctxsv := [] })
/-- Answers of other dies that a region restart waits for: all that its gangs are owed but loads, which it cancels (R369,
R373). -/
def State.answersDue (s : State) (tid n : Nat) : Bool :=
  (teamGangs tid n).any fun k => (s.gang? k).any fun g =>
    g.owed.any fun o => !s.timed o.1 && !(s.accesses.any fun a => a.id = o.1)
/-- Whether every member of a circle belongs to one team. -/
def Cohort.ownCircle (c : Cohort) (tidx n : Nat) : Bool := (c.circleMembers n).all fun m => m.1 = tidx
/-- Arrivals of a team at circles of its own are discarded with the rest of its state, those on their way too (R373, log 80). -/
def State.leaveCircles (s : State) (tid : Nat) (t : Team) (C : Cohort) : State :=
  let s := s.modCohort t.cohort fun c =>
    { c with circs := c.circs.map fun p => (p.1, if C.ownCircle t.tidx p.1 then { p.2 with arr := [] } else p.2) }
  { s with net := s.net.filter fun e => match e with
      | .circleArrival ck n g _ => !(ck = t.cohort && g / 256 = tid && C.ownCircle t.tidx n)
      | _ => true }
/-- Region restart of a stopping team (R373), once its stores have been performed and published (R369): its other work is
cancelled and its state discarded. -/
def State.restartTeam (s : State) (tid : Nat) : Option State :=
  match s.team? tid with
  | none => none
  | some t =>
    match s.cohort? t.cohort with
    | none => none
    | some C =>
      if t.state ≠ .stopping || !s.restarts tid t C || s.acksDue tid C.ngangs || s.answersDue tid C.ngangs ||
          (s.accesses.any fun a => a.gang / 256 = tid && !a.op.isLoad) || !(s.publishTeam t).1 then none
      else
        let s := (s.publishTeam t).2
        let s := { s with accesses := s.accesses.filter fun a => a.gang / 256 ≠ tid || !a.op.isLoad,
                          xfers := s.xfers.filter fun x => x.team ≠ tid || s.timed x.id, mats := s.mats.filter fun m => m.team ≠ tid }
        let s := (s.unseat tid C.ngangs).leaveCircles tid t C
        some (s.modTeam tid fun t => { t with state := .restart, since := s.time, cores := [] })
/-- The team as region restart begins it again: launch values, its hallmark and regions kept (R373). -/
def Team.relaunch (t : Team) : Team :=
  { cohort := t.cohort, tidx := t.tidx, hall := t.hall, slotKey := t.slotKey, die := t.die, streams := t.streams,
    marks := t.marks.map fun p => (p.1, { epoch := p.2.epoch + 1 }) }
/-- The gangs of a restored team whose barrier phase has ended since they joined it find their wait satisfied; those away from a
circle's home die learn of it by message (R316). -/
def State.barsEnded (s : State) (tid n : Nat) : State :=
  (teamGangs tid n).foldl (fun s k =>
    match s.gang? k, s.team? tid, (s.team? tid).bind fun t => s.cohort? t.cohort with
    | some g, some t, some C =>
      match g.bar with
      | some ⟨none, ph⟩ => if t.tphase = ph then s else s.leaveBar k
      | some ⟨some n, ph⟩ =>
        if (Store.get {} C.circs n : CircBar).phase = ph then s
        else if t.die = 8 * C.dev + C.lr.chome then s.leaveBar k
        else s.send (.phaseEndNotice k n ph)
      | none => s
    | _, _, _ => s) s
/-- Whether what the resident teams of a core hold lies within its partition word (R33, R50). -/
def State.coreHolds (s : State) (di core : Nat) : Bool :=
  let u := s.coreUse di core
  let w := (s.core (coreKey di core)).pword
  u.share ≤ spG w * 65536 && u.tiles.length ≤ accG w && u.slots.length ≤ 64 && u.regs ≤ regG w * 65536
/-- Whether a launch record that an image has changed can stand for the teams of its cohort: its partition word is valid and the same
as on the cores that hold teams of it, and what those cores hold still fits (R49, R50). -/
def State.mayStand (s : State) (ck : Nat) (old new : LaunchRec) : Bool :=
  new = old || (pwordOk new.pword.toNat &&
    (s.teamList.filter fun p => p.2.cohort = ck && p.2.onCores).all fun p => new.pword = old.pword &&
      p.2.cores.all fun k => s.coreHolds p.2.die k)
/-- A restored team on the cores found for it: its engine work goes on, waits that have ended are satisfied, and TMIG gives its
answer (R310, R316, R366). -/
def State.seatSaved (s : State) (tid : Nat) (t : Team) (cs : List Nat) (C : Cohort) (tmig : Option Tmig) : State :=
  let s := s.seatTeam tid t.die cs C { t with tmig := none, mrem := none } fun i =>
    (s.gang? (gangKey tid i)).getD { team := tid, idx := i }
  let s := (s.resumeLoop tid t.mrem).barsEnded tid C.ngangs
  match tmig with
  | some m => s.modRegs m.gang fun x => x.setK m.dst.toNat (if m.target = 9 then 4 else 0)
  | none => s
/-- Places a saved team by its image, the launch bytes that it holds included; `none` while no cores can take it so (R50, R373,
R408, R409). -/
def State.placeSaved (s : State) (tid : Nat) (t : Team) (C : Cohort) : Option State :=
  match s.restoreImage tid with
  | .error a => if (placeOn (s.dieUse t.die) C.lr C.roles none).isSome then some (s.imageFault tid a) else none
  | .ok s =>
    match s.team? tid, (s.team? tid).bind fun t => s.cohort? t.cohort with
    | some t', some C' =>
      if !s.mayStand t'.cohort C.lr C'.lr then none
      else (placeOn (s.dieUse t.die) C'.lr C'.roles none).map fun p => s.seatSaved tid t' p.1 C' t.tmig
    | _, _ => none
/-- Places a saved or restarting team on its die again (R373); `none` while no cores can take it. -/
def State.placeAgain (s : State) (tid : Nat) : Option State :=
  match s.team? tid with
  | none => none
  | some t =>
    match s.cohort? t.cohort with
    | none => none
    | some C =>
      match t.state with
      | .restart =>
        (placeOn (s.dieUse t.die) C.lr C.roles none).map fun p =>
          s.seatTeam tid t.die p.1 C t.relaunch fun i =>
            match s.gang? (gangKey tid i) with
            | some g =>
              { team := tid, idx := i, role := g.role, rgnOpen := g.rgnOpen, rgnPc := g.rgnPc, rgnMask := g.rgnMask,
                regs := if g.rgnOpen then launchRegs C g.rgnPc g.rgnMask
                  else launchRegs C C.lr.entry (BitVec.allOnes 32) }
            | none => { team := tid, idx := i }
      | .saved => s.placeSaved tid t C
      | _ => none

end Machine
end Sys2Proof
end

