-- ==== Sys2Proof/Machine/System.lean ====
section
/-!
DEFINITION. Flux configuration (0xB8, 0xB9) and system instructions, major opcodes 0xC0–0xCA (R385–R387, R397–R407).
-/
namespace Sys2Proof
namespace Machine

/-! ### FLXCFG and FLXQ (R386, R387) -/

/-- FLXCFG (R386). -/
def execFlxcfg (g : Guard) (team : Bool) (d : RegNum) (n : SrcI) (s : State) : Out :=
  issue (.flxcfg g team d n) s fun c s =>
    let w := c.r.ksI n
    if w ≠ 0 && !(16 ≤ w.toNat && w.toNat ≤ 512) then c.trap 0x21 0 s
    else
      let set (x : Gang) : Gang := { x with fluxBudget := w }
      c.putK (if team then s.modGangs c.tid c.C.ngangs set else s.modGang c.gid set) d c.G.fluxBudget
/-- FLXQ (R387). -/
def execFlxq (g : Guard) (sel : FlxSel) (clr : Bool) (d : RegNum) (s : State) : Out :=
  issue (.flxq g sel clr d) s fun c s =>
    let clear (x : Gang) : Gang := match sel with
      | .pref => { x with fluxPref := 0 }
      | .walks => { x with fluxWalks := 0 }
      | .faults => { x with fluxFaults := 0 }
      | .passes => { x with fluxPasses := 0 }
      | .cfg => x
    c.putK (if clr then s.modGang c.gid clear else s) d (match sel with
      | .pref => c.G.fluxPref
      | .walks => c.G.fluxWalks
      | .faults => c.G.fluxFaults
      | .passes => c.G.fluxPasses
      | .cfg => c.G.fluxBudget)

/-! ### Traps and control registers (R395, R398–R400, R407) -/

/-- SYSC (R407). -/
def execSysc (g : Guard) (code : BitVec 7) (s : State) : Out :=
  issue (.sysc g code) s fun c s => .done (c.trapTo 0x31 code.toNat 0 c.next (c.endRegion s))
/-- RTE (R395). -/
def execRte (g : Guard) (s : State) : Out := issue (.rte g) s fun c s => c.rte (c.endRegion s)
/-- A per-die counter (R206, R239, R261). -/
def Die.counter (d : Die) (idx : Nat) : DWord :=
  match idx with
  | 0x200 => d.pinbyp
  | 0x201 => BitVec.ofNat 64 (d.scfForced % 2 ^ 32 * 2 ^ 32 + d.scfTimed % 2 ^ 32)
  | 0x202 => BitVec.ofNat 64 (d.aged % 2 ^ 32 * 2 ^ 32 + d.stale % 2 ^ 32)
  | _ => BitVec.ofNat 64 (d.clamps % 2 ^ 16 * 2 ^ 48 + d.poisoned % 2 ^ 16 * 2 ^ 32 + d.recasts % 2 ^ 32)
/-- A tenant register (R400). -/
def Tenant.reg (t : Tenant) (idx : Nat) : DWord :=
  match idx with
  | 0x100 => t.tvec
  | 0x101 => t.troot
  | 0x102 => t.hwin
  | 0x103 => t.hwsz
  | 0x104 => t.pwin
  | 0x105 => t.pwsz
  | 0x106 => (if t.shelfUp then 2 else 0) + (if t.fenced then 1 else 0)
  | 0x107 => t.save
  | 0x108 => t.imgsz.setWidth 64
  | 0x109 => t.prq
  | 0x10A => t.prqhd.setWidth 64
  | 0x10B => t.prqtl.setWidth 64
  | 0x10C => t.elog
  | 0x10D => t.elhd.setWidth 64
  | 0x10E => (if t.lost then 0x80000000 else 0) + t.eltl.setWidth 64
  | 0x10F => t.sched.setWidth 64
  | _ => t.msix.setWidth 64
/-- A trap register of a record (R400). -/
def TrapRec.reg (r : TrapRec) (sec : Bool) (idx : Nat) : DWord :=
  match idx with
  | 0 => BitVec.ofNat 64 ((if r.active then 2 ^ 31 else 0) + (if sec then 2 ^ 16 else 0) + 256 * r.cause.toNat + r.code.toNat)
  | 1 => r.lmask.setWidth 64
  | 2 => r.pc
  | 3 => r.addr
  | _ => r.res
/-- The value of a control register for the issuing gang (R399). -/
def Ctx.ctl (c : Ctx) (s : State) (idx : Nat) : DWord :=
  if idx < 0x100 then (if c.sec then c.G.tr1 else c.G.tr0).reg c.sec idx
  else if idx < 0x200 then (s.tenant c.tk).reg idx
  else (s.die c.die).counter idx
/-- MFS (R398). -/
def execMfs (g : Guard) (b64 : Bool) (d : RegNum) (idx : BitVec 16) (s : State) : Out :=
  issue (.mfs g b64 d idx) s fun c s =>
    let v := c.ctl s idx.toNat
    let s := c.endRegion s
    if b64 then c.putK2 s d v else c.putK s d (v.setWidth 32)
/-- MTS of every register but ctl.pwstat and ctl.elhd (R398): only ctl.tres, ctl.tvec and ctl.prqhd are RW. -/
def execMts (g : Guard) (b64 : Bool) (a : Src) (idx : BitVec 16) (s : State) : Out :=
  issue (.mts g b64 a idx) s fun c s =>
    let s := c.endRegion s
    .done (match idx.toNat with
      | 0x004 => s.modGang c.gid fun x =>
          if c.sec then { x with tr1 := { x.tr1 with res := c.r.ks2 a } } else { x with tr0 := { x.tr0 with res := c.r.ks2 a } }
      | 0x100 => s.modTenant c.tk fun t => { t with tvec := c.r.ks2 a }
      | 0x10A => s.modTenant c.tk fun t => { t with prqhd := c.r.ks a }
      | _ => s)
/-- MTS of ctl.pwstat (R271, R400): a 1 in FENCED reopens the window while SHELFUP is 1. -/
def execPwstatReopen (g : Guard) (a : Src) (s : State) : Out :=
  issue (.pwstatReopen g a) s fun c s =>
    .done ((c.endRegion s).modTenant c.tk fun t =>
      if (c.r.ks a).getLsbD 0 && t.shelfUp then { t with fenced := false } else t)
/-- MTS of ctl.elhd (R400): HEAD is written and LOST cleared. -/
def execElhdWrite (g : Guard) (a : Src) (s : State) : Out :=
  issue (.elhdWrite g a) s fun c s =>
    .done ((c.endRegion s).modTenant c.tk fun t => { t with elhd := c.r.ks a, lost := false })

/-! ### TLBI (R404) -/

/-- Dies of a pod. -/
def podDies (group : Nat) : List Nat := (List.range 256).map fun i => group * 256 + i
/-- The release of TLBI, then its requests: the gang issues again once every die has acknowledged. -/
def Ctx.tlbi (c : Ctx) (range : Option (Nat × Nat)) (s : State) : Res :=
  match c.release s with
  | (some w, s) => .wait w s
  | (none, s) =>
    let s := c.endRegion s
    let ds := (podDies c.T.group).filter fun d => !(s.die d).fenced
    .done ({ s with net := s.net ++ ds.map fun d => Ev.tlbiRequest d c.tenant range c.gid }.modGang c.gid fun g =>
      { g.setWait c.sec .acks with acks := ds.length })
/-- TLBI `.range` (R404). -/
def execTlbiRange (g : Guard) (va : Src) (n : Src) (s : State) : Out :=
  issue (.tlbiRange g va n) s fun c s =>
    let p := c.r.ks2 va
    if ptrSpace p ≠ 0 then c.trapAt 0x10 2 p s
    else match ptrCause p c.C.scratchBytes c.C.lr.privsz with
      | some k => c.trapAt 0x10 k p s
      | none =>
        if p.toNat % 65536 ≠ 0 then c.trapAt 0x11 0 p s
        else c.tlbi (some (ptrAddr p / 65536, (c.r.ks n).toNat)) s
/-- TLBI `.all` (R404). -/
def execTlbiAll (g : Guard) (s : State) : Out := issue (.tlbiAll g) s fun c s => c.tlbi none s

/-! ### Team control (R405) -/

/-- Answers a team-control instruction. -/
def Ctx.reply (c : Ctx) (d : RegNum) (v : Word) (s : State) : Res :=
  .done (c.askFor d (s.send (.remoteAnswer c.gid d v)))
/-- The live team of the tenant that a hallmark names. -/
def Ctx.named (c : Ctx) (h : Src) (s : State) : Option (Nat × Team) :=
  match s.byHall c.T.group (c.r.ks h) with
  | some (tid, t) => if t.live && s.ofTenant t c.tenant then some (tid, t) else none
  | none => none
/-- A team awaiting region restart is saved as it would begin again: the status of CTXSV and the state after it. -/
def State.saveRestart (s : State) (tid : Nat) : Word × State :=
  match s.team? tid with
  | none => (1, s)
  | some t =>
    match s.cohort? t.cohort with
    | none => (1, s)
    | some C =>
      let s := s.setTeam tid { t.relaunch with state := .saved, since := s.time, held := true }
      let s := s.modGangs tid C.ngangs fun g =>
        { team := tid, idx := g.idx, role := g.role, active := false, rgnOpen := g.rgnOpen, rgnPc := g.rgnPc,
          rgnMask := g.rgnMask, regs := launchRegs C g.rgnPc g.rgnMask }
      match s.storeImage tid with
      | .ok s => (0, s)
      | .error a => (1, s.imageFault tid a)
/-- CTXSV (R405). -/
def execCtxsv (g : Guard) (d : RegNum) (h : Src) (s : State) : Out :=
  issue (.ctxsv g d h) s fun c s =>
    let s := c.endRegion s
    match c.named h s with
    | none => c.reply d 1 s
    | some (tid, t) =>
      if tid = c.tid then c.reply d 3 s
      else if t.held then c.reply d 2 s
      else match t.state with
        | .restart =>
          let r := s.saveRestart tid
          c.reply d r.1 r.2
        | .saved | .migrating => c.reply d 0 (s.setTeam tid { t with held := true })
        | _ =>
          if t.ending.isSome then .done (c.askFor d (s.setTeam tid { t with ctxsv := t.ctxsv ++ [(c.gid, d)] }))
          else .done (c.askFor d ((s.setTeam tid { t with held := true, fullReq := true, ctxsv := t.ctxsv ++ [(c.gid, d)] }).stopTeam
            tid))
/-- CTXLD (R405): a release at .dev. -/
def execCtxld (g : Guard) (d : RegNum) (h : Src) (s : State) : Out :=
  issue (.ctxld g d h) s fun c s =>
    match c.release s with
    | (some w, s) => .wait w s
    | (none, s) =>
      let s := c.endRegion s
      match c.named h s with
      | none => c.reply d 1 s
      | some (tid, t) => if t.held then c.reply d 0 (s.setTeam tid { t with held := false }) else c.reply d 2 s
/-- HALT (R405): the team ends by trap and the answer comes once it has; a gang of that team gets no answer. -/
def execHalt (g : Guard) (d : RegNum) (h : Src) (s : State) : Out :=
  issue (.halt g d h) s fun c s =>
    let s := c.endRegion s
    match c.named h s with
    | none => c.reply d 1 s
    | some (tid, t) =>
      let s := match t.state, s.loadImage tid with
        | .saved, .ok s => s
        | _, _ => s
      if tid = c.tid then .done (s.endTeam tid 6 c.X.toNat 0)
      else .done (c.askFor d ((s.modTeam tid fun t => { t with halts := t.halts ++ [(c.gid, d)] }).endTeam tid 6 c.X.toNat 0))
/-- PRIO (R405). -/
def execPrio (g : Guard) (d : RegNum) (h : Src) (p : SrcI) (s : State) : Out :=
  issue (.prio g d h p) s fun c s =>
    let s := c.endRegion s
    let v := c.r.ksI p
    match s.findCohort c.C.dev c.tenant (c.r.ks h) with
    | none => c.reply d 0xFF s
    | some (key, x) =>
      if 7 < v.toNat then c.reply d 0xFE s
      else
        let cap := (s.tenant c.tk).sched.toNat / 2 ^ 16 % 8
        c.reply d (BitVec.ofNat 32 x.lr.prio) (s.modCohort key fun x => { x with lr := { x.lr with prio := min v.toNat cap } })
/-- CHSET (R405). -/
def execChset (g : Guard) (entry : BitVec 6) (d : RegNum) (h img : Src) (s : State) : Out :=
  issue (.chset g entry d h img) s fun c s =>
    let n := img.reg.toNat
    let image : BitVec 128 := c.r.k (n + 3) ++ c.r.k (n + 2) ++ c.r.k (n + 1) ++ c.r.k n
    let m : ChanMsg := { sender := c.gid, group := c.T.group, dst := d, tenant := c.tenant, hall := c.r.ks h,
                         giver := c.T.hall, entry := entry.toNat, image := image, revoke := false, force := true }
    .done (c.askFor d ((c.endRegion s).send (.chgiveArrival m)))
/-- INTR (R406). -/
def execIntr (g : Guard) (d : RegNum) (v : SrcI) (s : State) : Out :=
  issue (.intr g d v) s fun c s =>
    match c.release s with
    | (some w, s) => .wait w s
    | (none, s) =>
      let s := c.endRegion s
      let n := (c.r.ksI v).toNat
      if (s.tenant c.tk).msix.toNat % 256 ≤ n then c.putK s d 1 else c.putK (s.raise c.C.dev c.tenant n) d 0

end Machine
end Sys2Proof
end

