-- ==== Sys2Proof/Machine/MgmtEvents.lean ====
section
/-!
DEFINITION. Start-up and the management mailbox (chapter 19): cold and warm start, and commands 0x01 to 0x09 (R434–R440).
-/
namespace Sys2Proof
namespace Machine

/-! ### Starts (R434, R435) -/

/-- The links of a device once trained: the local links to the 31 others of its pod and its 64 fibre pairs (R429, R434). -/
def trained (dev : Nat) : Store Link := ((List.range 96).filter (· ≠ dev % 32)).map fun n => (n, { up := true })
/-- What a device is when a start begins, before its first step: a warm start keeps the training of its links (R435). -/
def Dev.restart (d : Dev) (warm : Bool) (o : StartOutcome) : Dev :=
  { links := if warm then d.links else [], serial := d.serial, pubKey := d.pubKey, privKey := d.privKey, flash := d.flash,
    fuseKey := d.fuseKey, fuseMin := d.fuseMin, ident := some o.ident, warm := warm, busy := warm,
    phase := if warm then 2 else 1, boot := some ⟨warm, o, false⟩ }
/-- A die after a warm start (R435): a fence goes, but a die that failed its self-test, which a warm start skips, stays fenced (R434,
log 47). -/
def Die.warm (d : Die) : Die :=
  { fenced := d.failed, failed := d.failed, steps := d.steps, pinbyp := d.pinbyp, scfForced := d.scfForced, scfTimed := d.scfTimed,
    aged := d.aged, stale := d.stale, clamps := d.clamps, poisoned := d.poisoned, recasts := d.recasts, rates := d.rates }
/-- Device of a holder's number within a pod. -/
def devOfHolder (pod h : Nat) : Nat := pod * 32 + (if h < 256 then h / 8 else (h - 256) / 2)
/-- Whether a holding belongs to a device or to one of its sectors' home memory. -/
def holdHere (dev key : Nat) : Bool := devOfHolder (secPod (key / 512)) (key % 512) = dev && key % 512 ≠ homeH
/-- Sector of a message of the token protocol. -/
def tokSector : Ev → Option Nat
  | .trd m | .twr m | .tdat m | .ttok m | .tret m | .trec m | .trca m | .trdone m | .trdack m => some m.sector
  | .lossReport s _ _ => some s
  | .clmp m | .clact m | .clack m _ | .cldone m | .cldea m => some m.sector
  | _ => none
/-- The teams of a device that have not exited. -/
def State.liveTeams (s : State) (dev : Nat) : List Nat :=
  (s.teamList.filter fun p => p.2.dev = dev && p.2.state ≠ .exited).map (·.1)
/-- The teams and cohorts of a device are gone (R434, R435). -/
def State.endAll (s : State) (dev : Nat) : State :=
  let s := (s.liveTeams dev).foldl (fun s k => s.exitTeam k true) s
  let s := (s.cohortList.filter fun p => p.2.dev = dev).foldl (fun s p => s.freeCohort p.1) s
  let gone := (s.teamList.filter fun p => p.2.dev = dev).map (·.1)
  { s with teams := s.teams.filter fun p => !gone.contains p.1, gangs := s.gangs.filter fun p => !gone.contains (p.1 / 256) }
/-- Tokens that holders outside the device keep of its sectors are not at home (R243). -/
def State.outside (s : State) (dev : Nat) : State :=
  let far := s.hold.filter fun p => secDev (p.1 / 512) = dev && p.2.cast = (s.smetaOf (p.1 / 512)).cast
  far.foldl (fun s p =>
    let t := s.homeTokOf (p.1 / 512)
    s.setHomeTok (p.1 / 512) (t.1 - p.2.count, t.2 && !p.2.owner)) s
/-- Every part of a device at its reset value, but for what a start of this kind keeps (R434, R435). -/
def State.restart (s : State) (dev : Nat) (warm : Bool) (o : StartOutcome) : State :=
  let here (di : Nat) : Bool := di / 8 = dev
  let hubHere (k : Nat) : Bool := 16384 ≤ k && (k - 16384) / 2 = dev
  let d := s.dev dev
  let fix (p : Nat × Die) : Option (Nat × Die) :=
    if !(here p.1 || hubHere p.1) then some p
    else if warm && p.2.warm ≠ {} then some (p.1, p.2.warm) else none
  let slot (p : Nat × TeamSlot) : Option (Nat × TeamSlot) :=
    if !here (p.1 / 4096) then some p
    else if warm && p.2.gen ≠ 1 then some (p.1, { gen := p.2.gen }) else none
  let coh (p : Nat × CohortSlot) : Option (Nat × CohortSlot) :=
    if !here (p.1 / 256) then some p
    else if warm && p.2.gen ≠ 1 then some (p.1, { gen := p.2.gen }) else none
  let keepSec (sec : Nat) : Bool := secDev sec ≠ dev
  let keepHold (k : Nat) : Bool := !holdHere dev k && k % 512 ≠ homeH
  let keepUnit (k : Nat) : Bool :=
    devOfUnit (k / 512) ≠ dev && devOfHolder (devOfUnit (k / 512) / 32) (k % 512) ≠ dev
  let keepMiss (m : Miss) : Bool := if m.holder = homeH then keepSec m.sector else devOfHolder (secPod m.sector) m.holder ≠ dev
  let s : State := { s with
    net := s.net.filter fun e => (tokSector e).all keepSec
    hold := s.hold.filter fun p => keepHold p.1
    homeTok := s.homeTok.filter fun p => keepSec p.1
    fences := s.fences.filter fun p => keepSec (p.1 / 512) && keepHold p.1
    clampTab := s.clampTab.filter fun p => keepUnit p.1
    homes := s.homes.filter fun p => devOfUnit p.1 ≠ dev
    trecAt := s.trecAt.filter fun p => keepSec p.1
    recastAct := s.recastAct.filter fun p => keepSec (p.1 / 512) && keepHold p.1
    misses := s.misses.filter keepMiss
    hints := s.hints.filter fun p => !here (p.1 / 2 ^ 48)
    l2 := s.l2.filter fun p => !here (p.1 / 2 ^ 48)
    cores := s.cores.filter fun p => !here (p.1 / 48)
    dies := s.dies.filterMap fix
    hubs := s.hubs.filter fun p => p.1 / 2 ≠ dev
    tenants := s.tenants.filter fun p => p.1 / 16 ≠ dev
    teamSlots := s.teamSlots.filterMap slot
    cohSlots := s.cohSlots.filterMap coh
    accesses := s.accesses.filter fun a => !here a.die
    walks := s.walks.filter fun w => !here w.die
    xfers := s.xfers.filter fun x => !here x.die
    mats := s.mats.filter fun m => !here (m.core / 48)
    mem := if warm then s.mem else s.mem.filter fun p => p.1 / 2 ^ 42 ≠ dev
    smeta := if warm then s.smeta else s.smeta.filter fun p => keepSec p.1 }
  let s : State := { s with grants := Store.set none s.grants dev none }
  (s.outside dev).modDev dev fun _ => d.restart warm o
/-- The compute dies that failed self-test are fenced (R412, R434). -/
def State.fenceFailed (s : State) (dev : Nat) (ok : BitVec 8) : State :=
  (((List.range 8).filter fun i => !ok.getLsbD i).map (8 * dev + ·)).foldl
    (fun s k => (s.modDie k fun d => { d with failed := true }).fenceDie k) s
/-- Whether the identity check of step 2 finds a mismatch (R436): a local link that reaches another device than its index names, or
its own pair of numbers reported by another device; so does a connector that gives another place than the device's (log 47). -/
def State.wrongIdent (s : State) (dev : Nat) (o : StartOutcome) : Bool :=
  o.ident ≠ dev || (o.came.any fun x => x.2 = o.ident || (x.1 < 32 && x.2 ≠ o.ident / 32 * 32 + x.1)) ||
  s.devs.any fun p => p.1 ≠ dev && p.2.ident = some o.ident
/-- Whether the hub dies accept a firmware image (R437). -/
def Dev.accepts (d : Dev) (x : FwImage) : Bool :=
  Config.sm3 (toBytes 64 x.key.toNat) = d.fuseKey && Config.sm2Verify x.key (Config.sm3 x.body) x.sig &&
  d.fuseMin.toNat ≤ x.version.toNat && x.body.length ≤ 2 ^ 26
/-- The image that a start verifies: the host's, or that in flash when the host supplies none (R437). -/
def Dev.image (d : Dev) (o : StartOutcome) : FwImage := o.image.getD d.flash
/-- Whether a step of a start fails (R434). -/
def State.stepFails (s : State) (dev step : Nat) (b : Boot) : Bool :=
  match step with
  | 2 => (!b.warm && b.o.failStep = 2) || s.wrongIdent dev b.o
  | 4 => !(s.dev dev).accepts ((s.dev dev).image b.o)
  | 1 | 3 | 5 => b.o.failStep = step
  | _ => false
/-- The step after one: a warm start skips self-test, and PHASE 7 follows the last (R434). -/
def stepAfter (warm : Bool) (step : Nat) : Nat := if warm && step = 2 then 4 else step + 1
/-- What a step of a start that has not failed, or self-test, does (R434, R437, R420). -/
def State.stepDone (s : State) (dev step : Nat) (b : Boot) : State :=
  match step with
  | 2 => if b.warm then s else s.modDev dev fun d => { d with links := trained dev }
  | 3 => (s.modDev dev fun d => { d with dieOk := b.o.dieOk }).fenceFailed dev b.o.dieOk
  | 4 => s.modDev dev fun d => { d with version := (d.image b.o).version, digest := Config.sm3 (d.image b.o).body }
  | 6 => (List.range 8).foldl (fun s i => s.modDie (8 * dev + i) fun d =>
      { d with mhz := 1500, clkK := 0, clkT0 := 0, pendClk := none, relock := none }) s
  | _ => s
/-- Runs the step that PHASE names (R434): self-test fences the dies that failed it whether or not the start goes on, and a failure
stops the start at its step. The event goes on with the next step. -/
def State.bootStep (s : State) (dev : Nat) (b : Boot) (e : Ev) : State :=
  let p := (s.dev dev).phase
  let bad := s.stepFails dev p b
  let s := if bad && p ≠ 3 then s else s.stepDone dev p b
  if bad then s.modDev dev fun d => { d with phase := 15, cause := p, busy := false, boot := none }
  else if stepAfter b.warm p = 7 then s.modDev dev fun d => { d with phase := 7, busy := false, boot := none }
  else (s.modDev dev fun d => { d with phase := stepAfter b.warm p }).send e
/-- Start events of a device in flight. -/
def startOf (dev : Nat) : Ev → Bool
  | .coldStart d _ | .warmStart d _ _ => d = dev
  | _ => false
/-- A start begins: whatever start ran is over, and the first step follows. -/
def State.begin (s : State) (dev : Nat) (warm : Bool) (o : StartOutcome) (e : Ev) : State :=
  let s := (s.endAll dev).restart dev warm o
  ({ s with net := s.net.filter fun x => !startOf dev x }).send e
/-- COLD_START (R434): the first such event begins the start, and each step follows as the event comes again. -/
def execColdStart (s : State) : Out :=
  match s.curEv with
  | some (.coldStart dev o) =>
    if 2048 ≤ dev then .next s
    else match s.take (.coldStart dev o), (s.dev dev).boot with
      | some s1, some b => .next (s1.bootStep dev b (.coldStart dev o))
      | _, _ => .next (s.begin dev false o (.coldStart dev o))
  | _ => .next s

/-! ### The mailbox (R439) -/

/-- Runs a command: one that comes while another runs is ignored, and any but a warm start waits for PHASE 7. -/
def State.command (s : State) (dev : Nat) (f : State → Nat × State) : State :=
  if (s.dev dev).busy || 2048 ≤ dev then s
  else if (s.dev dev).phase ≠ 7 then s.modDev dev fun d => { d with cmdst := 2 }
  else
    let r := f s
    r.2.modDev dev fun d => { d with cmdst := r.1 }
/-- The teams of a device end as HALT ends them, without log records: their work is performed first (R369, R396, R435). -/
def State.haltAll (s : State) (dev : Nat) : State := (s.liveTeams dev).foldl (fun s k => s.endTeam k 0 0 0) s
/-- What a warm start finds: the image at the address that the command gives, an empty one where there is none, or no image from the
host with address 0 (R437, R439, log 12). -/
def warmFind (addr : DWord) (o : StartOutcome) : StartOutcome :=
  { o with image := if addr = 0 then none else some (o.image.getD {}) }
/-- WARM_START (R435, command 0x08), in any phase: the teams that are there end first, and then its steps follow one by one. -/
def execWarmStart (s : State) : Out :=
  match s.curEv with
  | some (.warmStart dev addr o) =>
    let e := Ev.warmStart dev addr o
    if 2048 ≤ dev then .next s
    else match s.take e, (s.dev dev).boot with
      | some s1, some b =>
        if !b.halt then .next (s1.bootStep dev b e)
        else if (s1.liveTeams dev).isEmpty then .next (s1.begin dev true b.o e)
        else .next ((s1.haltAll dev).send e)
      | _, _ =>
        if (s.dev dev).busy then .next s
        else
          let s := { s.modDev dev fun d => { d with busy := true, boot := some ⟨true, warmFind addr o, true⟩ } with
            net := s.net.filter fun x => !startOf dev x }
          .next ((s.haltAll dev).send e)
  | _ => .next s
/-- Whether a cohort has not finished. -/
def Cohort.going (c : Cohort) : Bool := c.status.isNone
/-- The lowest-numbered die of a device, not fenced, with a free cohort slot. -/
def State.controlDie (s : State) (dev : Nat) : Option Nat :=
  (List.range 8).find? fun i => !(s.die (8 * dev + i)).fenced && (s.freeCohSlot (8 * dev + i)).isSome
/-- START_CONTROL_COHORT (R439, command 0x01). -/
def execStartControlCohort (s : State) : Out :=
  match s.curEv with
  | some (.startControlCohort dev tenant ptr) => .next (s.command dev fun s =>
    if 15 < tenant || (ptrSpace ptr ≠ 0 && ptrSpace ptr ≠ 4) || (ptrCause ptr 0 0).isSome || ptr.toNat % 256 ≠ 0 then (1, s)
    else if s.cohortList.any fun p => p.2.dev = dev && p.2.tenant = tenant && p.2.control && p.2.going then (3, s)
    else match s.readLaunch dev ((s.controlDie dev).getD 0) tenant ptr.toNat with
      | .error _ => (3, s)
      | .ok q =>
        match (s.controlDie dev).bind fun die => s.newCohort dev die tenant true q with
        | some (_, s) => (0, s)
        | none => (3, s))
  | _ => .next s
/-- A tenant register as the host writes it (R399, R400): reserved bits are discarded. -/
def Tenant.setReg (t : Tenant) (idx : Nat) (v : DWord) : Tenant :=
  let w : Word := v.setWidth 32
  match idx with
  | 0x101 => { t with troot := v &&& 0x3FFFFFF8001 }
  | 0x102 => { t with hwin := v }
  | 0x103 => { t with hwsz := v }
  | 0x104 => { t with pwin := v }
  | 0x105 => { t with pwsz := v }
  | 0x106 => { t with shelfUp := v.getLsbD 1, fenced := t.fenced && !(v.getLsbD 0 && v.getLsbD 1) }
  | 0x107 => { t with save := v }
  | 0x108 => { t with imgsz := w }
  | 0x109 => { t with prq := v &&& 0xFFFFFFFFFFFF000F }
  | 0x10A => { t with prqhd := w }
  | 0x10B => { t with prqtl := w }
  | 0x10C => { t with elog := v &&& 0xFFFFFFFFFFFF000F }
  | 0x10D => { t with elhd := w, lost := false }
  | 0x10E => { t with eltl := v.setWidth 31, lost := v.getLsbD 31 }
  | 0x10F => { t with sched := w &&& 0x7FFFF }
  | 0x110 => { t with msix := w &&& 0xFFFF00FF }
  | _ => t
/-- Whether a tenant register may be written only while the tenant has no live cohort (R439). -/
def quietReg (idx : Nat) : Bool := (0x101 ≤ idx && idx ≤ 0x105) || (0x107 ≤ idx && idx ≤ 0x10C)
/-- The pins of a tenant on a device go with its context (R205). -/
def State.dropPins (s : State) (dev tenant : Nat) : State :=
  let mine (x : L2Line) : Bool := x.pin = some (tenantKey dev tenant)
  let lines := (s.l2.filter fun p => p.2.any mine).map (·.1)
  lines.foldl (fun s k => s.tidyLine (k / 2 ^ 48) (k % 2 ^ 48))
    { s with l2 := s.l2.map fun p => (p.1, p.2.map fun x => if mine x then { x with pin := none } else x) }
/-- WRITE_TENANT_REGISTER (R439, command 0x02): a context whose V is cleared is released. -/
def execWriteTenantRegister (s : State) : Out :=
  match s.curEv with
  | some (.writeTenantRegister dev tenant idx v) => .next (s.command dev fun s =>
    if 15 < tenant || idx < 0x101 || 0x110 < idx then (1, s)
    else if quietReg idx && s.cohortList.any fun p => p.2.dev = dev && p.2.tenant = tenant && p.2.going then (3, s)
    else
      let s := s.modTenant (tenantKey dev tenant) fun t => t.setReg idx v
      (0, if idx = 0x101 && !v.getLsbD 0 then s.dropPins dev tenant else s))
  | _ => .next s
/-- WRITE_ROUTING_ENTRY (R439, command 0x03). -/
def execWriteRoutingEntry (s : State) : Out :=
  match s.curEv with
  | some (.writeRoutingEntry dev grp mask) => .next (s.command dev fun s =>
    if 63 < grp then (1, s)
    else if (s.dev dev).run then (3, s)
    else (0, s.modDev dev fun d => { d with routing := Store.set 0 d.routing grp mask }))
  | _ => .next s
/-- SET_DIE_CLOCK (R10, R439, command 0x04). -/
def execSetDieClock (s : State) : Out :=
  match s.curEv with
  | some (.setDieClock dev die mhz) => .next (s.command dev fun s =>
    if 7 < die || mhz < 600 || 1800 < mhz || mhz % 50 ≠ 0 then (1, s)
    else if (s.die (8 * dev + die)).fenced then (3, s)
    else (0, s.modDie (8 * dev + die) fun d => d.askClock mhz s.time))
  | _ => .next s
/-- FABRIC_GRANT (R426, R439, command 0x05). -/
def execFabricGrant (s : State) : Out :=
  match s.curEv with
  | some (.fabricGrant dev tenant) => .next (s.command dev fun s =>
    if 15 < tenant && tenant ≠ 0xFF then (1, s)
    else if (podDevs (dev / 32)).any fun d => d ≠ dev && (Store.get none s.grants d).any (· ≠ tenant) then (3, s)
    else (0, { s with grants := Store.set none s.grants dev (if tenant = 0xFF then none else some tenant) }))
  | _ => .next s
/-- SET_PLIMIT (R439, command 0x06). -/
def execSetPlimit (s : State) : Out :=
  match s.curEv with
  | some (.setPlimit dev watts) => .next (s.command dev fun s =>
    if 0xFFFF < watts then (1, s)
    else if watts < 1200 then (3, s)
    else (0, s.modDev dev fun d => { d with plimit := watts }))
  | _ => .next s
/-- The first 128 bytes of an assay report (R438). -/
def assayHead (d : Dev) (nonce : BitVec 256) : List Byte :=
  toBytes 4 1 ++ toBytes 32 nonce.toNat ++ toBytes 32 d.digest.toNat ++ toBytes 4 d.version.toNat ++ toBytes 16 d.serial.toNat ++
  toBytes 2 (d.dieOk.toNat + if d.warm then 256 else 0) ++ toBytes 38 0
/-- An assay report (R438). -/
def assayReport (d : Dev) (nonce : BitVec 256) : List Byte :=
  let head := assayHead d nonce
  head ++ toBytes 64 (Config.sm2Sign d.privKey (Config.sm3 head)).toNat ++ toBytes 64 d.pubKey.toNat
/-- ASSAY_REPORT (R438, command 0x07). -/
def execAssayReport (s : State) : Out :=
  match s.curEv with
  | some (.assayReport dev nonce addr) => .next (s.command dev fun s =>
    if 2 ^ 64 < addr.toNat + 256 then (1, s)
    else (0, { s with hostMem := writeBytes s.hostMem (dev * 2 ^ 64 + addr.toNat) (assayReport (s.dev dev) nonce) }))
  | _ => .next s
/-- A counter as the host writes it (R399). -/
def Die.setCounter (d : Die) (idx : Nat) (v : DWord) : Die :=
  let hi := v.toNat / 2 ^ 32
  let lo := v.toNat % 2 ^ 32
  match idx with
  | 0x200 => { d with pinbyp := v }
  | 0x201 => { d with scfForced := hi, scfTimed := lo }
  | 0x202 => { d with aged := hi, stale := lo }
  | _ => { d with clamps := hi / 2 ^ 16, poisoned := hi % 2 ^ 16, recasts := lo }
/-- Key of a compute die 0–7 or a hub die 8–9 of a device. -/
def mgmtDie (dev die : Nat) : Nat := if die < 8 then 8 * dev + die else 16384 + 2 * dev + (die - 8)
/-- WRITE_PER_DIE_COUNTER (R399, command 0x09): a hub die has only the counters of its home units (R261). -/
def execWritePerDieCounter (s : State) : Out :=
  match s.curEv with
  | some (.writePerDieCounter dev die idx v) => .next (s.command dev fun s =>
    if 9 < die || idx < 0x200 || 0x203 < idx then (1, s)
    else if (s.die (mgmtDie dev die)).fenced || (7 < die && idx < 0x202) then (3, s)
    else (0, s.modDie (mgmtDie dev die) fun d => d.setCounter idx v))
  | _ => .next s

end Machine
end Sys2Proof
end

