-- ==== Sys2Proof/Machine/SchedEvents.lean ====
section
/-!
DEFINITION. The events of launch, dispatch, placement and movement of teams (chapter 15), and of the time slice (R403).
-/
namespace Sys2Proof
namespace Machine

/-! ### Cohorts and dispatch (R354, R358) -/

/-- COHORT_DEPENDENCE_MET (R354). -/
def execCohortDependenceMet (s : State) : Out :=
  match s.curEv with
  | some (.cohortDependenceMet ck) =>
    match s.cohort? ck with
    | none => .next s
    | some c =>
      let st (d : Word) : Option Nat := if d = 0 then some 0 else ((s.findCohort c.dev c.tenant d).bind fun p => p.2.status)
      let a := st c.lr.dep0
      let b := st c.lr.dep1
      let failed (x : Option Nat) : Bool := x.any (· ≠ 0)
      if c.state ≠ .depwait then .next s
      else if c.depFail || failed a || failed b then .next (s.finishCohort ck .cancelled)
      else if a = some 0 && b = some 0 then
        let (n, s) := s.newId
        .next (s.modCohort ck fun c => { c with state := .dispatch, order := n })
      else .next s
  | _ => .next s
/-- Free gang slots of a die: those that neither a resident gang holds nor a team in a start queue will take. -/
def State.freeGangs (s : State) (di : Nat) : Int :=
  let held := (s.gangList.filter fun p => p.2.resident &&
    (match s.team? p.2.team with | some t => t.die = di | none => false)).length
  let due := (s.teamList.filter fun p => p.2.die = di && p.2.state = .waiting).foldl (fun (n : Nat) p =>
    n + (match s.cohort? p.2.cohort with | some c => c.ngangs | none => 0)) 0
  (3072 : Int) - (held : Int) - (due : Int)
/-- The core of a die with the shortest start queue, the lowest of equals, when it has room for a control block. -/
def State.queueCore (s : State) (di : Nat) : Option Nat :=
  let len (k : Nat) : Nat := (s.core (coreKey di k)).startQ.length
  let k := (List.range 48).foldl (fun b k => if len k < len b then k else b) 0
  if len k < 16 then some k else none
/-- Whether another cohort of the device dispatches before one (R358). -/
def State.laterCohort (s : State) (ck : Nat) (c : Cohort) : Bool :=
  s.cohortList.any fun p => p.1 ≠ ck && p.2.dev = c.dev && p.2.state = .dispatch && p.2.placed < p.2.lr.nteams &&
    (c.lr.prio < p.2.lr.prio || (c.lr.prio = p.2.lr.prio && p.2.order < c.order))
/-- The die that takes the next team of a cohort (R358). -/
def State.pickDie (s : State) (c : Cohort) : Option Nat :=
  ((diesOf c.lr.diemask).map (8 * c.dev + ·)).foldl (fun (b : Option Nat) di =>
    if (s.die di).fenced || (s.queueCore di).isNone then b
    else match b with
      | none => some di
      | some x => if s.freeGangs x < s.freeGangs di then some di else b) none
/-- Hands out the next team of a cohort: its number, in a start queue of the die that takes it; `none` when it may not be handed
out or no queue has room (R358). -/
def State.dispatchTeam (s : State) (ck : Nat) : Option (Nat × State) :=
  match s.cohort? ck with
  | none => none
  | some c =>
    if c.state ≠ .dispatch || c.lr.nteams ≤ c.placed || s.laterCohort ck c || (s.dev c.dev).boot.isSome then none
    else match s.pickDie c with
      | none => none
      | some di =>
        let k := (s.queueCore di).getD 0
        let (tid, s) := s.newId
        let s := s.setTeam tid { cohort := ck, tidx := c.placed, die := di, startQ := k, since := s.time }
        let s := s.modCore (coreKey di k) fun x => { x with startQ := x.startQ ++ [tid] }
        some (tid, s.modCohort ck fun x => { x with placed := x.placed + 1 })
/-- TEAM_DISPATCH (R358). -/
def execTeamDispatch (s : State) : Out :=
  match s.curEv with
  | some (.teamDispatch ck) => .next (match s.dispatchTeam ck with
    | some r => r.2
    | none => s)
  | _ => .next s

/-! ### Starting and stealing (R359, R364) -/

/-- Priority of a team's cohort. -/
def State.prioOf (s : State) (t : Team) : Nat := match s.cohort? t.cohort with
  | some c => c.lr.prio
  | none => 0
/-- Whether a team that was stopped may be placed on its die now: no privileged code holds it, and no TMIG sends it
elsewhere (R366, R405). -/
def Team.returnable (t : Team) : Bool :=
  (t.state = .saved || t.state = .restart) && !t.held &&
  t.tmig.all fun m => m.target = 9 || m.target = t.die % 8
/-- Whether a stopped team of a priority is to be placed on a die before one (R368): before any waiting team, or, of those
that stopped, by the time of the stop. -/
def State.stoppedFirst (s : State) (di prio : Nat) (stop : Option Nat) : Bool :=
  s.teamList.any fun p => p.2.die = di && p.2.returnable && s.prioOf p.2 = prio && (stop.all fun t => p.2.stopAt < t)
/-- Whether a team waits in the start queue that it was given to. -/
def State.inQueue (s : State) (tid : Nat) (t : Team) : Bool :=
  t.state = .waiting && (s.core (coreKey t.die t.startQ)).startQ.contains tid && !(s.die t.die).fenced
/-- Starts a team that waits in its queue. -/
def State.startQueued (s : State) (tid : Nat) : Option State :=
  match s.team? tid with
  | some t => if s.inQueue tid t then s.startTeam tid else none
  | none => none
/-- Hands out and starts the teams of a cohort that no queue has yet had room for, at most `n` of them. -/
def State.startRest (s : State) (ck : Nat) : Nat → Option State
  | 0 => some s
  | n + 1 =>
    match s.cohort? ck with
    | none => none
    | some c =>
      if c.lr.nteams ≤ c.placed then some s
      else (s.dispatchTeam ck).bind fun r => (r.2.startQueued r.1).bind fun s => s.startRest ck n
/-- Starts every team of a COSCHED cohort at once, or none: those in the start queues have a place each, and so have those that
the queues, of 768 places to a die, could not take yet (R358, log 84); one that is on its way to another die has none. -/
def State.startAll (s : State) (ck : Nat) : Option State :=
  let queued := (s.teamList.filter fun p =>
    p.2.cohort = ck && (p.2.state = .waiting || (p.2.state = .migrating && p.2.hall = 0))).map (·.1)
  let n := match s.cohort? ck with | some c => c.lr.nteams | none => 0
  (queued.foldl (fun (acc : Option State) k => acc.bind fun s => s.startQueued k) (some s)).bind fun s => s.startRest ck n
/-- Whether a stopped team of a priority is to be placed first on a die that a cohort's teams take together (R368). -/
def State.stoppedAmong (s after : State) (ck prio : Nat) : Bool :=
  (((after.teamList.filter fun p => p.2.cohort = ck).map (·.2.die)).eraseDups).any fun di => s.stoppedFirst di prio none
/-- TEAM_START (R359). -/
def execTeamStart (s : State) : Out :=
  match s.curEv with
  | some (.teamStart tid) =>
    match s.team? tid with
    | none => .next s
    | some t =>
      match s.cohort? t.cohort with
      | none => .next s
      | some c =>
        if !s.inQueue tid t || s.stoppedFirst t.die c.lr.prio none then .next s
        else if c.lr.cosched then match s.startAll t.cohort with
          | some x => .next (if s.stoppedAmong x t.cohort c.lr.prio then s else x)
          | none => .next s
        else .next ((s.startTeam tid).getD s)
  | _ => .next s
/-- Whether a core has no resident team. -/
def State.idleCore (s : State) (ck : Nat) : Bool := (s.coreUse (ck / 48) (ck % 48)).word.isNone
/-- STEAL_REQUEST (R364): the victim ships half of its queue, rounded up, oldest first. -/
def execStealRequest (s : State) : Out :=
  match s.curEv with
  | some (.stealRequest thief victim) =>
    let q := (s.core victim).startQ
    let longest := (List.range 48).all fun k => (s.core (coreKey (victim / 48) k)).startQ.length ≤ q.length
    if thief / 48 ≠ victim / 48 || thief = victim || !s.idleCore thief || !(s.core thief).startQ.isEmpty || q.isEmpty ||
        !longest || (s.die (thief / 48)).fenced then .next s
    else
      let n := (q.length + 1) / 2
      .next ((s.modCore victim fun x => { x with startQ := q.drop n }).send (.stealReply thief (q.take n)))
  | _ => .next s
/-- STEAL_REPLY (R364): the control blocks join the thief's queue as far as its 16 places go; the others wait for one (R358). -/
def execStealReply (s : State) : Out :=
  match s.curEv with
  | some (.stealReply thief ts) => s.receive (.stealReply thief ts) fun s =>
    let live := ts.filter fun t => (s.team? t).any fun t => t.state = .waiting
    let n := 16 - (s.core thief).startQ.length
    let s := (live.take n).foldl (fun s t => s.modTeam t fun x => { x with stolen := true, startQ := thief % 48 }) s
    let s := s.modCore thief fun x => { x with startQ := x.startQ ++ live.take n }
    if (live.drop n).isEmpty then s else s.send (.stealReply thief (live.drop n))
  | _ => .next s

/-! ### Migration (R365, R366) -/

/-- Whether a die has room for a team now, with member 0 on `first` when it is named. -/
def State.roomOn (s : State) (di : Nat) (c : Cohort) (first : Option Nat) : Bool :=
  !(s.die di).fenced && (placeOn (s.dieUse di) c.lr c.roles first).isSome
/-- Whether a team that waits has its place now: under COSCHED every team of its cohort (R358), a stolen team with its thief as
member core 0 (R364). -/
def State.hasRoom (s : State) (t : Team) (c : Cohort) : Bool :=
  if t.state = .waiting && c.lr.cosched then (s.startAll t.cohort).isSome
  else s.roomOn t.die c (if t.state = .waiting && t.stolen then some t.startQ else none)
/-- Whether a team may be sent to a die: it waits for room that its own die lacks, or TMIG asks for it. -/
def State.mayMove (s : State) (t : Team) (c : Cohort) (di : Nat) : Bool :=
  di ≠ t.die && devOfDie di = devOfDie t.die && c.lr.diemask.getLsbD (di % 8) && s.roomOn di c none && !t.held &&
  (t.colls.all fun p => p.2.state = .free) &&
  match t.tmig with
  | some m => t.state = .saved && m.target ≠ 9 && m.target ≠ t.die % 8 && (m.target = 8 || m.target = di % 8)
  | none => (t.state = .waiting || t.state = .saved) && t.since + 50000 ≤ s.time && !s.hasRoom t c
/-- OVERLOAD_MIGRATION (R365): also the move that TMIG asks for (R366). -/
def execOverloadMigration (s : State) : Out :=
  match s.curEv with
  | some (.overloadMigration tid di) =>
    match s.team? tid with
    | none => .next s
    | some t =>
      match s.cohort? t.cohort with
      | none => .next s
      | some c =>
        if !s.mayMove t c di || (t.state = .waiting && !s.inQueue tid t) then .next s
        else
          let s := s.modCore (coreKey t.die t.startQ) fun x => { x with startQ := x.startQ.erase tid }
          .next ((s.setTeam tid { t with state := .migrating }).send (.teamInstall tid di))
  | _ => .next s
/-- A team on a die that it was sent to, where its wait for room begins anew (R365): a saved one keeps its image and takes the stores
that its forwarding entry held (R323); one that TMIG moved and that is back on its own die stays there (R366). -/
def State.installTeam (s : State) (tid di : Nat) (t : Team) : State :=
  if t.hall = 0 then
    match s.queueCore di with
    | none => s.send (.teamInstall tid di)
    | some k =>
      (s.setTeam tid { t with state := .waiting, die := di, startQ := k, stolen := false, since := s.time }).modCore (coreKey di k)
        fun x => { x with startQ := x.startQ ++ [tid] }
  else
    let m := t.tmig.map fun m => { m with target := if m.target = 9 || di = m.origin then 9 else di % 8 }
    let s := s.setTeam tid { t with state := .saved, die := di, fwdQ := [], tmig := m, since := s.time }
    t.fwdQ.foldl (fun s m => s.inImage tid fun s => s.deliverStore tid m) s
/-- TEAM_INSTALL (R365): a team whose new die has been fenced meanwhile goes back to its own. -/
def execTeamInstall (s : State) : Out :=
  match s.curEv with
  | some (.teamInstall tid di) => s.receive (.teamInstall tid di) fun s =>
    match s.team? tid with
    | none => s
    | some t =>
      if t.state ≠ .migrating then s else s.installTeam tid (if (s.die di).fenced then t.die else di) t
  | _ => .next s
/-- When a saved team that TMIG moves, and that no target has taken, is to go back to its own die (R366). -/
def Team.backAt (t : Team) : Option Nat :=
  t.tmig.bind fun m => if t.state = .saved && m.target ≠ 9 then some m.till else none
/-- TMIG_FALLBACK (R366): no room within 1 ms, so the team is restored on its own die, to which it goes back if it had been sent
away. -/
def execTmigFallback (s : State) : Out :=
  match s.curEv with
  | some (.tmigFallback tid) => .next (match s.team? tid with
    | some t =>
      match t.tmig, t.backAt with
      | some m, some till =>
        if s.time < till then s
        else if t.die = m.origin then s.setTeam tid { t with tmig := some { m with target := 9 } }
        else (s.setTeam tid { t with state := .migrating, tmig := some { m with target := 9 } }).send (.teamInstall tid m.origin)
      | _, _ => s
    | none => s)
  | _ => .next s

/-! ### Pre-emption, saving and placing again (R368–R373, R403) -/

/-- Whether a team waits for room on its die. -/
def State.needsRoom (s : State) (tid : Nat) (t : Team) (c : Cohort) : Bool :=
  (s.inQueue tid t || t.returnable) && !s.hasRoom t c
/-- The dies on which a team's room lies: under COSCHED those of its cohort. -/
def roomDies (t : Team) (c : Cohort) : List Nat :=
  if t.state = .waiting && c.lr.cosched then (diesOf c.lr.diemask).map (8 * c.dev + ·) else [t.die]
/-- The machine as it would be once some teams have left their cores. -/
def State.without (s : State) (out : List Nat) : State :=
  out.foldl (fun s k => (s.modTeam k fun t => { t with state := .saved }).modGangs k 256 fun g => { g with resident := false }) s
/-- Puts a team among those to stop: lowest priority first, then the most recently started. -/
def insertVictim (s : State) (x : Nat × Team) : List (Nat × Team) → List (Nat × Team)
  | [] => [x]
  | y :: rest =>
    let px := s.prioOf x.2
    let py := s.prioOf y.2
    if px < py || (px = py && y.2.startAt < x.2.startAt) then x :: y :: rest else y :: insertVictim s x rest
/-- The shortest run of victims that makes room, after those that already stop. -/
def State.victims (s : State) (t : Team) (c : Cohort) (going : List Nat) : List Nat → List Nat → Option (List Nat)
  | taken, rest =>
    if (s.without (going ++ taken)).hasRoom t c then some taken
    else match rest with
      | [] => none
      | v :: rest => s.victims t c going (taken ++ [v]) rest
/-- PREEMPT_FOR_PRIORITY (R368). -/
def execPreemptForPriority (s : State) : Out :=
  match s.curEv with
  | some (.preemptForPriority tid) =>
    match s.team? tid with
    | none => .next s
    | some t =>
      match s.cohort? t.cohort with
      | none => .next s
      | some c =>
        if !s.needsRoom tid t c || s.time < t.since + 10000 then .next s
        else
          let here := s.teamList.filter fun p => (roomDies t c).contains p.2.die
          let going := (here.filter fun p => p.2.state = .stopping).map (·.1)
          let low := (here.filter fun p => p.2.state = .resident && s.prioOf p.2 < c.lr.prio).foldr (insertVictim s) []
          match s.victims t c going [] (low.map (·.1)) with
          | some vs => .next (vs.foldl (fun s v => s.stopTeam v) s)
          | none => .next s
  | _ => .next s
/-- TIME_SLICE_EXPIRY (R403). -/
def execTimeSliceExpiry (s : State) : Out :=
  match s.curEv with
  | some (.timeSliceExpiry tid) =>
    match s.team? tid with
    | none => .next s
    | some t =>
      match s.cohort? t.cohort with
      | none => .next s
      | some c =>
        let slice := (s.tenant (tenantKey c.dev c.tenant)).sched.toNat % 2 ^ 16
        let rival := s.teamList.any fun p => match s.cohort? p.2.cohort with
          | some d => (roomDies p.2 d).contains t.die && d.tenant ≠ c.tenant && c.lr.prio ≤ d.lr.prio && s.needsRoom p.1 p.2 d
          | none => false
        .next (if slice ≠ 0 && t.state = .resident && t.since + 1000 * slice ≤ s.time && rival then s.stopTeam tid else s)
  | _ => .next s
/-- Whether a waiter of a walk is a gang of a team, or a lane of a pass of one. -/
def teamWaiter (tid x : Nat) : Bool := x < 2 ^ 66 && x % 2 ^ 64 / 256 = tid
/-- The walks of a team that has left its cores go on without it. -/
def State.teamLeaves (s : State) (tid : Nat) : State :=
  let ws := s.walks.map fun w => { w with waiters := w.waiters.filter fun x => !teamWaiter tid x }
  { s with walks := ws.filter fun w => w.res.isNone || !w.waiters.isEmpty }
/-- A team that is being ended by trap leaves once its work has ended (R396). -/
def State.finishEnding (s : State) (tid : Nat) : Option State :=
  match s.team? tid with
  | none => none
  | some t =>
    match t.ending, s.cohort? t.cohort with
    | some e, some C =>
      if t.state ≠ .stopping || !s.quiet tid C.ngangs then some s
      else
        let r := s.publishTeam t
        some (if r.1 then ((r.2.takeLoop tid).closeTeam tid e.1 e.2.1 e.2.2.1 e.2.2.2).teamLeaves tid else r.2)
    | _, _ => none
/-- FULL_SAVE (R369, R373, R396). -/
def execFullSave (s : State) : Out :=
  match s.curEv with
  | some (.fullSave tid) =>
    match (s.finishEnding tid).or (s.saveTeam tid |>.map (·.teamLeaves tid)) with
    | some s => .next s
    | none =>
      match s.team? tid with
      | none => .next s
      | some t => .next (if t.state = .stopping then (s.publishTeam t).2 else s)
  | _ => .next s
/-- REGION_RESTART (R370, R373). -/
def execRegionRestart (s : State) : Out :=
  match s.curEv with
  | some (.regionRestart tid) =>
    match s.restartTeam tid, s.team? tid, (s.team? tid).bind fun t => s.cohort? t.cohort with
    | some s, _, _ => .next (s.teamLeaves tid)
    | none, some t, some C =>
      .next (if t.state = .stopping && s.restarts tid t C then (s.publishTeam t).2 else s)
    | _, _, _ => .next s
  | _ => .next s
/-- The sequencers of a team's collectives, and those of their peers, look at their slots again (R342). -/
def State.kickAll (s : State) (tid : Nat) : State :=
  match s.team? tid with
  | none => s
  | some t =>
    let mine := (t.colls.filter fun p => p.2.state = .run || p.2.state = .matching).map fun p => p.2.coll
    s.teamList.foldl (fun s p => p.2.colls.foldl (fun s q =>
      let live : Bool := q.2.state = .run || q.2.state = .matching
      if live && (p.1 = tid || mine.contains q.2.coll) then s.send (.collMatch (collKey p.1 q.1)) else s) s) s
/-- TEAM_RESTORE (R368, R373). -/
def execTeamRestore (s : State) : Out :=
  match s.curEv with
  | some (.teamRestore tid) =>
    match s.team? tid with
    | none => .next s
    | some t =>
      if !t.returnable || (s.die t.die).fenced || s.stoppedFirst t.die (s.prioOf t) (some t.stopAt) then .next s
      else match s.placeAgain tid with
        | some s => .next (s.kickAll tid)
        | none => .next s
  | _ => .next s
/-- The swap that a partition is forced to (R362): when one of its eligible gangs will have waited 20 µs, its oldest eligible gang, and
the active gang that has gone longest without a move; `none` while an active place is free. -/
def State.forcedSwap (s : State) (ck part : Nat) : Option (Nat × Nat × Nat) :=
  let gs := s.partGangs (ck / 48) (ck % 48) part
  let acts := gs.filter fun p => p.2.active
  let longest := acts.foldl (fun (b : Option (Nat × Gang)) p => match b with
    | none => some p
    | some q => if p.2.movedAt < q.2.movedAt then some p else b) none
  let due := ((gs.filter fun p => p.2.eligible).map fun p => max p.2.movedAt p.2.eligAt + 20000).min?
  match oldest gs, due, longest with
  | some k, some d, some (v, _) => if acts.length < 8 then none else some (d, k, v)
  | _, _, _ => none
/-- PENDING_FORCED_SWAP (R362): an eligible gang has waited 20 µs and no active place is free, so the active gang that has
gone longest without a move makes room. -/
def execPendingForcedSwap (s : State) : Out :=
  match s.curEv with
  | some (.pendingForcedSwap ck part) => .next (match s.forcedSwap ck part with
    | some (due, k, v) =>
      if due ≤ s.time then (s.modGang v fun g => { g with active := false, movedAt := s.time }).modGang k fun g =>
        { g with active := true, movedAt := s.time } else s
    | none => s)
  | _ => .next s

end Machine
end Sys2Proof
end

