-- ==== Sys2Proof/Machine/Relock.lean ====
section
/-!
DEFINITION. What a die that relocks puts off (R419), and the loss of a message that no part reports (R465).
-/
namespace Sys2Proof
namespace Machine

/-- Die of a gang. -/
def State.gangDie (s : State) (gid : Nat) : Option Nat := ((s.gang? gid).bind fun g => s.team? g.team).map (·.die)
/-- Die of a team. -/
def State.teamDie (s : State) (tid : Nat) : Option Nat := (s.team? tid).map (·.die)
/-- Die of a holder, or of the home unit when it is the home memory. -/
def holderDie (sec h : Nat) : Option Nat :=
  if h < 256 then some (dieOfHolder sec h) else if h = homeH then homeDie sec else none
/-- The home dies that an access's lanes wait for. -/
def Access.homeDies (a : Access) : List Nat :=
  (a.lanes.filterMap fun y => if y.got.isNone && y.place = .home then y.loc.sec?.bind homeDie else none).eraseDups
/-- The die that takes part in an event as the one that receives or advances. -/
def State.dieOfEv (s : State) : Ev → Option Nat
  | .loadDataReturn id | .storePerformed id => (s.accesses.find? (·.id = id)).map (·.die)
  | .walkComplete id => (s.walks.find? (·.id = id)).map (·.die)
  | .lineFillComplete f => some f.die
  | .tlbiRequest die .. => some die
  | .scopeFilterTimedPublish ck | .matrixInstructionStart ck | .matrixRetire ck => some (ck / 48)
  | .pendingForcedSwap ck _ => some (ck / 48)
  | .stealRequest ck _ => some (ck / 48)
  | .stealReply ck _ => some (ck / 48)
  | .trd m | .twr m | .tdat m | .ttok m | .trec m | .trdone m => holderDie m.sector m.dest
  | .tret m | .trca m | .trdack m => homeDie m.sector
  | .lossReport sec _ _ => homeDie sec
  | .clmp m | .clack m _ | .cldone m => homeDie m.sector
  | .clact m | .cldea m => holderDie m.sector m.peer
  | .copyTransferStart id | .copyTransferRetire id => (s.xfers.find? (·.id = id)).map (·.die)
  | .tsndDue id => (s.xfers.find? (·.id = id)).map (·.die)
  | .phaseEndNotice g _ _ | .remoteStoreAck g _ _ _ | .remoteAnswer g _ _ => s.gangDie g
  | .fluxPassEntry g | .fluxPassEnd g => s.gangDie g
  | .remoteStoreArrival m => (s.byHall m.group m.hall).map (·.2.die)
  | .chgiveArrival m => (s.byHall m.group m.hall).map (·.2.die)
  | .congestionNotice die _ => some die
  | .remoteStoreRetry m => s.gangDie m.sender
  | .collMatch k => s.teamDie (k / 4)
  | .permitReturn t _ _ _ | .collAbort t _ _ _ _ => s.teamDie t
  | .teamStart t | .fullSave t | .regionRestart t | .teamRestore t => s.teamDie t
  | .teamInstall _ die => some die
  | .collStepArrival m => (s.collTeam m.coll m.dst).bind s.teamDie
  | .remoteWalkRequest id => (s.walks.find? (·.id = id)).map fun w => s.walkDie w.dev w.die
  | .circleArrival ck .. => (s.cohort? ck).map fun c => 8 * c.dev + c.lr.chome
  | .clampBatchSelect u => if partOfUnit u < 16384 then some (partOfUnit u) else none
  | _ => none
/-- The dies that take part in an event; an access at the home may have several. -/
def State.diesOfEv (s : State) (e : Ev) : List Nat :=
  match e with
  | .homeAccessRequest id => ((s.accesses.find? (·.id = id)).map (·.homeDies)).getD []
  | e => (s.dieOfEv e).toList
/-- Whether an event waits for the end of a relock: no core, engine or sequencer of the die advances, and messages to
it wait (R419). -/
def State.frozen (s : State) (e : Ev) : Bool := (s.diesOfEv e).any fun di => (s.dieNow di).relock.isSome
/-- The state in which an event happens. -/
def State.withEvent (s : State) (e : Ev) : State := { s with curEv := if s.frozen e then none else some e }
/-- Whether an entry of the network is a message that can be lost unreported (R465): every one but those that stand for work
within a die or a device: a fill, a sequencer's next look at its slot, the next step of a start. -/
def losable : Ev → Bool
  | .lineFillComplete _ | .collMatch _ | .coldStart .. | .warmStart .. => false
  | _ => true
/-- UNREPORTED_MESSAGE_LOSS (R465): a message ceases to exist; none is lost that waits for a die which relocks (R419). -/
def execUnreportedMessageLoss (s : State) : Out :=
  match s.curEv with
  | some (.unreportedMessageLoss i) =>
    match s.net[i]? with
    | some e => .next (if losable e && !s.frozen e then { s with net := s.net.eraseIdx i } else s)
    | none => .next s
  | _ => .next s

end Machine
end Sys2Proof
end

