-- ==== Sys2Proof/Machine/Uniform.lean ====
section
/-!
DEFINITION. Uniform instructions, major opcodes 0x10–0x17 (R142–R145).
-/
namespace Sys2Proof
namespace Machine

/-- A uniform operation of two operands at either width (R143). -/
def Ctx.k2op (c : Ctx) (s : State) (b64 : Bool) (d : RegNum) (a : Src) (b : SrcI)
    (f32 : Word → Word → Word) (f64 : DWord → DWord → DWord) : Res :=
  if b64 then c.putK2 s d (f64 (c.r.ks2 a) (c.r.ksI2 b)) else c.putK s d (f32 (c.r.ks a) (c.r.ksI b))
/-- A uniform shift: the amount is one 32-bit value (R143). -/
def Ctx.kshift (c : Ctx) (s : State) (b64 : Bool) (d : RegNum) (a : Src) (b : SrcI)
    (f32 : Word → Nat → Word) (f64 : DWord → Nat → DWord) : Res :=
  let n := (c.r.ksI b).toNat
  if b64 then c.putK2 s d (f64 (c.r.ks2 a) n) else c.putK s d (f32 (c.r.ks a) n)
/-- Whether `a ≤ b`, unsigned when `uns`. -/
def leW {w : Nat} (uns : Bool) (a b : BitVec w) : Bool := if uns then a.toNat ≤ b.toNat else a.toInt ≤ b.toInt
/-- The lesser. -/
def minW {w : Nat} (uns : Bool) (a b : BitVec w) : BitVec w := if leW uns a b then a else b
/-- The greater. -/
def maxW {w : Nat} (uns : Bool) (a b : BitVec w) : BitVec w := if leW uns a b then b else a

/-- KMOV (R143). -/
def execKmov (g : Guard) (b64 : Bool) (d : RegNum) (a : Src) (s : State) : Out :=
  issue (.kmov g b64 d a) s fun c s => if b64 then c.putK2 s d (c.r.ks2 a) else c.putK s d (c.r.ks a)

/-- KLI (R143). -/
def execKli (g : Guard) (b64 : Bool) (d : RegNum) (v : KImm) (s : State) : Out :=
  issue (.kli g b64 d v) s fun c s =>
    match v with
    | .i32 w => if b64 then c.putK2 s d (w.signExtend 64) else c.putK s d w
    | .i64 w => c.putK2 s d w

/-- KADD (R143). -/
def execKadd (g : Guard) (b64 : Bool) (d : RegNum) (a : Src) (b : SrcI) (s : State) : Out :=
  issue (.kadd g b64 d a b) s fun c s => c.k2op s b64 d a b (· + ·) (· + ·)
/-- KSUB (R143). -/
def execKsub (g : Guard) (b64 : Bool) (d : RegNum) (a : Src) (b : SrcI) (s : State) : Out :=
  issue (.ksub g b64 d a b) s fun c s => c.k2op s b64 d a b (· - ·) (· - ·)
/-- KMUL (R143). -/
def execKmul (g : Guard) (b64 : Bool) (d : RegNum) (a : Src) (b : SrcI) (s : State) : Out :=
  issue (.kmul g b64 d a b) s fun c s => c.k2op s b64 d a b (· * ·) (· * ·)
/-- KAND (R143). -/
def execKand (g : Guard) (b64 : Bool) (d : RegNum) (a : Src) (b : SrcI) (s : State) : Out :=
  issue (.kand g b64 d a b) s fun c s => c.k2op s b64 d a b (· &&& ·) (· &&& ·)
/-- KOR (R143). -/
def execKor (g : Guard) (b64 : Bool) (d : RegNum) (a : Src) (b : SrcI) (s : State) : Out :=
  issue (.kor g b64 d a b) s fun c s => c.k2op s b64 d a b (· ||| ·) (· ||| ·)
/-- KXOR (R143). -/
def execKxor (g : Guard) (b64 : Bool) (d : RegNum) (a : Src) (b : SrcI) (s : State) : Out :=
  issue (.kxor g b64 d a b) s fun c s => c.k2op s b64 d a b (· ^^^ ·) (· ^^^ ·)
/-- KSHL (R143). -/
def execKshl (g : Guard) (b64 : Bool) (d : RegNum) (a : Src) (b : SrcI) (s : State) : Out :=
  issue (.kshl g b64 d a b) s fun c s => c.kshift s b64 d a b shlW shlW
/-- KSHR (R143). -/
def execKshr (g : Guard) (b64 : Bool) (d : RegNum) (a : Src) (b : SrcI) (s : State) : Out :=
  issue (.kshr g b64 d a b) s fun c s => c.kshift s b64 d a b shrW shrW
/-- KSRA (R143). -/
def execKsra (g : Guard) (b64 : Bool) (d : RegNum) (a : Src) (b : SrcI) (s : State) : Out :=
  issue (.ksra g b64 d a b) s fun c s => c.kshift s b64 d a b sraW sraW
/-- KMIN (R143). -/
def execKmin (g : Guard) (b64 uns : Bool) (d : RegNum) (a : Src) (b : SrcI) (s : State) : Out :=
  issue (.kmin g b64 uns d a b) s fun c s => c.k2op s b64 d a b (minW uns) (minW uns)
/-- KMAX (R143). -/
def execKmax (g : Guard) (b64 uns : Bool) (d : RegNum) (a : Src) (b : SrcI) (s : State) : Out :=
  issue (.kmax g b64 uns d a b) s fun c s => c.k2op s b64 d a b (maxW uns) (maxW uns)

/-- KCMP (R143). -/
def execKcmp (g : Guard) (rel : Rel) (uns b64 : Bool) (q : PredNum) (a : Src) (b : SrcI) (s : State) : Out :=
  issue (.kcmp g rel uns b64 q a b) s fun c s =>
    if b64 then
      c.putQ s q (rel.holds (wval (!uns) 64 (c.r.ks2 a).toNat) (wval (!uns) 64 (c.r.ksI2 b).toNat))
    else c.putQ s q (rel.holds (wval (!uns) 32 (c.r.ks a).toNat) (wval (!uns) 32 (c.r.ksI b).toNat))

/-- KSEL (R143). -/
def execKsel (g : Guard) (b64 : Bool) (d : RegNum) (a : Src) (b : SrcI) (p : PredNum) (s : State) : Out :=
  issue (.ksel g b64 d a b p) s fun c s =>
    let q := c.r.q p.toNat
    c.k2op s b64 d a b (fun x y => if q then x else y) (fun x y => if q then x else y)

/-- VTOK (R144). -/
def execVtok (g : Guard) (b64 : Bool) (d : RegNum) (a : Src) (s : State) : Out :=
  issue (.vtok g b64 d a) s fun c s =>
    match lowLane c.emask with
    | none => .done s
    | some l => if b64 then c.putK2 s d (c.r.src2 a l) else c.putK s d (c.r.src a l)

/-- KBC (R144). -/
def execKbc (g : Guard) (b64 : Bool) (d : RegNum) (a : Src) (s : State) : Out :=
  issue (.kbc g b64 d a) s fun c s =>
    if b64 then c.putV2 s d fun _ => c.r.ks2 a else c.putV s d fun _ => c.r.ks a

/-- Code of a role (R58). -/
def Role.code : Role → Nat
  | .gen => 0
  | .copy => 1
  | .mtx => 2
  | .vec => 3
  | .link => 4
/-- The 64-bit special values (R58). -/
def wideSpecial : Special → Bool
  | .clk | .time => true
  | _ => false
/-- A special value in a lane (R58, R59). -/
def Ctx.special (c : Ctx) (s : State) (v : Special) (l : Nat) : DWord :=
  match v with
  | .lane => BitVec.ofNat 64 l
  | .depth => BitVec.ofNat 64 (c.r.c l)
  | .cursor => BitVec.ofNat 64 (Store.get 0 c.r.curs l)
  | .gang => BitVec.ofNat 64 c.G.idx
  | .ngangs => BitVec.ofNat 64 c.C.ngangs
  | .team => BitVec.ofNat 64 c.T.tidx
  | .nteams => BitVec.ofNat 64 c.C.lr.nteams
  | .hallmark => c.T.hall.setWidth 64
  | .role => BitVec.ofNat 64 c.G.role.code
  | .part => BitVec.ofNat 64 c.G.part
  | .core => BitVec.ofNat 64 c.G.core
  | .die => BitVec.ofNat 64 (c.T.die % 8)
  | .dev => BitVec.ofNat 64 (c.T.die / 8 % 32)
  | .group => BitVec.ofNat 64 (c.T.die / 256)
  | .tenant => BitVec.ofNat 64 c.tenant
  | .slot => if c.sec then 1 else 0
  | .amask => c.amask.setWidth 64
  | .clk => BitVec.ofNat 64 (s.clk c.die)
  | .time => BitVec.ofNat 64 s.time

/-- MOVS (R145). -/
def execMovs (g : Guard) (uni : Bool) (d : RegNum) (v : Special) (s : State) : Out :=
  issue (.movs g uni d v) s fun c s =>
    if uni then
      if wideSpecial v then c.putK2 s d (c.special s v 0) else c.putK s d ((c.special s v 0).setWidth 32)
    else if wideSpecial v then c.putV2 s d fun l => c.special s v l
    else c.putV s d fun l => (c.special s v l).setWidth 32

end Machine
end Sys2Proof
end

