-- ==== Sys2Proof/Machine/WaitLine.lean ====
section
/-!
DEFINITION. The line wait, major opcode 0x76 (R224, R225).
-/
namespace Sys2Proof
namespace Machine

/-- The request of WAITLN: a strong load of 4 or 8 bytes in each lane, with the operand it is compared to (R224). -/
def Ctx.waitReq (c : Ctx) (b64 : Bool) (base : Base) (b : Src) (off : Word) (scope : Scope) (ord : Order) : MemReq :=
  let n := if b64 then 2 else 1
  { op := .load false, size := 4 * n, weak := false, acq := ord = .acq, scope := scope,
    lanes := c.perLane base (off.signExtend 64) (c.r.vN b.reg.toNat n) fun _ => 0 }
/-- The time at which a WAITLN that looks again issued. -/
def Ctx.watchFrom (c : Ctx) : Option Nat :=
  match c.G.waitAt c.sec with
  | .recheck t | .watch t _ => some t
  | _ => none
/-- Reads the placed lanes in turn: whether each could be read, and which lanes stand in the relation (R224). -/
def Ctx.watchReads (c : Ctx) (rel : Rel) (uns : Bool) (ys : List LaneAcc) (s : State) : Bool × List (Nat × Bool) × State :=
  ys.foldl (fun (acc : Bool × List (Nat × Bool) × State) y =>
    match c.readLane y acc.2.2 with
    | (some v, s) =>
      (acc.1, acc.2.1 ++ [(y.lane, rel.holds (wval (!uns) (8 * y.size) v) (wval (!uns) (8 * y.size) y.b))], s)
    | (none, s) => (false, acc.2.1, s)) (true, [], s)
/-- What a look of WAITLN read that an event may change under it: words of the scratchpad, and of sectors for which its die has a read
token (R224). -/
def Ctx.lookWords (c : Ctx) (ys : List LaneAcc) (s : State) : List (Loc × Nat × Nat) :=
  ys.filterMap fun y => match y.loc with
    | .scr o => (s.team? c.tid).map fun t => (y.loc, y.size, ofBytes (readBytes t.scratch o y.size))
    | .dram dev pa =>
      if (y.place = .l1 || y.place = .slice) && s.sliceHas c.die (sectorOf dev pa) then some (y.loc, y.size, 0) else none
    | _ => none
/-- WAITLN has looked and waits for its next look (R224). -/
def Ctx.watch (c : Ctx) (since till : Nat) (ys : List LaneAcc) (s : State) : Res :=
  .wait (.watch since till) (s.modGang c.gid fun g =>
    { g with looks := ⟨c.sec, s.time, c.lookWords ys s, g.seen.length⟩ :: g.looks.filter (·.sec ≠ c.sec) })
/-- When a WAITLN that waits in a slot looks again: at once when data has come for it, its die has lost a read token that it read
under, or its scratchpad word has changed; otherwise 2 µs after its last look, and when its bound passes (R224). -/
def State.lookAt (s : State) (g : Gang) (sec : Bool) : Option (Nat × Bool) :=
  match g.waitAt sec, g.looks.find? (·.sec = sec), s.team? g.team with
  | .watch _ till, some l, some t =>
    let gone : Bool := l.words.any fun w => match w.1 with
      | .scr o => ofBytes (readBytes t.scratch o w.2.1) ≠ w.2.2
      | .dram dev pa => !s.sliceHas t.die (sectorOf dev pa)
      | _ => false
    if gone || l.came < g.seen.length then some (s.time, false)
    else if l.at_ < till && till ≤ l.at_ + 2000 then some (till, true)
    else some (l.at_ + 2000, false)
  | .watch .., none, _ => some (s.time, false)
  | _, _, _ => none
/-- WAITLN (R224): it waits at its word until the relation holds in every lane or its bound has passed, each look a strong read
that acts as an acquire; a lane whose read comes back as poison is left to the reader of its predicate (R270). -/
def execWaitln (g : Guard) (rel : Rel) (uns b64 : Bool) (p : PredNum) (base : Base) (b : Src) (off : Word)
    (tmo : BitVec 16) (scope : Scope) (ord : Order) (s : State) : Out :=
  issue (.waitln g rel uns b64 p base b off tmo scope ord) s fun c s =>
    let q := c.waitReq b64 base b off scope ord
    let ps := c.reqPages q
    let since := c.watchFrom.getD s.time
    let till := since + 1000 * tmo.toNat
    let hold (w : Wait) (s : State) : Res := if c.watchFrom.isSome then c.watch since till [] s else .wait w s
    let w := c.walkAll ps s
    if !w.1 then hold .walk w.2
    else
      let cs := q.lanes.map fun x => (x, c.check w.2 false true false q.size x.2.1 x.1)
      match c.memWait q (locsOf cs) w.2 with
      | some k => hold k w.2
      | none =>
        let fl := c.laneTrap (faultsOf cs) w.2
        let s := c.seenAll ps fl.2
        if !fl.1 then .done s
        else
          let pl := c.placeAll q cs s
          let bad := pl.1.filter fun y => s.readSpoilt y.loc
          let rd := c.watchReads rel uns (pl.1.filter fun y => !s.readSpoilt y.loc) pl.2.2
          if !pl.2.1 || !rd.1 then
            c.watch since till pl.1 (rd.2.2.modGang c.gid fun g => { g with eye := (c.G.eye ++ g.eye).eraseDups })
          else if rd.2.1.all (·.2) || till ≤ s.time then
            let m := maskOf fun l => rd.2.1.any (·.1 = l)
            let s := c.mod rd.2.2 fun x => x.setP p.toNat m fun l => rd.2.1.any fun y => y.1 = l && y.2
            let s := if bad.isEmpty || p = 7 then s else s.modGang c.gid fun g =>
              { g with pois := g.pois ++ bad.map fun y => ⟨.p p.toNat, maskOf (· = y.lane), y.ptr⟩ }
            .done (s.dropCleanAll c.core)
          else c.watch since till pl.1 rd.2.2

end Machine
end Sys2Proof
end

