-- ==== Sys2Proof/Machine/Dispatch.lean ====
section
/-!
DEFINITION. The dispatch: one arm per row of the table of operations and events.
-/
namespace Sys2Proof.Machine

def exec (i : Instr) (s : State) : Host.Outcome State Fault Refusal :=
  match i with
  | .nop g form => Sys2Proof.Machine.execNop g form s
  | .bra g off => Sys2Proof.Machine.execBra g off s
  | .brx g t => Sys2Proof.Machine.execBrx g t s
  | .call g link off => Sys2Proof.Machine.execCall g link off s
  | .callx g link t => Sys2Proof.Machine.execCallx g link t s
  | .ret g link d => Sys2Proof.Machine.execRet g link d s
  | .ifThen inv p off => Sys2Proof.Machine.execIfThen inv p off s
  | .elseDo off => Sys2Proof.Machine.execElseDo off s
  | .endIf => Sys2Proof.Machine.execEndIf s
  | .loop off => Sys2Proof.Machine.execLoop off s
  | .brk g d => Sys2Proof.Machine.execBrk g d s
  | .cont g d => Sys2Proof.Machine.execCont g d s
  | .endLoop off => Sys2Proof.Machine.execEndLoop off s
  | .exit g => Sys2Proof.Machine.execExit g s
  | .trap g code => Sys2Proof.Machine.execTrap g code s
  | .bpt g => Sys2Proof.Machine.execBpt g s
  | .kmov g b64 d a => Sys2Proof.Machine.execKmov g b64 d a s
  | .kli g b64 d v => Sys2Proof.Machine.execKli g b64 d v s
  | .kadd g b64 d a b => Sys2Proof.Machine.execKadd g b64 d a b s
  | .ksub g b64 d a b => Sys2Proof.Machine.execKsub g b64 d a b s
  | .kmul g b64 d a b => Sys2Proof.Machine.execKmul g b64 d a b s
  | .kand g b64 d a b => Sys2Proof.Machine.execKand g b64 d a b s
  | .kor g b64 d a b => Sys2Proof.Machine.execKor g b64 d a b s
  | .kxor g b64 d a b => Sys2Proof.Machine.execKxor g b64 d a b s
  | .kshl g b64 d a b => Sys2Proof.Machine.execKshl g b64 d a b s
  | .kshr g b64 d a b => Sys2Proof.Machine.execKshr g b64 d a b s
  | .ksra g b64 d a b => Sys2Proof.Machine.execKsra g b64 d a b s
  | .kmin g b64 uns d a b => Sys2Proof.Machine.execKmin g b64 uns d a b s
  | .kmax g b64 uns d a b => Sys2Proof.Machine.execKmax g b64 uns d a b s
  | .kcmp g rel uns b64 q a b => Sys2Proof.Machine.execKcmp g rel uns b64 q a b s
  | .ksel g b64 d a b c => Sys2Proof.Machine.execKsel g b64 d a b c s
  | .vtok g b64 d a => Sys2Proof.Machine.execVtok g b64 d a s
  | .kbc g b64 d a => Sys2Proof.Machine.execKbc g b64 d a s
  | .movs g uni d v => Sys2Proof.Machine.execMovs g uni d v s
  | .iadd g t sat d a b => Sys2Proof.Machine.execIadd g t sat d a b s
  | .isub g t sat d a b => Sys2Proof.Machine.execIsub g t sat d a b s
  | .imul g t k d a b => Sys2Proof.Machine.execImul g t k d a b s
  | .imad g t wide d a b c => Sys2Proof.Machine.execImad g t wide d a b c s
  | .idiv g t d a b => Sys2Proof.Machine.execIdiv g t d a b s
  | .irem g t d a b => Sys2Proof.Machine.execIrem g t d a b s
  | .imin g t d a b => Sys2Proof.Machine.execImin g t d a b s
  | .imax g t d a b => Sys2Proof.Machine.execImax g t d a b s
  | .iabs g t sat d a => Sys2Proof.Machine.execIabs g t sat d a s
  | .ineg g t sat d a => Sys2Proof.Machine.execIneg g t sat d a s
  | .isad g t d a b c => Sys2Proof.Machine.execIsad g t d a b c s
  | .icmp g rel t p a b => Sys2Proof.Machine.execIcmp g rel t p a b s
  | .isel g b64 d a b c => Sys2Proof.Machine.execIsel g b64 d a b c s
  | .and g b64 d a b => Sys2Proof.Machine.execAnd g b64 d a b s
  | .or g b64 d a b => Sys2Proof.Machine.execOr g b64 d a b s
  | .xor g b64 d a b => Sys2Proof.Machine.execXor g b64 d a b s
  | .andn g b64 d a b => Sys2Proof.Machine.execAndn g b64 d a b s
  | .orn g b64 d a b => Sys2Proof.Machine.execOrn g b64 d a b s
  | .xnor g b64 d a b => Sys2Proof.Machine.execXnor g b64 d a b s
  | .not g b64 d a => Sys2Proof.Machine.execNot g b64 d a s
  | .tern g d a b c table => Sys2Proof.Machine.execTern g d a b c table s
  | .shl g b64 d a n => Sys2Proof.Machine.execShl g b64 d a n s
  | .shr g b64 d a n => Sys2Proof.Machine.execShr g b64 d a n s
  | .sra g b64 d a n => Sys2Proof.Machine.execSra g b64 d a n s
  | .rot g right b64 d a n => Sys2Proof.Machine.execRot g right b64 d a n s
  | .fshl g d a b n => Sys2Proof.Machine.execFshl g d a b n s
  | .fshr g d a b n => Sys2Proof.Machine.execFshr g d a b n s
  | .popc g b64 d a => Sys2Proof.Machine.execPopc g b64 d a s
  | .clz g b64 d a => Sys2Proof.Machine.execClz g b64 d a s
  | .ctz g b64 d a => Sys2Proof.Machine.execCtz g b64 d a s
  | .brev g b64 d a => Sys2Proof.Machine.execBrev g b64 d a s
  | .bfx g uns d a ctl => Sys2Proof.Machine.execBfx g uns d a ctl s
  | .bfi g d a ctl c => Sys2Proof.Machine.execBfi g d a ctl c s
  | .bmsk g d ctl => Sys2Proof.Machine.execBmsk g d ctl s
  | .permb g d a b sel => Sys2Proof.Machine.execPermb g d a b sel s
  | .lea g uns uni scl d base idx => Sys2Proof.Machine.execLea g uns uni scl d base idx s
  | .padd g x16 uns sat d a b => Sys2Proof.Machine.execPadd g x16 uns sat d a b s
  | .psub g x16 uns sat d a b => Sys2Proof.Machine.execPsub g x16 uns sat d a b s
  | .pmul g x16 uns sat d a b => Sys2Proof.Machine.execPmul g x16 uns sat d a b s
  | .pmin g x16 uns d a b => Sys2Proof.Machine.execPmin g x16 uns d a b s
  | .pmax g x16 uns d a b => Sys2Proof.Machine.execPmax g x16 uns d a b s
  | .pavg g x16 uns d a b => Sys2Proof.Machine.execPavg g x16 uns d a b s
  | .pshl g x16 d a n => Sys2Proof.Machine.execPshl g x16 d a n s
  | .pshr g x16 d a n => Sys2Proof.Machine.execPshr g x16 d a n s
  | .psra g x16 d a n => Sys2Proof.Machine.execPsra g x16 d a n s
  | .pcmp g rel x16 uns d a b => Sys2Proof.Machine.execPcmp g rel x16 uns d a b s
  | .drawc g a b => Sys2Proof.Machine.execDrawc g a b s
  | .draw g d a w => Sys2Proof.Machine.execDraw g d a w s
  | .mov g b64 d a => Sys2Proof.Machine.execMov g b64 d a s
  | .fadd g rm d a b => Sys2Proof.Machine.execFadd g rm d a b s
  | .fsub g rm d a b => Sys2Proof.Machine.execFsub g rm d a b s
  | .fmul g rm d a b => Sys2Proof.Machine.execFmul g rm d a b s
  | .ffma g rm d a b c => Sys2Proof.Machine.execFfma g rm d a b c s
  | .fdiv g rm d a b => Sys2Proof.Machine.execFdiv g rm d a b s
  | .fmin g num d a b => Sys2Proof.Machine.execFmin g num d a b s
  | .fmax g num d a b => Sys2Proof.Machine.execFmax g num d a b s
  | .fcmp g rel u p a b => Sys2Proof.Machine.execFcmp g rel u p a b s
  | .fclass g d a => Sys2Proof.Machine.execFclass g d a s
  | .frcp g rm d a => Sys2Proof.Machine.execFrcp g rm d a s
  | .frsq g d a => Sys2Proof.Machine.execFrsq g d a s
  | .fsqrt g rm d a => Sys2Proof.Machine.execFsqrt g rm d a s
  | .fexp2 g d a => Sys2Proof.Machine.execFexp2 g d a s
  | .flog2 g d a => Sys2Proof.Machine.execFlog2 g d a s
  | .fsin g d a => Sys2Proof.Machine.execFsin g d a s
  | .fcos g d a => Sys2Proof.Machine.execFcos g d a s
  | .ftanh g d a => Sys2Proof.Machine.execFtanh g d a s
  | .xadd2 g bf rm d a b => Sys2Proof.Machine.execXadd2 g bf rm d a b s
  | .xmul2 g bf rm d a b => Sys2Proof.Machine.execXmul2 g bf rm d a b s
  | .xfma2 g bf rm d a b c => Sys2Proof.Machine.execXfma2 g bf rm d a b c s
  | .cvtfi g t rm d a => Sys2Proof.Machine.execCvtfi g t rm d a s
  | .cvtif g t rm d a => Sys2Proof.Machine.execCvtif g t rm d a s
  | .cvtff g f rm sat d a b => Sys2Proof.Machine.execCvtff g f rm sat d a b s
  | .cvtffWide g f idx d a => Sys2Proof.Machine.execCvtffWide g f idx d a s
  | .cvtbk g f rm sat d a => Sys2Proof.Machine.execCvtbk g f rm sat d a s
  | .cvtbkWide g f d a => Sys2Proof.Machine.execCvtbkWide g f d a s
  | .fscale g rm d a b => Sys2Proof.Machine.execFscale g rm d a b s
  | .fround g rm d a => Sys2Proof.Machine.execFround g rm d a s
  | .ffrac g rm d a => Sys2Proof.Machine.execFfrac g rm d a s
  | .shfl g mode c d a b p => Sys2Proof.Machine.execShfl g mode c d a b p s
  | .vote g k uni inv d p => Sys2Proof.Machine.execVote g k uni inv d p s
  | .lred g op uni d a => Sys2Proof.Machine.execLred g op uni d a s
  | .lscan g op excl d a => Sys2Proof.Machine.execLscan g op excl d a s
  | .lmatch g all b64 d a => Sys2Proof.Machine.execLmatch g all b64 d a s
  | .momz g d => Sys2Proof.Machine.execMomz g d s
  | .momu g d a => Sys2Proof.Machine.execMomu g d a s
  | .momw g d a b => Sys2Proof.Machine.execMomw g d a b s
  | .momm g d a b => Sys2Proof.Machine.execMomm g d a b s
  | .momd g k d m => Sys2Proof.Machine.execMomd g k d m s
  | .momn g d a m eps => Sys2Proof.Machine.execMomn g d a m eps s
  | .momld g d base off => Sys2Proof.Machine.execMomld g d base off s
  | .momst g base m off => Sys2Proof.Machine.execMomst g base m off s
  | .momq g f uni d m => Sys2Proof.Machine.execMomq g f uni d m s
  | .ld g t d base off probe => Sys2Proof.Machine.execLd g t d base off probe s
  | .st g t base off b => Sys2Proof.Machine.execSt g t base off b s
  | .ldk g t d base off => Sys2Proof.Machine.execLdk g t d base off s
  | .stk g t base off b => Sys2Proof.Machine.execStk g t base off b s
  | .pft g l1 base off => Sys2Proof.Machine.execPft g l1 base off s
  | .pgreq g p base off => Sys2Proof.Machine.execPgreq g p base off s
  | .xlat g pa d base off => Sys2Proof.Machine.execXlat g pa d base off s
  | .cctlIinv g base len off => Sys2Proof.Machine.execCctlIinv g base len off s
  | .cctlL1wb g base len off => Sys2Proof.Machine.execCctlL1wb g base len off s
  | .cctlL1inv g base len off => Sys2Proof.Machine.execCctlL1inv g base len off s
  | .cctlL2evict g base len off => Sys2Proof.Machine.execCctlL2evict g base len off s
  | .pin g d base len off => Sys2Proof.Machine.execPin g d base len off s
  | .unpin g d base len off => Sys2Proof.Machine.execUnpin g d base len off s
  | .atom g op t d base off b => Sys2Proof.Machine.execAtom g op t d base off b s
  | .acas g b64 d base off b c => Sys2Proof.Machine.execAcas g b64 d base off b c s
  | .afadd g t d base off b => Sys2Proof.Machine.execAfadd g t d base off b s
  | .ared g op base off b => Sys2Proof.Machine.execAred g op base off b s
  | .fence g o scope => Sys2Proof.Machine.execFence g o scope s
  | .xfence g => Sys2Proof.Machine.execXfence g s
  | .waitln g rel uns b64 p base b off tmo scope ord => Sys2Proof.Machine.execWaitln g rel uns b64 p base b off tmo scope ord s
  | .cwb g inv base off => Sys2Proof.Machine.execCwb g inv base off s
  | .cpub g base off => Sys2Proof.Machine.execCpub g base off s
  | .tkq g d base off => Sys2Proof.Machine.execTkq g d base off s
  | .bias g host d base n off => Sys2Proof.Machine.execBias g host d base n off s
  | .cpy g f p tr rm sat grp src dst geo off pol => Sys2Proof.Machine.execCpy g f p tr rm sat grp src dst geo off pol s
  | .cpyg g f rm sat grp src dst geo pol => Sys2Proof.Machine.execCpyg g f rm sat grp src dst geo pol s
  | .cpys g f rm sat grp src dst geo off pol => Sys2Proof.Machine.execCpys g f rm sat grp src dst geo off pol s
  | .cpyw g q d mask => Sys2Proof.Machine.execCpyw g q d mask s
  | .cpyq g op d a => Sys2Proof.Machine.execCpyq g op d a s
  | .cpyqClr g d a => Sys2Proof.Machine.execCpyqClr g d a s
  | .mma g p a pa pb sp => Sys2Proof.Machine.execMma g p a pa pb sp s
  | .mloop g p a pa pb sp q1 incA incB cnt1 => Sys2Proof.Machine.execMloop g p a pa pb sp q1 incA incB cnt1 s
  | .acz g a cnt1 => Sys2Proof.Machine.execAcz g a cnt1 s
  | .acld g a src off pitch => Sys2Proof.Machine.execAcld g a src off pitch s
  | .acdr g a v mom norm z fresh nodata off pitch => Sys2Proof.Machine.execAcdr g a v mom norm z fresh nodata off pitch s
  | .mwait g d n => Sys2Proof.Machine.execMwait g d n s
  | .bar g => Sys2Proof.Machine.execBar g s
  | .cbar g c => Sys2Proof.Machine.execCbar g c s
  | .arv g d circ => Sys2Proof.Machine.execArv g d circ s
  | .awt g tok circ => Sys2Proof.Machine.execAwt g tok circ s
  | .sput g sel => Sys2Proof.Machine.execSput g sel s
  | .sget g sel => Sys2Proof.Machine.execSget g sel s
  | .swait g free sel => Sys2Proof.Machine.execSwait g free sel s
  | .marke g k first cnt1 gang => Sys2Proof.Machine.execMarke g k first cnt1 gang s
  | .markf g k first cnt1 gang => Sys2Proof.Machine.execMarkf g k first cnt1 gang s
  | .feq g k d first cnt1 => Sys2Proof.Machine.execFeq g k d first cnt1 s
  | .rstv g drop sel off ext => Sys2Proof.Machine.execRstv g drop sel off ext s
  | .rstk g drop b64 sel data ext => Sys2Proof.Machine.execRstk g drop b64 sel data ext s
  | .rsig g drop k sel ext => Sys2Proof.Machine.execRsig g drop k sel ext s
  | .chq g ent d ch => Sys2Proof.Machine.execChq g ent d ch s
  | .chqClr g d ch => Sys2Proof.Machine.execChqClr g d ch s
  | .chgive g entry perm d hall desc => Sys2Proof.Machine.execChgive g entry perm d hall desc s
  | .chgiveRev g entry d hall => Sys2Proof.Machine.execChgiveRev g entry d hall s
  | .hmqTeam g d a => Sys2Proof.Machine.execHmqTeam g d a s
  | .hmqLive g d a => Sys2Proof.Machine.execHmqLive g d a s
  | .coll g d ptr off => Sys2Proof.Machine.execColl g d ptr off s
  | .collw g q d slot => Sys2Proof.Machine.execCollw g q d slot s
  | .collq g op d slot => Sys2Proof.Machine.execCollq g op d slot s
  | .rcpy g grp src dst geo off pol => Sys2Proof.Machine.execRcpy g grp src dst geo off pol s
  | .rcpyw g q info d mask => Sys2Proof.Machine.execRcpyw g q info d mask s
  | .launch g d ptr off => Sys2Proof.Machine.execLaunch g d ptr off s
  | .lwait g q d h => Sys2Proof.Machine.execLwait g q d h s
  | .lqry g op d h => Sys2Proof.Machine.execLqry g op d h s
  | .yield g => Sys2Proof.Machine.execYield g s
  | .sleep g n => Sys2Proof.Machine.execSleep g n s
  | .rgn g => Sys2Proof.Machine.execRgn g s
  | .rgnx g => Sys2Proof.Machine.execRgnx g s
  | .tmig g d n => Sys2Proof.Machine.execTmig g d n s
  | .flxcfg g team d n => Sys2Proof.Machine.execFlxcfg g team d n s
  | .flxq g sel clr d => Sys2Proof.Machine.execFlxq g sel clr d s
  | .sysc g code => Sys2Proof.Machine.execSysc g code s
  | .rte g => Sys2Proof.Machine.execRte g s
  | .mfs g b64 d idx => Sys2Proof.Machine.execMfs g b64 d idx s
  | .mts g b64 a idx => Sys2Proof.Machine.execMts g b64 a idx s
  | .pwstatReopen g a => Sys2Proof.Machine.execPwstatReopen g a s
  | .elhdWrite g a => Sys2Proof.Machine.execElhdWrite g a s
  | .tlbiRange g va n => Sys2Proof.Machine.execTlbiRange g va n s
  | .tlbiAll g => Sys2Proof.Machine.execTlbiAll g s
  | .ctxsv g d h => Sys2Proof.Machine.execCtxsv g d h s
  | .ctxld g d h => Sys2Proof.Machine.execCtxld g d h s
  | .intr g d v => Sys2Proof.Machine.execIntr g d v s
  | .halt g d h => Sys2Proof.Machine.execHalt g d h s
  | .prio g d h p => Sys2Proof.Machine.execPrio g d h p s
  | .chset g entry d h img => Sys2Proof.Machine.execChset g entry d h img s
  | .timeNow g d => Sys2Proof.Machine.execTimeNow g d s
  | .timeSkew g d => Sys2Proof.Machine.execTimeSkew g d s
  | .cycClk g d => Sys2Proof.Machine.execCycClk g d s
  | .cycFreq g d => Sys2Proof.Machine.execCycFreq g d s
  | .cycSteps g d => Sys2Proof.Machine.execCycSteps g d s
  | .tsnd g d grp src dst t len pol => Sys2Proof.Machine.execTsnd g d grp src dst t len pol s
  | .slotw g ptr slot => Sys2Proof.Machine.execSlotw g ptr slot s
  | .linkcSt g d n => Sys2Proof.Machine.execLinkcSt g d n s
  | .linkcOn g t => Sys2Proof.Machine.execLinkcOn g t s
  | .linkcOff g => Sys2Proof.Machine.execLinkcOff g s
  | .linkcCst g d => Sys2Proof.Machine.execLinkcCst g d s
  | .cnq g d src => Sys2Proof.Machine.execCnq g d src s
  | .loadDataReturn => Sys2Proof.Machine.execLoadDataReturn s
  | .walkComplete => Sys2Proof.Machine.execWalkComplete s
  | .remoteWalkRequest => Sys2Proof.Machine.execRemoteWalkRequest s
  | .lineFillComplete => Sys2Proof.Machine.execLineFillComplete s
  | .tlbiRequest => Sys2Proof.Machine.execTlbiRequest s
  | .fabricTlbExpiry => Sys2Proof.Machine.execFabricTlbExpiry s
  | .scopeFilterTimedPublish => Sys2Proof.Machine.execScopeFilterTimedPublish s
  | .trd => Sys2Proof.Machine.execTrd s
  | .twr => Sys2Proof.Machine.execTwr s
  | .tdat => Sys2Proof.Machine.execTdat s
  | .ttok => Sys2Proof.Machine.execTtok s
  | .tret => Sys2Proof.Machine.execTret s
  | .lossReport => Sys2Proof.Machine.execLossReport s
  | .transientAttemptTimeout => Sys2Proof.Machine.execTransientAttemptTimeout s
  | .clampRaiseBound => Sys2Proof.Machine.execClampRaiseBound s
  | .clmp => Sys2Proof.Machine.execClmp s
  | .clmpRetry => Sys2Proof.Machine.execClmpRetry s
  | .clampBatchSelect => Sys2Proof.Machine.execClampBatchSelect s
  | .clact => Sys2Proof.Machine.execClact s
  | .clack => Sys2Proof.Machine.execClack s
  | .cldone => Sys2Proof.Machine.execCldone s
  | .cldea => Sys2Proof.Machine.execCldea s
  | .controlMessageResend => Sys2Proof.Machine.execControlMessageResend s
  | .clampStallTimeout => Sys2Proof.Machine.execClampStallTimeout s
  | .recastBoundRelease => Sys2Proof.Machine.execRecastBoundRelease s
  | .trec => Sys2Proof.Machine.execTrec s
  | .trca => Sys2Proof.Machine.execTrca s
  | .trecResend => Sys2Proof.Machine.execTrecResend s
  | .recastAnswerTimeout => Sys2Proof.Machine.execRecastAnswerTimeout s
  | .trdone => Sys2Proof.Machine.execTrdone s
  | .trdack => Sys2Proof.Machine.execTrdack s
  | .trdoneResend => Sys2Proof.Machine.execTrdoneResend s
  | .recastFenceExpiry => Sys2Proof.Machine.execRecastFenceExpiry s
  | .hostRead => Sys2Proof.Machine.execHostRead s
  | .hostReadForOwnership => Sys2Proof.Machine.execHostReadForOwnership s
  | .hostWriteback => Sys2Proof.Machine.execHostWriteback s
  | .birsp => Sys2Proof.Machine.execBirsp s
  | .hostSilentTimeout => Sys2Proof.Machine.execHostSilentTimeout s
  | .biasFlipComplete => Sys2Proof.Machine.execBiasFlipComplete s
  | .poolBackInvalidation => Sys2Proof.Machine.execPoolBackInvalidation s
  | .shelfFailure => Sys2Proof.Machine.execShelfFailure s
  | .poolCompletionTimeout => Sys2Proof.Machine.execPoolCompletionTimeout s
  | .cxlLinkDown => Sys2Proof.Machine.execCxlLinkDown s
  | .copyTransferStart => Sys2Proof.Machine.execCopyTransferStart s
  | .copyTransferRetire => Sys2Proof.Machine.execCopyTransferRetire s
  | .matrixInstructionStart => Sys2Proof.Machine.execMatrixInstructionStart s
  | .matrixRetire => Sys2Proof.Machine.execMatrixRetire s
  | .circleArrival => Sys2Proof.Machine.execCircleArrival s
  | .phaseEndNotice => Sys2Proof.Machine.execPhaseEndNotice s
  | .remoteStoreArrival => Sys2Proof.Machine.execRemoteStoreArrival s
  | .remoteStoreRetry => Sys2Proof.Machine.execRemoteStoreRetry s
  | .remoteStoreAck => Sys2Proof.Machine.execRemoteStoreAck s
  | .chgiveArrival => Sys2Proof.Machine.execChgiveArrival s
  | .remoteAnswer => Sys2Proof.Machine.execRemoteAnswer s
  | .collMatch => Sys2Proof.Machine.execCollMatch s
  | .collMatchTimeout => Sys2Proof.Machine.execCollMatchTimeout s
  | .collStepArrival => Sys2Proof.Machine.execCollStepArrival s
  | .permitReturn => Sys2Proof.Machine.execPermitReturn s
  | .collAbort => Sys2Proof.Machine.execCollAbort s
  | .tsndDue => Sys2Proof.Machine.execTsndDue s
  | .waitlnReread => Sys2Proof.Machine.execWaitlnReread s
  | .waitlnTimeout => Sys2Proof.Machine.execWaitlnTimeout s
  | .sleepExpiry => Sys2Proof.Machine.execSleepExpiry s
  | .pendingForcedSwap => Sys2Proof.Machine.execPendingForcedSwap s
  | .cohortDependenceMet => Sys2Proof.Machine.execCohortDependenceMet s
  | .teamDispatch => Sys2Proof.Machine.execTeamDispatch s
  | .teamStart => Sys2Proof.Machine.execTeamStart s
  | .stealRequest => Sys2Proof.Machine.execStealRequest s
  | .stealReply => Sys2Proof.Machine.execStealReply s
  | .overloadMigration => Sys2Proof.Machine.execOverloadMigration s
  | .teamInstall => Sys2Proof.Machine.execTeamInstall s
  | .preemptForPriority => Sys2Proof.Machine.execPreemptForPriority s
  | .timeSliceExpiry => Sys2Proof.Machine.execTimeSliceExpiry s
  | .fullSave => Sys2Proof.Machine.execFullSave s
  | .regionRestart => Sys2Proof.Machine.execRegionRestart s
  | .teamRestore => Sys2Proof.Machine.execTeamRestore s
  | .tmigFallback => Sys2Proof.Machine.execTmigFallback s
  | .fluxPassEntry => Sys2Proof.Machine.execFluxPassEntry s
  | .fluxPassEnd => Sys2Proof.Machine.execFluxPassEnd s
  | .flitRetryExhausted => Sys2Proof.Machine.execFlitRetryExhausted s
  | .linkRetrain => Sys2Proof.Machine.execLinkRetrain s
  | .congestionNotice => Sys2Proof.Machine.execCongestionNotice s
  | .rateRecovery => Sys2Proof.Machine.execRateRecovery s
  | .wavelengthWindowEnd => Sys2Proof.Machine.execWavelengthWindowEnd s
  | .wavelengthRetrained => Sys2Proof.Machine.execWavelengthRetrained s
  | .clockStep => Sys2Proof.Machine.execClockStep s
  | .relockEnd => Sys2Proof.Machine.execRelockEnd s
  | .circuitRotationStart => Sys2Proof.Machine.execCircuitRotationStart s
  | .circuitSlotBoundary => Sys2Proof.Machine.execCircuitSlotBoundary s
  | .circuitStop => Sys2Proof.Machine.execCircuitStop s
  | .powerThrottleStep => Sys2Proof.Machine.execPowerThrottleStep s
  | .uncorrectableSectorError => Sys2Proof.Machine.execUncorrectableSectorError s
  | .dieInternalError => Sys2Proof.Machine.execDieInternalError s
  | .coldStart => Sys2Proof.Machine.execColdStart s
  | .startControlCohort => Sys2Proof.Machine.execStartControlCohort s
  | .writeTenantRegister => Sys2Proof.Machine.execWriteTenantRegister s
  | .writeRoutingEntry => Sys2Proof.Machine.execWriteRoutingEntry s
  | .setDieClock => Sys2Proof.Machine.execSetDieClock s
  | .fabricGrant => Sys2Proof.Machine.execFabricGrant s
  | .setPlimit => Sys2Proof.Machine.execSetPlimit s
  | .assayReport => Sys2Proof.Machine.execAssayReport s
  | .warmStart => Sys2Proof.Machine.execWarmStart s
  | .writePerDieCounter => Sys2Proof.Machine.execWritePerDieCounter s
  | .fabricLinkUp => Sys2Proof.Machine.execFabricLinkUp s
  | .unreportedMessageLoss => Sys2Proof.Machine.execUnreportedMessageLoss s
  | .homeAccessRequest => Sys2Proof.Machine.execHomeAccessRequest s
  | .storePerformed => Sys2Proof.Machine.execStorePerformed s
  | .slotTableWrite => Sys2Proof.Machine.execSlotTableWrite s
  | .shelfLinkUp => Sys2Proof.Machine.execShelfLinkUp s

end Sys2Proof.Machine
end

