-- ==== Sys2Proof/Machine/Run.lean ====
section
/-!
DEFINITION. How a gang's next word runs: a paired word (R72), the slot that issues (R156–R158), the load that a pass waits for
(R375), the gang's place in the active set (R361, R362), and the gang that a partition issues from (R360).
-/
namespace Sys2Proof.Machine

/-- Both halves of a paired word: each under its own guard, both reading before either writes; lanes with pool poison leave
first, and the joint check is that of the lanes left (R72). -/
def execPair (a b : Instr) (s : State) : Out :=
  let r := pairPool a b s
  if !r.1 then .next r.2
  else
    match pairStop a b r.2 with
    | some s => .next s
    | none =>
      let X := r.2.pcOf s.curGang s.curSec
      match exec a (r.2.pairOpen s.curGang) with
      | .next s1 =>
        if s1.fluxOver s.curGang then .next s1
        else
          match exec b ((s1.pairShut s.curGang).pairPc s.curGang s.curSec X) with
          | .next s2 => .next (s2.pairPc s.curGang s.curSec (X + 16))
          | o => o
      | o => o

/-- Runs what a fetch gave. -/
def runFetched : Fetched → Out
  | .one i s => exec i s
  | .two a b s => execPair a b s
  | .no s => .next s

/-- The primary slot when the secondary could not issue: only a lane-local word (R156). -/
def issuePrimary (gid : Nat) (s : State) : Out := runFetched (({ s with curSec := false } : State).fetch gid false true)

/-- Whether the secondary slot could not issue: it waits where it was, by no wait that it has only begun. -/
def secHeld (before after : State) (gid : Nat) : Bool :=
  match before.gang? gid, after.gang? gid with
  | some a, some b => a.regs.sec = b.regs.sec && b.regs.sec.valid && b.wait2 ≠ .ready && !b.wait2.blocked && a.tr1 = b.tr1 &&
      !b.bar.isSome
  | _, _ => false

/-- A gang issues its next word from the slot that comes first (R156–R158). -/
def issueSlot (gid : Nat) (s : State) : Out :=
  if s.curSec then
    match runFetched (s.fetch gid true false) with
    | .next s' => if secHeld s s' gid && s'.priFree gid then issuePrimary gid s' else .next s'
    | o => o
  else runFetched (s.fetch gid false ((s.gang? gid).any (·.split)))

/-! ### The load that a pass waits for (R375, R383) -/

/-- A pass after the load just before its blocked word has issued: the word waits for what that load still owes; a load that trapped
or lost lanes to the other slot ends the pass. -/
def State.rejoin (s : State) (gid : Nat) (before : Gang) (f : Flux) : State :=
  match s.gang? gid with
  | none => s
  | some g =>
    let ids := ((g.owed.map (·.1)).filter fun id => !before.owed.any fun o => o.1 = id).eraseDups
    let calm : Bool := g.regs.pri.pc = f.block && g.regs.sec = before.regs.sec && g.tr0 = before.tr0 && g.tr1 = before.tr1
    let f := { f with held := [], waitOn := f.waitOn ++ ids, loads := f.loads ++ ids, ending := f.ending || !calm }
    let s := s.modGang gid fun g => { g with flux := some f }
    if calm then s else s.endFlux gid
/-- The load just before the blocked word of a pass is tried again: whether it issued, and what came of it. -/
def issueHeld (gid : Nat) (s : State) : Bool × Out :=
  match s.gang? gid with
  | none => (false, .next s)
  | some g =>
    match g.flux with
    | none => (false, .next s)
    | some f =>
      if f.held.isEmpty then (false, .next s)
      else
        let s := { s.setGang gid { g with flux := none } with curGang := gid, curSec := false }
        match runFetched (s.fetch gid false false) with
        | .next s' =>
          if s'.pcOf gid false = g.regs.pri.pc && (s'.gang? gid).any (·.wait ≠ .ready) then
            (false, .next (s'.modGang gid fun g => { g with flux := some f }))
          else (true, .next (s'.rejoin gid g f))
        | o => (true, o)
/-- A gang issues its next word, in its pass, at the load that its pass waits for, or from the slot that comes first. -/
def issueNext (gid : Nat) (s : State) : Out :=
  match issueHeld gid s with
  | (false, .next s) => issueSlot gid (s.readyIssue gid)
  | (_, o) => o

/-! ### What a gang's next word waits for (R360–R362) -/

/-- Whether an attempt of a gang issued nothing: it waits at the words where it was, by no wait that it has only begun. -/
def gangHeld (before after : State) (gid : Nat) : Bool :=
  match before.gang? gid, after.gang? gid with
  | some a, some b =>
    let began (x y : Wait) : Bool := y.blocked && !x.blocked && (match x with | .recheck _ => false | _ => true)
    ((a.flux.isSome && b.flux.isSome) || !b.anyReady) && !began a.wait b.wait && !(b.split && began a.wait2 b.wait2) &&
      a.regs.pri = b.regs.pri &&
      a.regs.sec = b.regs.sec && a.tr0 = b.tr0 && a.tr1 = b.tr1 && a.bar = b.bar && a.resident = b.resident &&
      a.flux.map (·.words) = b.flux.map (·.words)
  | _, _ => false
/-- What a gang waits for when its next word is tried now; `none` when a word issues. -/
def State.waitNow (s : State) (gid : Nat) (g : Gang) : Option Wait :=
  if g.bar.isSome || g.blocked then some (g.waitAt g.split)
  else match issueNext gid s with
    | .next s' => if gangHeld s s' gid then (s'.gang? gid).map fun g => g.waitAt g.split else none
    | _ => none
/-- Whether a waiting gang may be moved to the pending set (R361): for an empty source, a load that missed in the L2, a walk, a
queue slot, a scoreboard entry, or one of the instructions that R361 names; not one in a flux pass or about to enter it. -/
def State.canYield (s : State) (gid : Nat) (g : Gang) : Bool :=
  g.flux.isNone && (g.bar.isSome || match s.waitNow gid g with
    | some .source | some .queue | some .board | some .answer | some (.sleep _) | some (.watch ..) | some (.recheck _) => true
    | some .walk => (s.canFlux gid g).isNone
    | some .interlock => s.missWait gid g g.split && (s.canFlux gid g).isNone
    | some .ready | some .drain | some .channel | some .acks | none => false)
/-- The active gang of a list that is moved for an eligible one: of those that wait, the one longest without a move. -/
def State.giveWay (s : State) (gs : List (Nat × Gang)) : Option Nat :=
  ((gs.filter fun p => p.2.active && s.canYield p.1 p.2).foldl (fun (b : Option (Nat × Gang)) p => match b with
    | none => some p
    | some q => if p.2.movedAt < q.2.movedAt then some p else b) none).map (·.1)
/-- Whether a gang is active, or is the oldest eligible one and an active place is free or can be freed (R361, R362). -/
def State.placed (s : State) (gid : Nat) (g : Gang) : Bool :=
  g.active ||
  (match s.team? g.team with
   | none => false
   | some t =>
     let gs := s.partGangs t.die g.core g.part
     oldest gs = some gid && ((gs.filter fun p => p.2.active).length < 8 || (s.giveWay gs).isSome))
/-- An active gang goes to the pending set. -/
def State.toPending (s : State) (gid : Nat) : State := s.modGang gid fun g => { g with active := false, movedAt := s.time }
/-- A pending gang takes an active place, one that a waiting gang gives up when none is free (R361, R362). -/
def State.makeActive (s : State) (gid : Nat) : State :=
  match s.gang? gid with
  | none => s
  | some g =>
    if g.active then s
    else
      let gs := match s.team? g.team with
        | some t => s.partGangs t.die g.core g.part
        | none => []
      let s := if (gs.filter fun p => p.2.active).length < 8 then s
        else match s.giveWay gs with
          | some k => s.toPending k
          | none => s
      s.modGang gid fun g => { g with active := true, movedAt := s.time }
/-- After an issue: an active gang that waits is moved to the pending set when a gang of its partition is eligible (R361). -/
def State.moveOut (s : State) (gid : Nat) : State :=
  match s.gang? gid with
  | none => s
  | some g =>
    match s.team? g.team with
    | none => s
    | some t =>
      match oldest (s.partGangs t.die g.core g.part) with
      | none => s
      | some k =>
        if !g.active || !s.canYield gid g then s
        else (s.toPending gid).modGang k fun x => { x with active := true, movedAt := s.time }

/-- Whether the gang may issue now: resident, active or next to be, its die neither fenced nor in a re-lock (R419), and not
asleep, at a barrier or waiting for acknowledgements. -/
def State.mayIssue (s : State) (gid : Nat) : Bool :=
  match s.gang? gid with
  | none => false
  | some g =>
    match s.team? g.team with
    | none => false
    | some t => g.seated t (s.dieNow t.die) && s.placed gid g
/-- Whether a pending gang waits for something that its own word tests, so that its wait may be found to have ended (R362). -/
def State.mayPoll (s : State) (gid : Nat) : Bool :=
  match s.gang? gid with
  | none => false
  | some g =>
    match s.team? g.team with
    | none => false
    | some t => !g.active && !g.anyReady && g.seated t (s.dieNow t.die)

/-! ### The gang whose turn it is (R360) -/

/-- Whether an active gang's next word can issue (R360). -/
def State.canIssue (s : State) (gid : Nat) (g : Gang) : Bool :=
  match s.team? g.team with
  | none => false
  | some t => g.active && g.seated t (s.dieNow t.die) && (s.waitNow gid g).isNone
/-- Whether one gang comes before another when both can issue: it issued longer ago, or as long and has the lower slot (R360). -/
def Gang.first (a b : Gang) : Bool := a.issuedAt < b.issuedAt || (a.issuedAt = b.issuedAt && a.rslot < b.rslot)
/-- The active gangs of a partition that come before one of its gangs. -/
def State.ahead (s : State) (g : Gang) : List (Nat × Gang) :=
  match s.team? g.team with
  | none => []
  | some t => (s.partGangs t.die g.core g.part).filter fun p => p.2.active && p.2.first g
/-- The gang that issues when the agenda names `gid`: of those of its partition that can issue, the one longest without an issue, if
`gid` could issue itself, and otherwise `gid`, which then waits (R360). -/
def State.turnOf (s : State) (gid : Nat) : Nat :=
  match s.gang? gid with
  | none => gid
  | some g =>
    let gs := s.ahead g
    if gs.isEmpty || !s.canIssue gid g then gid
    else ((gs.filter fun p => s.canIssue p.1 p.2).foldl (fun (b : Nat × Gang) p => if p.2.first b.2 then p else b) (gid, g)).1
/-- A gang has issued, the latest of its partition. -/
def State.stamp (s : State) (gid : Nat) : State :=
  match s.gang? gid with
  | none => s
  | some g =>
    match s.team? g.team with
    | none => s
    | some t =>
      let n := (s.partGangs t.die g.core g.part).foldl (fun a p => max a p.2.issuedAt) 0
      s.setGang gid { g with issuedAt := n + 1 }
/-- After an attempt of a gang: where a word issued, the gang is the latest of its partition; where it waits, it may lose its place
(R360, R361). -/
def State.afterTurn (before after : State) (gid : Nat) : State :=
  (if gangHeld before after gid then after else after.stamp gid).moveOut gid

/-! ### Issue -/

/-- Whether a wait of a pending gang that its word has just tested is still the same, or another that the word has before it does
anything (R362). -/
def Wait.goesOn (before after : Wait) : Bool :=
  before = after || match before, after with
    | _, .interlock | _, .source | _, .board | _, .queue => true
    | .recheck _, .watch .. => true
    | _, _ => false
/-- What a look at the word of a pending gang finds: the state in which it still waits, or `none` when it waits no more (R362). -/
def stillWaits (gid : Nat) (s : State) : Option State :=
  match s.gang? gid, issueNext gid s with
  | some a, .next s' =>
    if gangHeld s s' gid && (s'.gang? gid).any fun b => a.wait.goesOn b.wait && (!a.split || a.wait2.goesOn b.wait2) then some s'
    else none
  | _, _ => none
/-- A pending gang's word is looked at: if it waits no more, the gang becomes eligible, and its word issues once it has an active
place (R13, R362). -/
def pollGang (gid : Nat) (s : State) : Out :=
  match stillWaits gid s with
  | some s => .next s
  | none => .next (s.modGang gid fun g => { g.mapWait fun w => if w.blocked then w else .ready with eligAt := s.time })

/-- A partition issues (R360): a gang that may issue takes its active place, the gang whose turn it is issues, and if it waits
then, it may lose the place (R361); a pending gang that waits is looked at. -/
def issueGang (gid : Nat) (s : State) : Out :=
  if !s.mayIssue gid then (if s.mayPoll gid then pollGang gid s else .next s)
  else
    let s := s.makeActive gid
    let k := s.turnOf gid
    match issueNext k s with
    | .next s' => .next (s.afterTurn s' k)
    | o => o

end Sys2Proof.Machine
end

