-- ==== Sys2Proof/Machine/Agenda.lean ====
section
/-!
DEFINITION. Which agent moves when the agenda names none: the machine's own progress (log 2), and the events that have a time of
their own.
-/
namespace Sys2Proof
namespace Machine

/-! ### The machine's own progress (log 2) -/

/-- A gang that may issue or be looked at, each in turn. -/
def State.runnable (s : State) : Option Nat :=
  let gs := s.gangList.filter fun p => s.mayIssue p.1 || s.mayPoll p.1
  gs[s.turn / 4 % gs.length]?.map (·.1)
/-- Events of the memory system and the token protocol that may be due. -/
def State.dueMemory (s : State) : List Ev :=
  (s.walks.map fun w => Ev.walkComplete w.id) ++
  s.misses.flatMap (fun m => [Ev.transientAttemptTimeout m.holder m.sector, Ev.clampRaiseBound m.holder m.sector,
    Ev.clmpRetry m.holder m.sector]) ++
  s.homes.flatMap (fun p => [Ev.clampBatchSelect p.1, Ev.clampStallTimeout p.1, Ev.recastBoundRelease p.1, Ev.trecResend p.1,
    Ev.recastAnswerTimeout p.1, Ev.trdoneResend p.1]) ++
  (s.fences.map fun p => Ev.recastFenceExpiry (p.1 % 512) (p.1 / 512)) ++
  s.hubs.flatMap (fun p => p.2.recalls.map fun r => Ev.hostSilentTimeout p.1 r.sector) ++
  s.devs.flatMap (fun p => p.2.flips.map fun f => Ev.biasFlipComplete p.1 f.page) ++
  (s.cores.map fun p => Ev.scopeFilterTimedPublish p.1) ++
  (s.accesses.map fun a => Ev.poolCompletionTimeout a.id)
/-- The steal requests of a die's idle cores: the lowest of them to each core with a queue (R364). -/
def State.steals (s : State) : List Ev :=
  s.cores.filterMap fun p =>
    if p.2.startQ.isEmpty then none
    else (((List.range 48).map (coreKey (p.1 / 48))).find? fun k => s.idleCore k && (s.core k).startQ.isEmpty).map fun k =>
      Ev.stealRequest k p.1
/-- Events of engines, gangs and teams that may be due. -/
def State.dueWork (s : State) : List Ev :=
  s.steals ++
  s.xfers.flatMap (fun x => [Ev.tsndDue x.id, Ev.copyTransferStart x.id, Ev.copyTransferRetire x.id]) ++
  s.mats.flatMap (fun m => [Ev.matrixInstructionStart m.core, Ev.matrixRetire m.core]) ++
  s.gangList.flatMap (fun p => [Ev.waitlnReread p.1, Ev.waitlnTimeout p.1, Ev.sleepExpiry p.1, Ev.fluxPassEntry p.1,
    Ev.fluxPassEnd p.1]) ++
  s.cohortList.flatMap (fun p => [Ev.cohortDependenceMet p.1, Ev.teamDispatch p.1]) ++
  s.teamList.flatMap (fun p => [Ev.teamStart p.1, Ev.preemptForPriority p.1, Ev.timeSliceExpiry p.1, Ev.fullSave p.1,
    Ev.regionRestart p.1, Ev.teamRestore p.1, Ev.tmigFallback p.1] ++
    (List.range 8).map (fun k => Ev.overloadMigration p.1 (p.2.die / 8 * 8 + k)) ++
    p.2.colls.map (fun q => Ev.collMatchTimeout p.1 q.1))
/-- Events of dies and devices that may be due. -/
def State.dueFabric (s : State) : List Ev :=
  s.dies.flatMap (fun p => [Ev.clockStep p.1, Ev.relockEnd p.1, Ev.fabricTlbExpiry p.1] ++
    p.2.rates.map (fun r => Ev.rateRecovery p.1 r.1)) ++
  s.devs.flatMap (fun p => [Ev.circuitRotationStart p.1, Ev.circuitSlotBoundary p.1, Ev.circuitStop p.1])
/-! ### Events with a time of their own -/

/-- The times at which the clocks, rate tables and fabric translations of dies change (R404, R417, R419). -/
def State.dieTimes (s : State) : List (Nat × Ev) :=
  s.dies.flatMap (fun p => (p.2.pendClk.map fun x => (x.1, Ev.clockStep p.1)).toList ++
    (p.2.relock.map fun t => (t, Ev.relockEnd p.1)).toList ++
    p.2.rates.filterMap (fun r => r.2.map fun x => (x.recAt + 2000, Ev.rateRecovery p.1 r.1)) ++
    (p.2.tlb.filter (·.fab)).map fun e => (e.at_ + 1000000, Ev.fabricTlbExpiry p.1)) ++
  s.cores.flatMap fun p => (p.2.ltlb.filter (·.fab)).map fun e => (e.at_ + 1000000, Ev.fabricTlbExpiry (p.1 / 48))
/-- The times at which links go down after 8 lost flits (R414), wavelengths have retrained (R421), queues send in circuit mode (R423),
and a hub lowers a clock for want of power (R440). -/
def State.linkTimes (s : State) : List (Nat × Ev) :=
  s.devs.flatMap fun p =>
    (p.2.links.flatMap fun l =>
      (if l.2.up && 8 ≤ l.2.lost then [(s.time, Ev.linkRetrain p.1 l.1)] else []) ++
        l.2.downAt.map fun w => (w.2 + 20000000, Ev.wavelengthRetrained p.1 (l.1 - 32) w.1)) ++
    ((p.2.circNext s.time).map fun t => (t, Ev.circuitSlotBoundary p.1)).toList ++
    (if p.2.plimit < p.2.pnow && (s.fastest p.1).any fun k => 650 ≤ (s.die k).target then
      [(if p.2.thrAt = 0 then s.time else p.2.thrAt - 1 + 1000000, Ev.powerThrottleStep p.1 p.2.pnow)] else [])
/-- The times at which WAITLNs that wait look again (R224). -/
def State.lookTimes (s : State) : List (Nat × Ev) :=
  (s.gangList.filter (·.2.resident)).flatMap fun p =>
    ((s.lookAt p.2 false).toList ++ (if p.2.split then (s.lookAt p.2 true).toList else [])).map fun x =>
      (x.1, if x.2 then Ev.waitlnTimeout p.1 else Ev.waitlnReread p.1)
/-- The times at which timed sends become due (R431). -/
def State.sendTimes (s : State) : List (Nat × Ev) :=
  s.xfers.filterMap fun q => match q.kind with
    | .tsnd due _ _ => if q.begun then none else some (due, Ev.tsndDue q.id)
    | _ => none
/-- The times at which circuit mode starts and stops (R424), at which a core must have published (R239), and at which an eligible
gang has waited long enough (R362), and at which a team that TMIG moves goes back (R366). -/
def State.otherTimes (s : State) : List (Nat × Ev) :=
  s.devs.flatMap (fun p => (if !p.2.run && p.2.startAt ≠ 0 then [(p.2.startAt, Ev.circuitRotationStart p.1)] else []) ++
    (if p.2.run then (p.2.stopAt.map fun x => (x.1, Ev.circuitStop p.1)).toList else [])) ++
  (s.cores.filterMap fun p => p.2.publishBy.map fun t => (t, Ev.scopeFilterTimedPublish p.1)) ++
  ((s.gangList.filterMap fun p => (s.gangCore p.1).map fun ck => (ck, p.2.part)).eraseDups.filterMap fun x =>
    (s.forcedSwap x.1 x.2).map fun w => (w.1, Ev.pendingForcedSwap x.1 x.2)) ++
  s.teamList.filterMap fun p => p.2.backAt.map fun t => (t, Ev.tmigFallback p.1)
/-- The first of the events that have a time of their own, but for those that a relock puts off. -/
def State.nextTimed (s : State) : Option (Nat × Ev) :=
  let timed := s.dieTimes ++ s.linkTimes ++ s.sendTimes ++ s.lookTimes ++ s.otherTimes
  (timed.filter fun p => !s.frozen p.2).foldl (fun (b : Option (Nat × Ev)) p => match b with
    | none => some p
    | some q => if p.1 < q.1 then some p else b) none
/-- A pending gang whose word waits no more but that has not been looked at since (R362). -/
def State.woken (s : State) : Option Nat :=
  (s.gangList.find? fun p => s.mayPoll p.1 && (stillWaits p.1 s).isNone).map (·.1)
/-- The passing of time to `t`: it does not go past an event that has a time of its own, and one whose time has come happens first
(log 86); so does the look at a pending gang whose wait has ended (R362). -/
def State.passTime (s : State) (t : Nat) : Happening :=
  match s.nextTimed, s.woken with
  | some (d, e), g => if d ≤ s.time then .event e else g.elim (.time (min t d)) .issue
  | none, g => g.elim (.time t) .issue

/-- The next happening when the agenda is empty, in turn: the oldest message in flight, the next gang that may issue or be
looked at, an event that may be due, and the passing of a tick. -/
def State.nextHappening (s : State) : Happening :=
  let tick : Happening := .time (s.time + 1)
  let due := s.dueMemory ++ s.dueWork ++ s.dueFabric
  match s.turn % 4 with
  | 0 => match s.net with
    | e :: _ => .event e
    | [] => tick
  | 1 => match s.runnable with
    | some g => .issue g
    | none => tick
  | 2 => match due[s.turn / 4 % due.length]? with
    | some e => .event e
    | none => tick
  | _ => tick

/-- The happening of this step and the state without it on the agenda. -/
def State.takeHappening (s : State) : Happening × State :=
  match s.agenda with
  | h :: rest => (h, { s with agenda := rest })
  | [] => (s.nextHappening, { s with turn := s.turn + 1 })

end Machine
end Sys2Proof
end

