-- ==== Sys2Proof/Machine/Step.lean ====
section
/-!
DEFINITION. One step of the machine: the next happening of the agenda, or the machine's own progress.
-/
namespace Sys2Proof.Machine

/-- Performs one happening; time passes no further than to the next event that has a time of its own. -/
def perform (h : Happening) (s : State) : Out :=
  match h with
  | .issue g => issueGang g s
  | .event e => exec e.instr (s.withEvent e)
  | .time t => match s.passTime t with
    | .event e => exec e.instr (s.withEvent e)
    | .time u => .next { s with time := max s.time u }
    | .issue g => issueGang g s

/-- One step: the head of the agenda, or the machine's own progress when it is empty. -/
def step (s : State) : Host.Outcome State Fault Refusal :=
  perform s.takeHappening.1 s.takeHappening.2

/-- The state with an instruction word stored where the next step fetches it (log 4). -/
def State.withFetchWord (s : State) (nbits w : Nat) : State := s.placeWord nbits w

end Sys2Proof.Machine
end

