-- ==== Sys2Proof/Safety.lean ====
section
/-!
DEFINITION. The terms that claims use: what counts as a safe state, when a word executes normally (R392), and what a
step leaves unchanged.
-/
namespace Sys2Proof

/-! ### Memory -/

namespace Machine

/-- The three memories are in canonical form: addresses strictly rising, no entry equal to 0 (log 1). -/
def State.memWf (s : State) : Bool := Store.wf 0 s.mem && Store.wf 0 s.hostMem && Store.wf 0 s.poolMem
/-- A step answers a next state. -/
def Runs (s : State) : Prop := ∃ t, step s = .next t
/-- A byte of device, host or pool memory, by its place. -/
inductive MemAt where
  | device (key : Nat)
  | host (key : Nat)
  | pool (key : Nat)
  deriving DecidableEq, Repr
/-- The byte that a state holds at a place of memory. -/
def State.byteAt (s : State) : MemAt → Byte
  | .device k => Store.get 0 s.mem k
  | .host k => Store.get 0 s.hostMem k
  | .pool k => Store.get 0 s.poolMem k
/-- Every byte of memory is the same in two states. -/
def SameMemory (s t : State) : Prop := ∀ a : MemAt, t.byteAt a = s.byteAt a

/-! ### Normal execution of a word -/

/-- The operation and context of the word that the current gang and slot issue, when no check of R392 holds it back: it is
well-formed, the gang is resident with a valid slot and waits at no barrier, no flux pass has it, the word is legal for its role
and budgets, its operands are full and owe nothing, no pool poison is pending, and its privilege, split and divergence checks
pass. -/
def checked (i : Instr) (s : State) : Option (Opn × Ctx) :=
  match s.gang? s.curGang with
  | none => none
  | some G =>
    match s.team? G.team with
    | none => none
    | some T =>
      match s.cohort? T.cohort, opnOf i with
      | some C, .ok o =>
        let c := mkCtx s.curGang G T C s.curSec (G.regs.slot s.curSec).pc o.e.form.bytes o
        if i.WellFormed && G.resident && (G.regs.slot s.curSec).valid && G.bar.isNone && G.flux.isNone &&
            (poolFaults o.reads G c.amask).isEmpty && checkWord [o] G C.lr = .ok && checkMode o c = .ok
        then some (o, c) else none
      | _, _ => none
/-- The context of a word that executes normally: it passes every check and its guard lets it take effect. -/
def normal (i : Instr) (s : State) : Option Ctx :=
  match checked i s with
  | some (o, c) => if o.runs c then some c else none
  | none => none
/-- The context of a word that passes every check while its uniform guard is false, or that is a gang instruction
without an active lane (R64, R160). -/
def guardedOff (i : Instr) (s : State) : Option Ctx :=
  match checked i s with
  | some (o, c) => if o.runs c then none else some c
  | none => none

/-- The gang's registers with the PC past the word. -/
def Ctx.past (c : Ctx) : Regs := c.G.regs.setPc c.sec c.next
/-- The state after a word that changes its gang's registers to `x` and nothing else. -/
def State.put (s : State) (c : Ctx) (x : Regs) : State := (s.advance c).modRegs c.gid fun _ => x

/-! ### Registers by reference -/

/-- What a register reads as in a lane; the lane matters for vector registers and lane predicates only. -/
def Regs.read (x : Regs) (r : RegRef) (l : Nat) : Nat :=
  match r with
  | .v n => (x.v n l).toNat
  | .k n => (x.k n).toNat
  | .p n => if (x.p n).getLsbD l then 1 else 0
  | .q n => if x.q n then 1 else 0
  | .m n => (x.m n).toNat
end Machine
/-- Whether a register is held per lane. -/
def RegRef.perLane : RegRef → Bool
  | .v _ | .p _ => true
  | _ => false
namespace Machine
/-- Registers after a register word: PC slots, counters and draw state are as before; every register outside `ds` reads as
before and keeps its full bit; and the per-lane ones of `ds` read as before outside the lanes of `m`. -/
def RegFrame (ds : List RegRef) (m : BitVec 32) (x y : Regs) : Prop :=
  y.pri = x.pri ∧ y.sec = x.sec ∧ y.depth = x.depth ∧ y.wins = x.wins ∧ y.curs = x.curs ∧
  (∀ r l, l < 32 → r ∉ ds → y.read r l = x.read r l ∧ y.isFull r = x.isFull r) ∧
  (∀ r l, l < 32 → r ∈ ds → r.perLane = true → m.getLsbD l = false → y.read r l = x.read r l)

end Machine

namespace Machine

/-- Registers after a structure instruction: lanes of the issuing slot take the counters `f`, the PC is `pc`, and nothing
else changes. -/
def Nested (c : Ctx) (f : Nat → Nat) (pc : DWord) (x : Regs) : Prop :=
  x = { c.G.regs.setPc c.sec pc with depth := x.depth } ∧
  ∀ l < 32, x.c l = if c.slotLanes.getLsbD l then f l else c.r.c l
/-- The trap record of the issuing slot. -/
def Ctx.record (c : Ctx) : TrapRec := if c.sec then c.G.tr1 else c.G.tr0
/-- The handler address of the issuing gang's tenant. -/
def Ctx.tvec (c : Ctx) (s : State) : DWord := (s.tenant (s.tenKey c.T)).tvec
/-- The gang that has taken a trap of its issuing slot (R394): the slot's record is filled and its PC is at the handler. -/
def Ctx.trapped (c : Ctx) (s : State) (code cause : Nat) (addr res : DWord) : Gang :=
  let r : TrapRec := ⟨true, BitVec.ofNat 8 code, BitVec.ofNat 8 cause, c.amask, c.X, addr, res⟩
  let g : Gang := { c.gangPast with regs := c.G.regs.setPc c.sec (c.tvec s &&& ~~~3) }
  if c.sec then { g with tr1 := r } else { g with tr0 := r }

/-- The issuing slot takes a trap rather than ending its team: its record is inactive and its tenant has a handler (R394, R396). -/
def Ctx.mayTrap (c : Ctx) (s : State) : Prop := c.record.active = false ∧ c.tvec s ≠ 0
/-- The state after a gang-wide trap at the word itself (R394). -/
def Ctx.atTrap (c : Ctx) (s : State) (code cause : Nat) (addr : DWord) : State :=
  (s.advance c).setGang c.gid (c.trapped s code cause addr c.X)
/-- The same fault in every executing lane (R153). -/
def Ctx.allFault (c : Ctx) (code cause : Nat) (addr : DWord) : List LaneFault :=
  (lanesOf c.emask).map fun l => ⟨l, code, cause, addr⟩

/-- Whether every page of a list is known for the word, so that it waits for no walk (R195). -/
def Ctx.knows (c : Ctx) (ps : List Page) (s : State) : Bool := ps.all fun p => (c.known s p.1 p.2.1).isSome

end Machine

/-- What a memory instruction asks of memory, from its operands (R187, R209, R220, R179). -/
def Instr.memReq (c : Machine.Ctx) : Instr → Option Machine.MemReq
  | .ld _ t d base off p => some (c.ldReq t d base off p)
  | .st _ t base off b => some (c.stReq t base off b)
  | .ldk _ t d base off => some (c.ldkReq t d base off)
  | .stk _ t base off b => some (c.stkReq t base off b)
  | .momld _ d base off => some (c.momldReq d base off)
  | .momst _ base m off => some (c.momstReq base m off)
  | .atom _ op t d base off b =>
    some (c.atomReq (.int op t) (Machine.intWords t) (.v d.toNat (Machine.intWords t)) base off
      (c.r.vN b.reg.toNat (Machine.intWords t)) fun _ => 0)
  | .acas _ b64 d base off b x =>
    let n := if b64 then 2 else 1
    some (c.atomReq .cas n (.v d.toNat n) base off (c.r.vN b.reg.toNat n) (c.r.vN x.reg.toNat n))
  | .afadd _ t d base off b =>
    some (c.atomReq (.fadd t) 1 (.v d.toNat 1) base off (c.r.vN b.reg.toNat 1) fun _ => 0)
  | .ared _ op base off b =>
    some (c.atomReq (Machine.aredOp op) op.words .none base off (c.r.vN b.reg.toNat op.words) fun _ => 0)
  | _ => none

/-- The plan of a copy instruction, its group, whether it ends the region, its transfer and whether the group is a remote
one (R282, R345); an RCPY whose pointers lie in spaces it may not name has none. -/
def Instr.copyPlan (c : Machine.Ctx) : Instr → Option (Machine.CopyPlan × Nat × Bool × (Nat → Machine.Xfer) × Bool)
  | .cpy _ f p tr rm sat grp src dst geo off pol =>
    let a := c.kaddr src (off.signExtend 64)
    let d := c.r.ks2 dst
    let g0 := c.r.k geo.reg.toNat
    let g1 := c.r.k (geo.reg.toNat + 1)
    some (Machine.cpyPlan f p tr a d g0 g1, grp.toNat, false, c.xfer (.cpy f p tr rm sat) a d g0 g1 0 0 pol, false)
  | .cpyg _ f rm sat grp src dst geo pol =>
    let n := src.reg.toNat
    let rp := c.r.k2 n
    let ci := c.r.k2 (n + 2)
    let vals := c.r.k2 (n + 4)
    let d := c.r.ks2 dst
    let g0 := c.r.k geo.reg.toNat
    let g1 := c.r.k (geo.reg.toNat + 1)
    some (Machine.cpygPlan c.C.scratchBytes f rp ci vals d g0, grp.toNat, false, c.xfer (.cpyg f rm sat) rp d g0 g1 ci vals pol,
      false)
  | .cpys _ f rm sat grp src dst geo off pol =>
    let a := c.r.ks2 src
    let d := c.kaddr dst (off.signExtend 64)
    let g0 := c.r.k geo.reg.toNat
    let g1 := c.r.k (geo.reg.toNat + 1)
    some (Machine.cpysPlan f a d g0 g1, grp.toNat, Machine.ptrSpace d ≠ 1, c.xfer (.cpys f rm sat) a d g0 g1 0 0 pol, false)
  | .rcpy _ grp src dst geo off pol =>
    let a := c.kaddr src (off.signExtend 64)
    let b := c.r.ks2 dst
    let g0 := c.r.k geo.reg.toNat
    let g1 := c.r.k (geo.reg.toNat + 1)
    if Machine.rcpySpace a && Machine.rcpySpace b then
      some (Machine.rcpyPlan a b g0 g1, grp.toNat, Machine.ptrSpace b ≠ 1, c.xfer .rcpy a b g0 g1 0 0 pol, true)
    else none
  | _ => none
/-- The plan of a matrix instruction and what its engine will do (R301, R305, R306). -/
def Instr.matPlan (c : Machine.Ctx) : Instr → Option (Machine.MatPlan × Machine.MatOp)
  | .mma _ p a pa pb sp =>
    some (Machine.mmaPlan p sp.isSome (c.r.ks2 pa) (c.r.ks2 pb) 0 0 1,
      .mma p a.toNat (c.r.ks2 pa) (c.r.ks2 pb) (c.sparsity sp) 1 0 0 1)
  | .mloop _ p a pa pb sp q1 incA incB cnt1 =>
    some (Machine.mmaPlan p sp.isSome (c.r.ks2 pa) (c.r.ks2 pb) incA incB (cnt1.toNat + 1),
      .mma p a.toNat (c.r.ks2 pa) (c.r.ks2 pb) (c.sparsity sp) (q1.toNat + 1) incA incB (cnt1.toNat + 1))
  | .acz _ a cnt1 => some (⟨[], [], [], []⟩, .acz a.toNat (cnt1.toNat + 1))
  | .acld _ a src off pitch =>
    let p := c.kaddr src (off.signExtend 64)
    let n := 127 * Machine.tilePitch pitch + 512
    some (⟨[p], [(p, 16)], [(p, n)], [Machine.spanOf [p] n false]⟩, .acld a.toNat p (Machine.tilePitch pitch))
  | .acdr _ a v mom norm z fresh nodata off pitch =>
    let p := c.kaddr v (off.signExtend 64)
    let n := 127 * Machine.tilePitch pitch + 512
    let m := mom.map c.r.ks2
    let ranges := (if nodata then [] else [(p, n)]) ++ (m.map fun x => (x, 2048)).toList
    some (⟨p :: m.toList, (p, 16) :: (m.map fun x => (x, 16)).toList, ranges,
        ranges.map fun r => Machine.spanOf [r.1] r.2 true⟩,
      .acdr a.toNat p m (norm.map c.r.ks) z fresh nodata (Machine.tilePitch pitch))
  | _ => none

/-- Message `e` is the event that happens, and taking it out of the network leaves `s1`. -/
def Arrives (e : Ev) (s s1 : Machine.State) : Prop := s.curEv = some e ∧ s.take e = some s1

/-- Whether the gang and slot that an instruction word issues from are there: a resident gang of a live team, and a slot that
is valid. -/
def State.issuing (s : Machine.State) : Bool :=
  match s.gang? s.curGang with
  | none => false
  | some G =>
    (match s.team? G.team with
     | some T => (s.cohort? T.cohort).isSome
     | none => false) && G.resident && (G.regs.slot s.curSec).valid
/-- A vector operand or result in a lane, as a number: a register, or under `.b64` the pair that it names (R122). -/
def Regs.num (x : Machine.Regs) (b64 : Bool) (d : RegNum) (l : Nat) : Nat :=
  if b64 then (x.v (d.toNat + 1) l).toNat * 2 ^ 32 + (x.v d.toNat l).toNat else (x.v d.toNat l).toNat
/-- A vector operand in a lane that the 96-bit form replaces: IMM32 is sign-extended under `.b64` (R122). -/
def Regs.numI (x : Machine.Regs) (b64 : Bool) (a : SrcI) (l : Nat) : Nat :=
  match a with
  | .reg s => Regs.num x b64 s.reg l
  | .imm w => if b64 then (w.signExtend 64).toNat else w.toNat
/-- A uniform operand or result, as a number: a register, or under `.b64` the pair that it names (R35). -/
def Regs.knum (x : Machine.Regs) (b64 : Bool) (d : RegNum) : Nat :=
  if b64 then (x.k (d.toNat + 1)).toNat * 2 ^ 32 + (x.k d.toNat).toNat else (x.k d.toNat).toNat
/-- A uniform operand that the 96-bit form replaces: IMM32 is sign-extended under `.b64` (R140). -/
def Regs.knumI (x : Machine.Regs) (b64 : Bool) (a : SrcI) : Nat :=
  match a with
  | .reg s => Regs.knum x b64 s.reg
  | .imm w => if b64 then (w.signExtend 64).toNat else w.toNat

/-! ### Destinations of the words that only read and write registers -/

/-- A vector register or pair. -/
def vDest (pair : Bool) (d : RegNum) : List RegRef := if pair then [.v d.toNat, .v (d.toNat + 1)] else [.v d.toNat]
/-- A uniform register or pair. -/
def kDest (pair : Bool) (d : RegNum) : List RegRef := if pair then [.k d.toNat, .k (d.toNat + 1)] else [.k d.toNat]

/-- The destination registers that the encoding tables give a word whose whole effect is to write registers (R124, R140,
R101, R163, R427, R429); `none` for every other instruction. -/
def Instr.regDests : Instr → Option (List RegRef)
  | .nop .. => some []
  | .kmov _ b d _ | .kli _ b d _ | .kadd _ b d .. | .ksub _ b d .. | .kmul _ b d .. | .kand _ b d .. | .kor _ b d ..
  | .kxor _ b d .. | .kshl _ b d .. | .kshr _ b d .. | .ksra _ b d .. | .kmin _ b _ d .. | .kmax _ b _ d ..
  | .ksel _ b d .. | .vtok _ b d _ => some (kDest b d)
  | .kcmp _ _ _ _ q .. => some [.q q.toNat]
  | .kbc _ b d _ => some (vDest b d)
  | .movs _ uni d v => some (if uni then kDest (Machine.wideSpecial v) d else vDest (Machine.wideSpecial v) d)
  | .iadd _ t _ d .. | .isub _ t _ d .. | .idiv _ t d .. | .irem _ t d .. | .imin _ t d .. | .imax _ t d ..
  | .iabs _ t _ d _ | .ineg _ t _ d _ => some (vDest t.is64 d)
  | .imul _ t k d .. => some (vDest (t.is64 || k = .wide) d)
  | .imad _ t w d .. => some (vDest (t.is64 || w) d)
  | .isad _ _ d .. | .tern _ d .. | .fshl _ d .. | .fshr _ d .. | .popc _ _ d _ | .clz _ _ d _ | .ctz _ _ d _
  | .bfx _ _ d .. | .bfi _ d .. | .bmsk _ d _ | .permb _ d .. | .padd _ _ _ _ d .. | .psub _ _ _ _ d .. | .pmul _ _ _ _ d ..
  | .pmin _ _ _ d .. | .pmax _ _ _ d .. | .pavg _ _ _ d .. | .pshl _ _ d .. | .pshr _ _ d .. | .psra _ _ d ..
  | .pcmp _ _ _ _ d .. => some (vDest false d)
  | .icmp _ _ _ p .. | .fcmp _ _ _ p .. => some [.p p.toNat]
  | .isel _ b d .. | .and _ b d .. | .or _ b d .. | .xor _ b d .. | .andn _ b d .. | .orn _ b d .. | .xnor _ b d ..
  | .not _ b d _ | .shl _ b d .. | .shr _ b d .. | .sra _ b d .. | .rot _ _ b d .. | .brev _ b d _ | .mov _ b d _ =>
    some (vDest b d)
  | .lea _ _ _ _ d .. => some (vDest true d)
  | .fadd _ _ d .. | .fsub _ _ d .. | .fmul _ _ d .. | .ffma _ _ d .. | .fdiv _ _ d .. | .fmin _ _ d .. | .fmax _ _ d ..
  | .fclass _ d _ | .frcp _ _ d _ | .frsq _ d _ | .fsqrt _ _ d _ | .fexp2 _ d _ | .flog2 _ d _ | .fsin _ d _ | .fcos _ d _
  | .ftanh _ d _ | .xadd2 _ _ _ d .. | .xmul2 _ _ _ d .. | .xfma2 _ _ _ d .. | .cvtif _ _ _ d _ | .cvtff _ _ _ _ d ..
  | .cvtffWide _ _ _ d _ | .cvtbk _ _ _ _ d _ | .cvtbkWide _ _ d _ | .fscale _ _ d .. | .fround _ _ d _ | .ffrac _ _ d _ =>
    some (vDest false d)
  | .cvtfi _ t _ d _ => some (vDest (t.width = 64) d)
  | .shfl _ _ _ d _ _ p => some [.v d.toNat, .p p.toNat]
  | .vote _ k uni _ d _ => some (match k, uni with
    | .ballot, false => [.v d.toNat]
    | .ballot, true => [.k d.toNat]
    | _, false => [.p (d.toNat % 8)]
    | _, true => [.q (d.toNat % 8)])
  | .lred _ _ uni d _ | .momq _ _ uni d _ => some (if uni then [.k d.toNat] else [.v d.toNat])
  | .lscan _ _ _ d _ | .momd _ _ d _ | .momn _ d .. => some [.v d.toNat]
  | .lmatch _ all _ d _ => some (if all then [.p (d.toNat % 8)] else [.v d.toNat])
  | .momz _ d | .momu _ d _ | .momw _ d .. | .momm _ d .. => some [.m d.toNat]
  | .timeNow _ d | .cycClk _ d => some (kDest true d)
  | .cycFreq _ d | .cycSteps _ d | .linkcSt _ d _ | .linkcCst _ d => some (kDest false d)
  | _ => none

end Sys2Proof
end

