-- ==== Sys2Proof/Certificates/Slice0/Obligations.lean ====
section
/-!
DEFINITION. The statements for the provers.
-/
open Sys2Proof Sys2Proof.Machine

/-! ### Words that only write registers -/

/-- Every word whose whole effect is to write registers completes when it executes normally, in a state that differs in its
gang's registers alone; registers that are not its destinations, lanes outside the executing ones and all of memory are as
before (R30–R37, R41, R44). -/
def Obligations.RegisterWords : Prop :=
  ∀ (i : Instr) (s : State) (c : Ctx) (ds : List RegRef), i.regDests = some ds → normal i s = some c →
    ∃ x, exec i s = .next (s.put c x) ∧ RegFrame ds c.emask c.past x ∧ SameMemory s (s.put c x)

/-- A word that passes every check while its uniform guard is false, or a gang instruction without an active lane, only
moves the PC past itself (R64, R160). -/
def Obligations.GuardedOffWords : Prop :=
  ∀ (i : Instr) (s : State) (c : Ctx), guardedOff i s = some c → exec i s = .next (s.put c c.past)

/-- DRAWC sets the window and cursor of each executing lane and nothing else (R135). -/
def Obligations.DrawcSetsWindow : Prop :=
  ∀ (s : State) (c : Ctx) (g : Guard) (a : Src) (b : SrcI), normal (.drawc g a b) s = some c →
    ∃ x, exec (.drawc g a b) s = .next (s.put c x) ∧ x = { c.past with wins := x.wins, curs := x.curs } ∧
      ∀ l < 32,
        Store.get 0 x.wins l = (if c.emask.getLsbD l then c.r.src2 a l else Store.get 0 c.r.wins l) ∧
        Store.get 0 x.curs l = (if c.emask.getLsbD l then (c.r.srcI b l).toNat % 32 else Store.get 0 c.r.curs l)

/-- DRAW completes in the executing lanes whose width is at most 32: each one's value, window and cursor are those of one read
of its stream, a width of 0 gives 0 and moves nothing, and other lanes and registers are as before. The lanes of a larger width take
the draw-width trap and change nothing; when they are all that the slot holds, nothing else happens (R136, R137). -/
def Obligations.DrawReadsStream : Prop :=
  ∀ (s : State) (c : Ctx) (g : Guard) (d : RegNum) (a : Src) (w : SrcI), normal (.draw g d a w) s = some c →
    let n (l : Nat) : Nat := (c.r.srcI w l).toNat
    let ok := c.emask &&& maskOf fun l => n l ≤ 32
    let r := c.laneTrap (((lanesOf c.emask).filter fun l => 32 < n l).map fun l => ⟨l, 0x14, 0, 0⟩) (s.advance c)
    (ok = c.emask → r = (true, s.advance c)) ∧
    (r.1 = false → exec (.draw g d a w) s = .next r.2) ∧
    (r.1 = true → ∀ G, r.2.gang? c.gid = some G → ∃ x, exec (.draw g d a w) s = .next (r.2.modRegs c.gid fun _ => x) ∧
      RegFrame [.v d.toNat] ok G.regs { x with wins := c.r.wins, curs := c.r.curs } ∧
      ∀ l < 32,
        let o := drawStep (Store.get 0 c.r.wins l) (Store.get 0 c.r.curs l) (n l) (c.r.src2 a l)
        (ok.getLsbD l → d.toNat < 255 → x.v d.toNat l = if n l = 0 then 0 else o.1) ∧
        Store.get 0 x.wins l = (if ok.getLsbD l ∧ n l ≠ 0 then o.2.1 else Store.get 0 c.r.wins l) ∧
        Store.get 0 x.curs l = (if ok.getLsbD l ∧ n l ≠ 0 then o.2.2 else Store.get 0 c.r.curs l))

/-! ### Control flow -/

/-- The counters and the PC after each structure instruction, as R146's table gives them, IF and LOOP below the depth
limit; every other register is as before. -/
def Obligations.StructureCounters : Prop :=
  ∀ (s : State) (c : Ctx),
    let k : Nat → Nat := c.r.c
    let any0 (f : Nat → Nat) : Prop := ∃ l < 32, c.slotLanes.getLsbD l ∧ f l = 0
    (∀ inv p off, normal (.ifThen inv p off) s = some c →
      let f (l : Nat) : Nat := if 0 < k l then k l + 1 else if (c.r.p p.toNat).getLsbD l != inv then 0 else 1
      (∀ l < 32, c.slotLanes.getLsbD l → f l ≤ 63) →
      ∃ x pc, exec (.ifThen inv p off) s = .next (s.put c x) ∧ Nested c f pc x ∧
        (any0 f → pc = c.next) ∧ (¬ any0 f → pc = c.X + off.signExtend 64)) ∧
    (∀ off, normal (.elseDo off) s = some c →
      let f (l : Nat) : Nat := if k l = 0 then 1 else if k l = 1 then 0 else k l
      ∃ x pc, exec (.elseDo off) s = .next (s.put c x) ∧ Nested c f pc x ∧
        (any0 f → pc = c.next) ∧ (¬ any0 f → pc = c.X + off.signExtend 64)) ∧
    (normal .endIf s = some c →
      ∃ x, exec .endIf s = .next (s.put c x) ∧ Nested c (fun l => k l - 1) c.next x) ∧
    (∀ off, normal (.loop off) s = some c →
      let f (l : Nat) : Nat := if 0 < k l then k l + 2 else 0
      (∀ l < 32, c.slotLanes.getLsbD l → f l ≤ 63) →
      ∃ x pc, exec (.loop off) s = .next (s.put c x) ∧ Nested c f pc x ∧
        (any0 f → pc = c.next) ∧ (¬ any0 f → pc = c.X + off.signExtend 64)) ∧
    (∀ g d, normal (.brk g d) s = some c →
      ∃ x, exec (.brk g d) s = .next (s.put c x) ∧
        Nested c (fun l => if c.emask.getLsbD l then d.toNat + 2 else k l) c.next x) ∧
    (∀ g d, normal (.cont g d) s = some c →
      ∃ x, exec (.cont g d) s = .next (s.put c x) ∧
        Nested c (fun l => if c.emask.getLsbD l then d.toNat + 1 else k l) c.next x) ∧
    (∀ off, normal (.endLoop off) s = some c →
      let f (l : Nat) : Nat := if k l = 1 then 0 else k l
      let f' (l : Nat) : Nat := if f l = 2 then 0 else if 3 ≤ f l then f l - 2 else f l
      ∃ x, exec (.endLoop off) s = .next (s.put c x) ∧
        (any0 f → Nested c f (c.X + off.signExtend 64) x) ∧ (¬ any0 f → Nested c f' c.next x))

/-- IF and LOOP that would set a counter of their slot above 63 raise the nesting-depth trap: with the slot's record
inactive and a handler set, the record and the PC are those of R394 and no counter changes (R147). -/
def Obligations.NestingDepthTrap : Prop :=
  ∀ (s : State) (c : Ctx) (l : Nat), l < 32 → c.slotLanes.getLsbD l = true → c.record.active = false → c.tvec s ≠ 0 →
    (∀ inv p off, normal (.ifThen inv p off) s = some c → c.r.c l = 63 →
      exec (.ifThen inv p off) s = .next ((s.advance c).setGang c.gid (c.trapped s 0x0A 0 0 c.X))) ∧
    (∀ off, normal (.loop off) s = some c → 62 ≤ c.r.c l →
      exec (.loop off) s = .next ((s.advance c).setGang c.gid (c.trapped s 0x0A 0 0 c.X)))

/-- BRA sets the issuing slot's PC to X + IMM32 and BRX to its uniform pair, and neither changes anything else; a BRX
whose target fails the code-address check raises the branch-target trap, with ADDR 0, which is the model's choice (R150; log 63). -/
def Obligations.UniformBranches : Prop :=
  ∀ (s : State) (c : Ctx),
    (∀ g off, normal (.bra g off) s = some c →
      exec (.bra g off) s = .next (s.put c (c.G.regs.setPc c.sec (c.X + off.signExtend 64)))) ∧
    (∀ g t, normal (.brx g t) s = some c →
      (codeOk (c.r.ks2 t) = true → exec (.brx g t) s = .next (s.put c (c.G.regs.setPc c.sec (c.r.ks2 t)))) ∧
      (codeOk (c.r.ks2 t) = false → c.record.active = false → c.tvec s ≠ 0 →
        exec (.brx g t) s = .next ((s.advance c).setGang c.gid (c.trapped s 0x0C 0 0 c.X))))

/-- CALL and CALLX check the target of every executing lane. Lanes that share one target that passes R152 enter it: the link
pair takes the address after the word, the PC the target, and the counters those of R154; with several targets the lanes of the
first enter and the others park, or the word traps where a call group is parked already; lanes whose targets fail take the trap,
and the others go on. RET of part of the active lanes, or from inside IF levels, parks its lanes, RET of all of them returns to
the link, or dispatches the group parked at the call it returns to, and traps where the link is no code address (R152–R155). -/
def Obligations.CallsAndReturns : Prop :=
  ∀ (s : State) (c : Ctx),
    (∀ i link (t : Nat → DWord) creg, (∃ g off, i = .call g link off ∧ t = (fun _ => c.rel off) ∧ creg = 0) ∨
        (∃ g a, i = .callx g link a ∧ t = (fun l => c.r.src2 a l) ∧ creg = a.reg) → normal i s = some c →
      (c.emask = 0 → exec i s = .next (s.put c c.past)) ∧
      ((∃ l < 32, c.slotLanes.getLsbD l ∧ ¬ c.amask.getLsbD l ∧ c.r.c l = 63) → c.emask ≠ 0 → c.record.active = false →
        c.tvec s ≠ 0 → exec i s = .next ((s.advance c).setGang c.gid (c.trapped s 0x0A 0 0 c.X))) ∧
      (c.emask ≠ 0 → (∀ l < 32, c.slotLanes.getLsbD l → ¬ c.amask.getLsbD l → c.r.c l ≠ 63) →
        (∀ p rest s1, c.targets t (lanesOf c.emask) (s.advance c) = .ok [] (p :: rest) s1 →
          ((∀ q ∈ rest, q.2 = p.2) → exec i s = .next (c.enter link c.emask p.2 s1)) ∧
          ((∃ q ∈ rest, q.2 ≠ p.2) →
            let mine := maskOf fun l => (p :: rest).any fun q => q.1 = l && q.2 = p.2
            let park := maskOf fun l => rest.any fun q => q.1 = l && q.2 ≠ p.2
            (c.r.sec.valid = false → exec i s = .next (c.enter link mine p.2 (c.mod s1 fun x =>
              { x with pri := { x.pri with lmask := x.pri.lmask &&& ~~~park }, sec := ⟨c.X, park, true, 2, creg⟩ }))) ∧
            (c.r.sec.valid = true → c.r.sec.kind = 2 → c.record.active = false → c.tvec s ≠ 0 →
              exec i s = .next (s1.setGang c.gid (c.trapped s 0x0B 0 0 c.X))) ∧
            (c.r.sec.valid = true → c.r.sec.kind ≠ 2 →
              exec i s = .next (s1.modRegs c.gid fun _ => c.G.regs.setPc c.sec c.X)))) ∧
        (∀ f fs good s1, c.targets t (lanesOf c.emask) (s.advance c) = .ok (f :: fs) good s1 →
          let one : Prop := ∀ p ∈ good, ∀ q ∈ good, p.2 = q.2
          let r := c.laneTrap (f :: fs) s1
          (r.1 = false → one ∨ c.r.sec.valid = false ∨ c.r.sec.kind ≠ 2 → exec i s = .next r.2) ∧
          (r.1 = true → good = [] →
            exec i s = .next (c.mod r.2 fun x => (x.setKFull link.toNat true).setKFull (link.toNat + 1) true)) ∧
          (∀ p ∈ good, r.1 = true → one →
            exec i s = .next (c.enter link (maskOf fun l => good.any fun q => q.1 = l) p.2 r.2)) ∧
          (r.1 = true → ¬ one → exec i s = .next (c.jump c.X r.2))))) ∧
    (∀ g link d, normal (.ret g link d) s = some c → (d ≠ 0 ∨ c.amask &&& ~~~c.emask ≠ 0) →
      exec (.ret g link d) s =
        .next (s.put c (c.past.mapC fun l => if c.emask.getLsbD l then d.toNat + 1 else c.r.c l))) ∧
    (∀ g link, normal (.ret g link 0) s = some c → c.amask &&& ~~~c.emask = 0 →
      let parked := c.r.sec.valid && c.r.sec.kind = 2 && c.r.sec.pc + 8 = c.r.ks2 link
      (codeOk (c.r.ks2 link) = true → parked = false →
        exec (.ret g link 0) s = .next (s.put c ((c.past.mapC fun l =>
          if c.slotLanes.getLsbD l then c.r.c l - 1 else c.r.c l).setPc c.sec (c.r.ks2 link)))) ∧
      (∀ grp t s1, codeOk (c.r.ks2 link) = true → parked = true → c.dispatch (s.advance c) = .go grp t s1 →
        exec (.ret g link 0) s = .next (c.mod s1 fun x =>
          takeGroup grp t (x.mapC fun l => if c.slotLanes.getLsbD l ∧ x.c l = 0 then 1 else x.c l))) ∧
      (codeOk (c.r.ks2 link) = false → c.record.active = false → c.tvec s ≠ 0 →
        exec (.ret g link 0) s = .next ((s.advance c).setGang c.gid (c.trapped s 0x0C 0 0 c.X))))

/-- EXIT without an executing lane only moves on; EXIT of some lanes takes them out of the slot; and EXIT of the last lanes,
once the gang's accesses are performed and its core has published (the model's reading, log 24), gives the slot to a fault split, or
to the parked call group, whose targets are read again (log 50), or retires (R158). -/
def Obligations.ExitLeaves : Prop :=
  ∀ (s : State) (c : Ctx) (g : Guard), normal (.exit g) s = some c →
    let left := c.slotLanes &&& ~~~c.emask
    let drop (s : State) : State := s.modRegs c.gid fun x => x.setSlot c.sec { x.slot c.sec with lmask := left }
    (c.emask = 0 → exec (.exit g) s = .next (s.put c c.past)) ∧
    (c.emask ≠ 0 → left ≠ 0 → exec (.exit g) s = .next (drop (s.advance c))) ∧
    ∀ s1, c.emask ≠ 0 → left = 0 → (∀ a ∈ s.accesses, a.gang ≠ c.gid) → (s.advance c).publishCore c.core = (true, s1) →
      (c.sec = true → exec (.exit g) s = .next ((s1.modRegs c.gid fun x => { x with sec := {} }).afterRetire c.gid)) ∧
      (c.sec = false → c.r.sec.valid = false →
        exec (.exit g) s = .next (((drop s1).modRegs c.gid fun x =>
          { x with pri := { x.pri with valid := false } }).afterRetire c.gid)) ∧
      (c.sec = false → c.r.sec.valid = true → c.r.sec.kind ≠ 2 →
        exec (.exit g) s = .next ((drop s1).modGang c.gid promoteSec)) ∧
      ∀ grp t s2, c.sec = false → c.r.sec.valid = true → c.r.sec.kind = 2 → c.dispatch s1 = .go grp t s2 →
        exec (.exit g) s = .next ((drop s2).modRegs c.gid (takeGroup grp t))

/-- TRAP takes the software trap with code FUNC in its executing lanes, BPT the breakpoint trap when a lane executes it, and
neither has an effect without one; NOP has no effect (R159). The record and the handler entry of a BPT are those of R394. -/
def Obligations.TrapWords : Prop :=
  ∀ (s : State) (c : Ctx),
    (∀ g form, normal (.nop g form) s = some c → exec (.nop g form) s = .next (s.put c c.past)) ∧
    (∀ g code, normal (.trap g code) s = some c →
      exec (.trap g code) s =
        .next (c.laneTrapTo ((lanesOf c.emask).map fun l => ⟨l, 0x30, code.toNat, 0⟩) c.next (s.advance c)).2 ∧
      (c.emask = 0 → exec (.trap g code) s = .next (s.put c c.past))) ∧
    (∀ g, normal (.bpt g) s = some c →
      (c.emask = 0 → exec (.bpt g) s = .next (s.put c c.past)) ∧
      (c.emask ≠ 0 → c.record.active = false → c.tvec s ≠ 0 →
        exec (.bpt g) s = .next ((s.advance c).setGang c.gid (c.trapped s 0x32 0 0 c.next))))

/-- A lane trap that leaves another lane in the primary slot splits off: its lanes go to the secondary slot, which takes the
trap with their mask, and the others go on in the primary slot; one that leaves none, or meets a secondary slot in use, is taken by
the whole slot. So it is of TRAP, and of every per-lane trap, whichever word raises it (R153, R394). -/
def Obligations.LaneTrapSplits : Prop :=
  (∀ (s : State) (c : Ctx) (g : Guard) (code : BitVec 7), normal (.trap g code) s = some c → c.emask ≠ 0 →
    c.sec = false → c.G.regs.sec.valid = false → c.G.regs.pri.lmask &&& ~~~c.emask ≠ 0 → c.G.tr1.active = false →
    c.tvec s ≠ 0 →
    ∃ t G, exec (.trap g code) s = .next t ∧ t.gang? c.gid = some G ∧
      G.tr1 = ⟨true, 0x30, code.setWidth 8, c.emask, c.X, 0, c.next⟩ ∧ G.tr0 = c.G.tr0 ∧
      G.regs = { c.past with
        pri := { c.past.pri with lmask := c.G.regs.pri.lmask &&& ~~~c.emask },
        sec := ⟨c.tvec s &&& ~~~3, c.emask, true, 1, 0⟩ } ∧
      SameMemory s t) ∧
  ∀ (s : State) (c : Ctx) (f : LaneFault) (fs : List LaneFault) (G : Gang) (T : Team), s.gang? c.gid = some G →
    s.team? G.team = some T →
    let mask := maskOf fun l => (f :: fs).any (·.lane = l)
    let handler := (s.tenant (s.tenKey T)).tvec
    let r : TrapRec := ⟨true, BitVec.ofNat 8 f.code, BitVec.ofNat 8 f.cause, mask, c.X, f.addr, c.X⟩
    let left := G.regs.pri.lmask &&& ~~~mask
    handler ≠ 0 →
    (c.sec = false → G.regs.sec.valid = false → left ≠ 0 → G.tr1.active = false →
      c.laneTrap (f :: fs) s = (true, s.setGang c.gid { G with
        tr1 := r, wait2 := .ready,
        regs := { G.regs with
          pri := { G.regs.pri with lmask := left }, sec := ⟨handler &&& ~~~3, mask, true, 1, 0⟩ } })) ∧
    (c.sec = true ∨ G.regs.sec.valid = true ∨ left = 0 → (if c.sec then G.tr1 else G.tr0).active = false →
      let x := G.regs.setPc c.sec (handler &&& ~~~3)
      c.laneTrap (f :: fs) s = (false, s.setGang c.gid (if c.sec then { G with tr1 := r, wait2 := .ready, regs := x }
        else { G with tr0 := r, wait := .ready, regs := x })))

/-- SYSC takes the system-call trap with code FUNC and RTE returns from an active record to its resume address: the record,
the PC and the other registers after each are those of R394 and R395, and memory is as before (R394, R395, R407). -/
def Obligations.SystemCallAndReturn : Prop :=
  ∀ (s : State) (c : Ctx),
    (∀ g code, normal (.sysc g code) s = some c → c.record.active = false → c.tvec s ≠ 0 →
      ∃ t G, exec (.sysc g code) s = .next t ∧ t.gang? c.gid = some G ∧
        (if c.sec then G.tr1 else G.tr0) = ⟨true, 0x31, code.setWidth 8, c.amask, c.X, 0, c.next⟩ ∧
        (if c.sec then G.tr0 else G.tr1) = (if c.sec then c.G.tr0 else c.G.tr1) ∧
        G.regs = c.G.regs.setPc c.sec (c.tvec s &&& ~~~3) ∧ SameMemory s t) ∧
    (∀ g, normal (.rte g) s = some c → c.record.active = true → codeOk c.record.res = true →
      ∃ t G, exec (.rte g) s = .next t ∧ t.gang? c.gid = some G ∧
        (if c.sec then G.tr1 else G.tr0) = { c.record with active := false } ∧
        (if c.sec then G.tr0 else G.tr1) = (if c.sec then c.G.tr0 else c.G.tr1) ∧
        G.regs = c.G.regs.setPc c.sec c.record.res ∧ SameMemory s t)

/-! ### Memory -/

/-- A load, store or atomic whose pages are known, that waits for nothing and whose uncached lanes need not wait, completes: the
lanes that fail their checks take their trap, and the accesses of the others are performed or launched; without an executing lane it
only sets its destinations full (R153, R187, R189, R209, R220). -/
def Obligations.AccessWords : Prop :=
  ∀ (i : Instr) (s : State) (c : Ctx) (q0 : MemReq), normal i s = some c → i.memReq c = some q0 →
    let q := c.armed q0
    let s1 := s.advance c
    let cs := c.checks q s1
    let r := c.publishFor q s1
    let f := c.faultReq q (faultsOf cs) r.2
    let s2 := c.seenAll (c.reqPages q) f.2
    let pl := c.placeAll q cs s2
    (q.lanes = [] → exec i s = .next (c.fillEmpty q s1)) ∧
    (q.lanes ≠ [] → c.knows (c.reqPages q) s1 = true → c.memWait q (locsOf cs) s1 = none → r.1 = true →
      (faultsOf cs = [] → f = (true, r.2)) ∧
      (∀ x xs, faultsOf cs = x :: xs →
        f = if q.uni = true then (false, (c.laneTrap (c.allFault x.code x.cause x.addr) r.2).2) else c.laneTrap (x :: xs) r.2) ∧
      (f.1 = false → exec i s = .next s2) ∧
      (f.1 = true → pl.2.1 = true → pl.1 ≠ [] ∨ zerosOf q cs ≠ [] →
        exec i s = .next (c.perform q pl.1 (zerosOf q cs) pl.2.2)) ∧
      (f.1 = true → pl.2.1 = true → pl.1 = [] → zerosOf q cs = [] → exec i s = .next (c.fillEmpty q s2)))

/-- ST to the scratchpad, each lane at its own address `a l`, completes: the bytes that the executing lanes store, in lane order,
are all that changes beside the PC, the model's next identifier, a release that a FENCE left open and, for a release, what its
core publishes (R24, R184, R187). That every release publishes (log 73) and that a FENCE leaves a release open for the next strong
store (log 74) is the model's choice. -/
def Obligations.ScratchStore : Prop :=
  ∀ (s s1 : State) (c : Ctx) (g : Guard) (t : MemT) (base : Base) (off : MOff) (b : Src),
    normal (.st g t base off b) s = some c → c.emask ≠ 0 →
    let q := c.armed (c.stReq t base off b)
    let p (l : Nat) : DWord := c.r.addr base off.off l
    (∀ l < 32, c.emask.getLsbD l → ptrSpace (p l) = 1 ∧ c.preCheck (p l) t.bytes l = none) →
    c.memWait q ((lanesOf c.emask).map fun l => .scr (ptrAddr (p l))) (s.advance c) = none →
    c.publishFor q (s.advance c) = (true, s1) →
    let m := (lanesOf c.emask).foldl (fun m l =>
      writeBytes m (ptrAddr (p l)) (toBytes t.bytes (c.r.vN b.reg.toNat t.words l))) c.T.scratch
    let u := if off.ord = .weak then s1 else s1.modGang c.gid fun g => { g with relArm := none }
    exec (.st g t base off b) s = .next (({ u with nextId := s1.nextId + 1 } : State).setTeam c.tid { c.T with scratch := m })

/-- LD from the scratchpad completes: each executing lane's destination registers take the bytes at its address, lowest first,
extended as the type says; nothing else changes but the PC, the probe predicate, the model's next identifier and, for a strong
load, the L1's clean lines (R184, R187, R189). That every strong load acts so, whatever its scope and not only one marked `.acq`, is
the model's choice (log 74). -/
def Obligations.ScratchLoad : Prop :=
  ∀ (s : State) (c : Ctx) (g : Guard) (t : MemT) (d : RegNum) (base : Base) (off : MOff) (probe : Option PredNum),
    normal (.ld g t d base off probe) s = some c → c.emask ≠ 0 →
    let q := c.ldReq t d base off probe
    let p (l : Nat) : DWord := c.r.addr base off.off l
    (∀ l < 32, c.emask.getLsbD l → ptrSpace (p l) = 1 ∧ c.preCheck (p l) t.bytes l = none) →
    c.memWait q ((lanesOf c.emask).map fun l => .scr (ptrAddr (p l))) (s.advance c) = none →
    let val (l : Nat) : Nat := (AccOp.load t.sext).result t.bytes (ofBytes (readBytes c.T.scratch (ptrAddr (p l)) t.bytes))
    ∃ x, exec (.ld g t d base off probe) s =
        .next (if off.ord ≠ .weak then ({ s.put c x with nextId := s.nextId + 1 } : State).dropCleanAll c.core
          else { s.put c x with nextId := s.nextId + 1 }) ∧
      RegFrame ((List.range t.words).map (fun j => .v (d.toNat + j)) ++ (probe.map fun k => .p k.toNat).toList) c.emask
        c.past x ∧
      ∀ l < 32, c.emask.getLsbD l →
        (∀ j < t.words, d.toNat + j < 255 → x.v (d.toNat + j) l = BitVec.ofNat 32 (val l / 2 ^ (32 * j))) ∧
        ∀ k, probe = some k → (x.p k.toNat).getLsbD l = true

/-- PFT and the four CCTL words complete. PFT, once its pages are known, only starts line fills (R210). CCTL has no effect in
the spaces it skips and without an executing lane; on a good pointer whose pages are known `.iinv` drops the instruction-cache
blocks of the range from every core of the die and nothing else, `.l2evict` evicts the lines of the range that the die holds
unpinned, and `.l1wb` and `.l1inv` write the L1's sectors of the range back once their tokens are there; a bad pointer is the
trap of every executing lane (R212). That they take the private memory of the lowest executing lane for a pointer of space 0x2
is the model's choice (log 64). -/
def Obligations.PrefetchAndCacheControl : Prop :=
  (∀ (s : State) (c : Ctx) (g : Guard) (l1 : Bool) (base : Base) (off : MOff), normal (.pft g l1 base off) s = some c →
      let ls := c.pftLanes base off c.emask
      let ps := c.lanePages (c.r.addr base off.off) ls
      c.knows ps (s.advance c) = true →
      exec (.pft g l1 base off) s = .next (c.seenAll ps (c.prefetch l1 base off ls (s.advance c)))) ∧
  (∀ (s : State) (c : Ctx) (g : Guard) (base len : Src) (off : Option Word),
      let p := c.kaddr base (offOf off)
      let n := (c.r.ks len).toNat
      let s1 := s.advance c
      let good (l : Nat) : Prop := lowLane c.emask = some l ∧ ptrSpace p ≠ 1 ∧ ptrSpace p ≠ 6 ∧
        ptrCause p c.C.scratchBytes c.C.lr.privsz = none ∧ c.knows (c.rangePages p l n) s1 = true
      let idle : Prop := c.emask = 0 ∨ ptrSpace p = 1 ∨ ptrSpace p = 6
      (normal (.cctlIinv g base len off) s = some c →
        (idle → exec (.cctlIinv g base len off) s = .next s1) ∧
        ∀ l, good l → ptrSpace p ≠ 2 → ∃ t, exec (.cctlIinv g base len off) s = .next (c.seenAll (c.rangePages p l n) t) ∧
          (∀ k, t.core k = if k / 48 = c.die then
            { s1.core k with icache := (s1.core k).icache.filter fun e => !c.codeHit p n s1 e.1 } else s1.core k) ∧
          t = { s1 with cores := t.cores }) ∧
      (normal (.cctlL2evict g base len off) s = some c →
        (idle → exec (.cctlL2evict g base len off) s = .next s1) ∧
        ∀ l, good l → ptrSpace p ≠ 2 → exec (.cctlL2evict g base len off) s = .next (c.seenAll (c.rangePages p l n)
          ((s1.linesHeld c.die (c.physParts s1 p l n)).foldl (fun s line => s.evictLine c.die line) s1))) ∧
      (normal (.cctlL1wb g base len off) s = some c →
        (idle → exec (.cctlL1wb g base len off) s = .next s1) ∧
        ∀ l, good l → let r := c.l1Back false (c.physParts s1 p l n) s1
          r.1 = true → exec (.cctlL1wb g base len off) s = .next (c.seenAll (c.rangePages p l n) r.2)) ∧
      (normal (.cctlL1inv g base len off) s = some c →
        (idle → exec (.cctlL1inv g base len off) s = .next s1) ∧
        ∀ l, good l → let r := c.l1Back true (c.physParts s1 p l n) s1
          r.1 = true → exec (.cctlL1inv g base len off) s = .next (c.seenAll (c.rangePages p l n) r.2)) ∧
      ∀ i k, c.emask ≠ 0 → ptrSpace p ≠ 1 → ptrSpace p ≠ 6 →
        (i = .cctlIinv g base len off ∨ i = .cctlL2evict g base len off) ∧
            (if ptrSpace p = 2 then k = 2 else ptrCause p c.C.scratchBytes c.C.lr.privsz = some k) ∨
          (i = .cctlL1wb g base len off ∨ i = .cctlL1inv g base len off) ∧
            ptrCause p c.C.scratchBytes c.C.lr.privsz = some k →
        normal i s = some c → exec i s = .next (c.laneTrap (c.allFault 0x10 k p) s1).2)

/-- PGREQ and XLAT whose lanes have good pointers and known pages complete. PGREQ writes its predicate in the executing lanes:
whether each page is in memory or its request stands or was accepted; a page that is not there is asked for after the gang's
release. XLAT writes its destination in the executing lanes and changes no other register. Bad pointers in all the lanes that
execute, with none left in the slot, are only the trap of those lanes (R200, R211). -/
def Obligations.TranslationWords : Prop :=
  ∀ (s : State) (c : Ctx),
    let s1 := s.advance c
    (∀ g p base off, normal (.pgreq g p base off) s = some c →
      let addr (l : Nat) : DWord := c.r.addr base (offOf off) l
      let ps := c.lanePages addr (lanesOf c.emask)
      c.badPtrs addr = [] → c.knows ps s1 = true →
      ((∀ q ∈ ps, c.pageGone s1 q = false) →
        exec (.pgreq g p base off) s = .next (c.seenAll ps (s.put c (c.past.setP p.toNat c.emask fun l =>
          match c.tables (addr l) l with
          | some t => (c.paOf s1 t.1 t.2.1).isSome
          | none => ptrSpace (addr l) = 1 || (match c.window s1 (addr l) l with | .at_ _ => true | _ => false))))) ∧
      (∀ s2, (∃ q ∈ ps, c.pageGone s1 q = true) → c.release s1 = (none, s2) →
        exec (.pgreq g p base off) s = .next (c.seenAll ps (c.mod (c.askPages ps s2).2 fun x =>
          x.setP p.toNat c.emask (c.pageOk s2 addr (c.askPages ps s2).1))))) ∧
    (∀ g pa d base off, normal (.xlat g pa d base off) s = some c →
      let addr (l : Nat) : DWord := c.r.addr base (offOf off) l
      let ps := c.lanePages addr (xlatLanes pa addr (lanesOf c.emask))
      c.badPtrs addr = [] → c.knows ps s1 = true →
      ∃ x, exec (.xlat g pa d base off) s = .next (c.seenAll ps (s.put c x)) ∧ RegFrame (vDest pa d) c.emask c.past x ∧
        (d.toNat + (if pa then 1 else 0) < 255 → ∀ l < 32, c.emask.getLsbD l →
          Regs.num x pa d l = c.xlat s1 pa (addr l) l % 2 ^ (if pa then 64 else 32))) ∧
    ∀ i base off, (∃ g p, i = .pgreq g p base off) ∨ (∃ g pa d, i = .xlat g pa d base off) → normal i s = some c →
      let fs := c.badPtrs (c.r.addr base (offOf off))
      c.left fs = [] → c.emask ≠ 0 → (c.laneTrap fs s1).1 = false → exec i s = .next (c.laneTrap fs s1).2

/-- PIN and UNPIN of a device-memory range whose pages are known complete: once every line's tokens are there, DST takes the
number of lines whose mark changed; without an executing lane nothing happens, and a bad pointer is the trap of every executing lane
(R204). That lines of a page in host bias are passed
over and not counted is the model's choice (log 65). -/
def Obligations.PinWords : Prop :=
  ∀ (s : State) (c : Ctx) (g : Guard) (d : RegNum) (base len : Src) (off : Option Word),
    let p := c.kaddr base (offOf off)
    let k := (c.r.ks len).toNat
    let s1 := s.advance c
    (c.emask = 0 →
      (normal (.pin g d base len off) s = some c → exec (.pin g d base len off) s = .next (s.put c c.past)) ∧
      (normal (.unpin g d base len off) s = some c → exec (.unpin g d base len off) s = .next (s.put c c.past))) ∧
    (∀ i code, c.emask ≠ 0 → (i = .pin g d base len off ∨ i = .unpin g d base len off) →
      (ptrCause p c.C.scratchBytes c.C.lr.privsz = some code ∨
        (ptrCause p c.C.scratchBytes c.C.lr.privsz = none ∧ ptrSpace p ≠ 0 ∧ code = 2)) →
      normal i s = some c → exec i s = .next (c.laneTrap (c.allFault 0x10 code p) s1).2) ∧
    ∀ l, lowLane c.emask = some l → ptrCause p c.C.scratchBytes c.C.lr.privsz = none → ptrSpace p = 0 →
      c.knows (c.rangePages p l k) s1 = true →
      let lines := linesOf (c.physParts s1 p l k)
      let a := pinFold c.pinLine lines s1
      let b := pinFold c.unpinLine lines s1
      (normal (.pin g d base len off) s = some c → a.1 = true →
        exec (.pin g d base len off) s =
          .next (c.seenAll (c.rangePages p l k) (c.mod a.2.2 fun x => x.setK d.toNat (BitVec.ofNat 32 a.2.1)))) ∧
      (normal (.unpin g d base len off) s = some c →
        exec (.unpin g d base len off) s =
          .next (c.seenAll (c.rangePages p l k) (c.mod b.2.2 fun x => x.setK d.toNat (BitVec.ofNat 32 b.2.1))))

/-- FENCE and XFENCE complete once the gang's earlier accesses are performed and, where they publish, the core has published; a
wide acquire drops the L1's clean lines, and a FENCE that releases makes the gang's next strong store a release. WAITLN
completes in one step, with its predicate set in the executing lanes, when every lane's scratchpad word meets the relation or
its bound has passed (R224, R226, R227). That a FENCE of any scope publishes (log 73), that it leaves a release open, and that
WAITLN drops the clean lines whatever its order (log 74) is the model's choice. -/
def Obligations.FencesAndWaits : Prop :=
  ∀ (s : State) (c : Ctx),
    (∀ g o scope s1, normal (.fence g o scope) s = some c → (∀ a ∈ s.accesses, a.gang ≠ c.gid) →
      (if o ≠ .acq then (s.advance c).publishCore c.core else (true, s.advance c)) = (true, s1) →
      let t := if !c.narrow scope && o ≠ .rel then s1.dropCleanAll c.core else s1
      exec (.fence g o scope) s =
        .next (if o ≠ .acq then t.modGang c.gid fun g => { g with relArm := some (!c.narrow scope) } else t)) ∧
    (∀ g s1, normal (.xfence g) s = some c → s.storesOut c.gid = false → (s.advance c).publishCore c.core = (true, s1) →
      exec (.xfence g) s = .next s1) ∧
    (∀ g rel uns b64 p base b off tmo scope ord, normal (.waitln g rel uns b64 p base b off tmo scope ord) s = some c →
      let n := if b64 then 2 else 1
      let a (l : Nat) : DWord := c.r.addr base (off.signExtend 64) l
      let ok (l : Nat) : Bool := rel.holds
        (wval (!uns) (32 * n) (ofBytes (readBytes c.T.scratch (ptrAddr (a l)) (4 * n))))
        (wval (!uns) (32 * n) (c.r.vN b.reg.toNat n l))
      (∀ l < 32, c.emask.getLsbD l → ptrSpace (a l) = 1 ∧ c.preCheck (a l) (4 * n) l = none) →
      s.acquireOut c.gid = false →
      (∀ l < 32, c.emask.getLsbD l → s.boarded c.tid (ptrAddr (a l)) (ptrAddr (a l) + 4 * n) = false) →
      ((∀ l < 32, c.emask.getLsbD l → ok l = true) ∨ c.watchFrom.getD s.time + 1000 * tmo.toNat ≤ s.time) →
      let t := s.put c (c.past.setP p.toNat c.emask ok)
      exec (.waitln g rel uns b64 p base b off tmo scope ord) s =
        .next (t.dropCleanAll c.core))

/-- CWB, CPUB and TKQ on good pointers whose pages are known complete. CWB, once the lines are published, sends the dirty data
or every token of each sector home, CPUB clears the core's marks in the scope filter, and TKQ writes its destination in the
executing lanes with the word of R275. BIAS of pages of a good, aligned pointer starts the flips of the pages that translate
with W = 1 and lack the bias asked for, ends the region and owes its destination, and traps on another pointer (R268,
R273–R276). Which marks CPUB clears of cores that share a line is log 75, and the CLAMP bit of TKQ in DEACT log 66: both are the
model's choices. -/
def Obligations.CoherenceWords : Prop :=
  ∀ (s : State) (c : Ctx) (g : Guard),
    let s1 := s.advance c
    (∀ base off,
      let addr (l : Nat) : DWord := c.r.addr base (offOf off) l
      let ls := cohLanes addr (lanesOf c.emask)
      let ps := c.lanePages addr ls
      let secs := c.cohSectors addr ls s1
      let r := c.pubLines secs s1
      c.badPtrs addr = [] → c.knows ps s1 = true →
      (∀ inv, normal (.cwb g inv base off) s = some c → r.1 = true →
        exec (.cwb g inv base off) s = .next (c.seenAll ps (secs.foldl (c.cwbSec inv) r.2))) ∧
      (normal (.cpub g base off) s = some c → r.1 = true →
        exec (.cpub g base off) s =
          .next (c.seenAll ps (((secs.map lineOfSec).eraseDups).foldl (fun s line => s.unmark c.core line) r.2))) ∧
      (∀ d, normal (.tkq g d base off) s = some c →
        exec (.tkq g d base off) s = .next (c.seenAll ps (s.put c (c.past.setV d.toNat c.emask fun l =>
          if ptrSpace (addr l) = 0 ∨ ptrSpace (addr l) = 3 then
            match c.landing s1 (addr l) l with
            | some q => BitVec.ofNat 32 (s1.tkqWord c.die (sectorOf q.1 q.2))
            | none => 0
          else 0))))) ∧
    (∀ host d base n off, normal (.bias g host d base n off) s = some c →
      let p := c.kaddr base (offOf off)
      let k := (c.r.ks n).toNat
      let bad := ptrCause p c.C.scratchBytes c.C.lr.privsz
      let near : Prop := ptrSpace p = 0 ∨ ptrSpace p = 3
      (c.mayTrap s →
        (∀ e, bad = some e → exec (.bias g host d base n off) s = .next (c.atTrap s 0x10 e p)) ∧
        (bad = none → ¬ near → exec (.bias g host d base n off) s = .next (c.atTrap s 0x10 2 p)) ∧
        (bad = none → near → p.toNat % 65536 ≠ 0 → exec (.bias g host d base n off) s = .next (c.atTrap s 0x11 0 p))) ∧
      (bad = none → near → p.toNat % 65536 = 0 →
      c.knows (c.biasPages p k) s1 = true →
      let t := c.endRegion s1
      exec (.bias g host d base n off) s = .next (c.seenAll (c.biasPages p k)
        ((({ t with nextId := t.nextId + 1 } : State).owe c.gid t.nextId (if d = 127 then [] else [.k d.toNat])).nextFlip host
          ((biasPtrs p k).filterMap (c.biasPage s1)) t.nextId c.gid d 0))))

/-! ### Copies and the matrix engine -/

/-- CPY, CPYG, CPYS and RCPY whose checks pass, with room in the queue and on the scoreboard, queue one transfer with their
operands and count it in their group; with a check that fails they take its trap: a pointer, a geometry, an alignment or a range
(R282, R284–R286, R345). -/
def Obligations.CopyIssue : Prop :=
  (∀ (i : Instr) (s : State) (c : Ctx) (p : CopyPlan) (grp : Nat) (ends : Bool) (mk : Nat → Xfer) (remote : Bool),
    normal i s = some c → i.copyPlan c = some (p, grp, ends, mk, remote) →
    (∀ code cause addr, p.fail c.C.scratchBytes c.C.lr.privsz = some (code, cause, addr) → c.mayTrap s →
      exec i s = .next (c.atTrap s code cause addr)) ∧
    (p.fail c.C.scratchBytes c.C.lr.privsz = none →
    (s.xfers.filter fun x => x.core = c.core).length < 64 → (s.advance c).boardRoom c.T p.board.length = true →
    let t : State := { s.advance c with
      nextId := s.nextId + 1, xfers := s.xfers ++ [{ mk s.nextId with group := grp, board := p.board }] }
    let t := t.modGang c.gid fun g => g.modGroup remote grp fun r => { r with inflight := r.inflight + 1 }
    exec i s = .next (if ends then c.endRegion t else t))) ∧
  ∀ (s : State) (c : Ctx) (g : Guard) (grp : BitVec 3) (src dst geo : Src) (off : Word) (pol : PolOv),
    normal (.rcpy g grp src dst geo off pol) s = some c → c.mayTrap s →
    let a := c.kaddr src (off.signExtend 64)
    let b := c.r.ks2 dst
    (rcpySpace a = false → exec (.rcpy g grp src dst geo off pol) s = .next (c.atTrap s 0x10 2 a)) ∧
    (rcpySpace a = true → ptrCause a c.C.scratchBytes c.C.lr.privsz = none → rcpySpace b = false →
      exec (.rcpy g grp src dst geo off pol) s = .next (c.atTrap s 0x10 2 b))

/-- TSND whose checks pass, with room in the die's queue and on the scoreboard, completes: it queues its transfer with its due
time, counts it in its remote group, ends the region and owes its destination; a check that fails is its trap (R431). -/
def Obligations.TimedSendIssue : Prop :=
  ∀ (s : State) (c : Ctx) (g : Guard) (d : RegNum) (grp : BitVec 3) (src dst t : Src) (len : Word) (pol : PolOv),
    normal (.tsnd g d grp src dst t len pol) s = some c →
    let a := c.r.ks2 src
    let b := c.r.ks2 dst
    let p := tsndPlan a b len.toNat
    let from_ : Prop := ptrSpace a = 0 ∨ ptrSpace a = 1
    let to_ : Prop := ptrSpace b = 3 ∨ ptrSpace b = 6
    (c.mayTrap s →
      (¬ from_ → exec (.tsnd g d grp src dst t len pol) s = .next (c.atTrap s 0x10 2 a)) ∧
      (from_ → ptrCause a c.C.scratchBytes c.C.lr.privsz = none → ¬ to_ →
        exec (.tsnd g d grp src dst t len pol) s = .next (c.atTrap s 0x10 2 b)) ∧
      ∀ code cause addr, from_ → to_ → p.fail c.C.scratchBytes c.C.lr.privsz = some (code, cause, addr) →
        exec (.tsnd g d grp src dst t len pol) s = .next (c.atTrap s code cause addr)) ∧
    (from_ → to_ → p.fail c.C.scratchBytes c.C.lr.privsz = none →
    (s.xfers.filter fun x => x.die = c.die && !x.begun && (match x.kind with | .tsnd .. => true | _ => false)).length < 256 →
    (s.advance c).boardRoom c.T p.board.length = true →
    let x : Xfer := { c.xfer (.tsnd (c.r.ks2 t).toNat len.toNat d) a b 0
      (if (c.r.ks2 t).toNat < s.time then 1 else 0) 0 0 pol s.nextId with group := grp.toNat, board := p.board }
    let u := ({ s.advance c with nextId := s.nextId + 1, xfers := s.xfers ++ [x] } : State).modGang c.gid fun g =>
      g.modGroup true grp.toNat fun r => { r with inflight := r.inflight + 1 }
    exec (.tsnd g d grp src dst t len pol) s =
      .next (c.endRegion (u.owe c.gid s.nextId (if d = 127 then [] else [.k d.toNat]))))

/-- CPYW and RCPYW of groups with nothing in flight and no fault complete with 0, with `.q` with the faulting groups, whose
records RCPYW `.q` clears; CPYQ and RCPYW `.info` read the group's record and CPYQ `.clr` clears it. A mask or group out of
range is the copy-descriptor trap, and a named group with a fault, without `.q`, the copy-fault or remote-copy-fault trap (R282,
R288, R289, R346). -/
def Obligations.CopyWaits : Prop :=
  ∀ (s : State) (c : Ctx) (g : Guard) (d : RegNum) (a : SrcI),
    let n := (c.r.ksI a).toNat
    let idle (remote : Bool) (k : Nat) : Prop := ∀ j < k, n.testBit j → (c.G.group remote j).inflight = 0
    let bad (remote : Bool) (k : Nat) : Nat := groupMask k fun j => n.testBit j && (c.G.group remote j).cause ≠ 0
    (∀ q, normal (.cpyw g q d a) s = some c → n < 2 ^ 16 → idle false 16 → (q = true ∨ bad false 16 = 0) →
      exec (.cpyw g q d a) s = .next (s.put c (c.past.setK d.toNat (BitVec.ofNat 32 (bad false 16))))) ∧
    (∀ q, normal (.rcpyw g q false d a) s = some c → n < 2 ^ 8 → idle true 8 → (q = true ∨ bad true 8 = 0) →
      let t := s.put c (c.past.setK d.toNat (BitVec.ofNat 32 (bad true 8)))
      exec (.rcpyw g q false d a) s = .next (if q = true then t.modGang c.gid fun x => (List.range 8).foldl (fun x i =>
        if n.testBit i && (x.group true i).cause ≠ 0 then x.modGroup true i Group.clear else x) x else t)) ∧
    (∀ q, normal (.rcpyw g q true d a) s = some c → n < 8 →
      exec (.rcpyw g q true d a) s =
        .next (s.put c (c.past.setK d.toNat (BitVec.ofNat 32 (c.G.group true n).rinfo)))) ∧
    (∀ op, normal (.cpyq g op d a) s = some c → n < 16 →
      ∃ x, exec (.cpyq g op d a) s = .next (s.put c x) ∧ RegFrame (kDest (op = .addr) d) c.emask c.past x ∧
        (op = .busy → x = c.past.setK d.toNat
          (BitVec.ofNat 32 (groupMask 16 fun j => (c.G.group false j).inflight ≠ 0))) ∧
        (op = .flt → x = c.past.setK d.toNat (BitVec.ofNat 32 (groupMask 16 fun j => (c.G.group false j).cause ≠ 0))) ∧
        (op = .addr → x = c.past.setK2 d.toNat (c.G.group false n).addr) ∧
        (op = .info → x = c.past.setK d.toNat (BitVec.ofNat 32 (c.G.group false n).info)) ∧
        (op = .sbfree → x = c.past.setK d.toNat (BitVec.ofNat 32 (32 - s.boardUsed c.die c.G.core)))) ∧
    (normal (.cpyqClr g d a) s = some c → n < 16 →
      exec (.cpyqClr g d a) s = .next (c.mod ((s.advance c).modGang c.gid fun x => x.modGroup false n Group.clear)
        fun x => x.setK d.toNat (BitVec.ofNat 32 (c.G.group false n).info))) ∧
    (c.mayTrap s →
      (∀ i lim, (∃ q, i = .cpyw g q d a ∧ lim = 2 ^ 16) ∨ (∃ q, i = .rcpyw g q false d a ∧ lim = 2 ^ 8) ∨
          (∃ q, i = .rcpyw g q true d a ∧ lim = 8) ∨ (∃ op, i = .cpyq g op d a ∧ lim = 16) ∨ (i = .cpyqClr g d a ∧ lim = 16) →
        normal i s = some c → lim ≤ n → exec i s = .next (c.atTrap s 0x18 0 0)) ∧
      ∀ i remote k code, (i = .cpyw g false d a ∧ remote = false ∧ k = 16 ∧ code = 0x19) ∨
          (i = .rcpyw g false false d a ∧ remote = true ∧ k = 8 ∧ code = 0x1A) →
        normal i s = some c → n < 2 ^ k → idle remote k → ∀ j, (bad remote k).testBit j = true →
          (∀ l < j, (bad remote k).testBit l = false) → exec i s = .next (c.atTrap s code j 0))

/-- MMA, MLOOP, ACZ, ACLD and ACDR whose checks pass, with room in the queue and on the scoreboard, queue their instruction, and
take the trap of a pointer, alignment or range that fails; MWAIT gives the number of the gang's matrix instructions that have
not retired, once it is at most N (R301, R305, R306, R308). -/
def Obligations.MatrixIssue : Prop :=
  ∀ (s : State) (c : Ctx),
    (∀ i p op code cause addr, normal i s = some c → i.matPlan c = some (p, op) →
      p.fail c.C.scratchBytes c.C.lr.privsz = some (code, cause, addr) → c.mayTrap s →
      exec i s = .next (c.atTrap s code cause addr)) ∧
    (∀ i p op, normal i s = some c → i.matPlan c = some (p, op) → p.fail c.C.scratchBytes c.C.lr.privsz = none →
      (s.mats.filter fun m => m.core = c.T.matCore).length < 16 → (s.advance c).boardRoom c.T p.board.length = true →
      exec i s = .next { s.advance c with
        nextId := s.nextId + 1, mats := s.mats ++ [⟨s.nextId, c.gid, c.tid, c.T.matCore, op, p.board, false⟩] }) ∧
    (∀ g d n, normal (.mwait g d n) s = some c →
      let k := (s.mats.filter fun m => m.gang = c.gid).length
      k ≤ (c.r.ksI n).toNat → exec (.mwait g d n) s = .next (s.put c (c.past.setK d.toNat (BitVec.ofNat 32 k))))

/-! ### Synchronisation -/

/-- BAR, CBAR and ARV of a gang that has not arrived arrive once their release is done, BAR and CBAR waiting past the word and
ARV with the phase in its destination; AWT goes on once the phase has passed its token. A second arrival in a phase and a circle
that the gang is not in are sync-operand traps (R313–R316). -/
def Obligations.BarrierWords : Prop :=
  ∀ (s s1 : State) (c : Ctx) (g : Guard),
    (normal (.bar g) s = some c → c.T.tarr.contains c.G.idx = false → c.release (s.advance c) = (none, s1) →
      exec (.bar g) s = .next (c.arriveTeam (c.barWait none c.T.tphase s1))) ∧
    (∀ x, let n := (c.r.ksI x).toNat
      normal (.cbar g x) s = some c → c.circleBad n = false → c.circArrived (s.advance c) n = false →
      c.release (s.advance c) = (none, s1) →
      exec (.cbar g x) s = .next (c.arriveCircle n (c.barWait (some n) (c.circ n).phase s1))) ∧
    (∀ d, normal (.arv g d none) s = some c → c.T.tarr.contains c.G.idx = false →
      c.release (s.advance c) = (none, s1) →
      exec (.arv g d none) s = .next (c.mod (c.arriveTeam s1) fun x => x.setK d.toNat (BitVec.ofNat 32 c.T.tphase))) ∧
    (∀ d x, let n := (c.r.ksI x).toNat
      normal (.arv g d (some x)) s = some c → c.circleBad n = false → c.circArrived (s.advance c) n = false →
      c.release (s.advance c) = (none, s1) →
      exec (.arv g d (some x)) s =
        .next (c.mod (c.arriveCircle n s1) fun x => x.setK d.toNat (BitVec.ofNat 32 (c.circ n).phase))) ∧
    (∀ tok, normal (.awt g tok none) s = some c → c.T.tphase ≠ (c.r.ks tok).toNat →
      exec (.awt g tok none) s = .next (c.acquire c.teamWide (s.advance c))) ∧
    (∀ tok x, let n := (c.r.ksI x).toNat
      normal (.awt g tok (some x)) s = some c → c.circleBad n = false → (c.circ n).phase ≠ (c.r.ks tok).toNat →
      exec (.awt g tok (some x)) s = .next (c.acquire (c.circleWide n) (s.advance c))) ∧
    (∀ i, (i = .bar g ∨ ∃ d, i = .arv g d none) → normal i s = some c → c.T.tarr.contains c.G.idx = true → c.mayTrap s →
      exec i s = .next (c.atTrap s 0x1D 3 0)) ∧
    ∀ i x, let n := (c.r.ksI x).toNat
      (i = .cbar g x ∨ (∃ d, i = .arv g d (some x)) ∨ ∃ tok, i = .awt g tok (some x)) → normal i s = some c → c.mayTrap s →
      (c.circleBad n = true → exec i s = .next (c.atTrap s 0x1D 2 0)) ∧
      (c.circleBad n = false → c.circArrived (s.advance c) n = true → (∀ tok, i ≠ .awt g tok (some x)) →
        exec i s = .next (c.atTrap s 0x1D 3 0))

/-- SPUT and SGET toggle the phase bit of their stage once their release is done, and SWAIT goes on when the bit has its
phase; MARKE and MARKF set the full bits of their window, and FEQ reads them. A bad selector or gang number is a
sync-operand trap (R313, R318–R320). -/
def Obligations.StagesAndMarks : Prop :=
  ∀ (s s1 : State) (c : Ctx) (g : Guard),
    (∀ sel r sl, stageSel (c.r.ksI sel) = some (r, sl, false) → c.release (s.advance c) = (none, s1) →
      (normal (.sput g sel) s = some c → exec (.sput g sel) s = .next (s1.modTeam c.tid fun t => t.toggle true r sl)) ∧
      (normal (.sget g sel) s = some c →
        exec (.sget g sel) s = .next ((s1.modTeam c.tid fun t => t.toggle false r sl).kickColls c.tid))) ∧
    (∀ free sel r sl ph, normal (.swait g free sel) s = some c → stageSel (c.r.ksI sel) = some (r, sl, ph) →
      c.T.phaseBit (!free) r sl = ph → exec (.swait g free sel) s = .next (c.acquire c.teamWide (s.advance c))) ∧
    (∀ k first cnt1,
      let rs := windowRefs k first (cnt1.toNat + 1)
      (normal (.marke g k first cnt1 none) s = some c →
        exec (.marke g k first cnt1 none) s =
          .next (((s.advance c).modRegs (gangKey c.tid c.G.idx) fun x => x.markAll rs false).applyInbox c.tid 64)) ∧
      (normal (.markf g k first cnt1 none) s = some c → gangKey c.tid c.G.idx = c.gid →
        exec (.markf g k first cnt1 none) s = .next (s.put c (c.past.markAll rs true))) ∧
      ∀ x, let n := (c.r.ks x).toNat
        n < c.C.lr.gangs → (∀ r ∈ rs, inBudget c.C.lr.vbud c.C.lr.kbud r = true) →
        (normal (.marke g k first cnt1 (some x)) s = some c →
          exec (.marke g k first cnt1 (some x)) s =
            .next (((s.advance c).modRegs (gangKey c.tid n) fun x => x.markAll rs false).applyInbox c.tid 64)) ∧
        (normal (.markf g k first cnt1 (some x)) s = some c →
          let t := (s.advance c).modRegs (gangKey c.tid n) fun x => x.markAll rs true
          exec (.markf g k first cnt1 (some x)) s =
            .next (if gangKey c.tid n = c.gid then t else t.wake (gangKey c.tid n)))) ∧
    (∀ i sel, (i = .sput g sel ∨ i = .sget g sel) ∧ (∀ r sl, stageSel (c.r.ksI sel) ≠ some (r, sl, false)) ∨
        (∃ free, i = .swait g free sel) ∧ stageSel (c.r.ksI sel) = none → normal i s = some c → c.mayTrap s →
      exec i s = .next (c.atTrap s 0x1D 1 0)) ∧
    (∀ i k first cnt1 x, (i = .marke g k first cnt1 (some x) ∨ i = .markf g k first cnt1 (some x)) → normal i s = some c →
      c.mayTrap s →
      c.C.lr.gangs ≤ (c.r.ks x).toNat → exec i s = .next (c.atTrap s 0x1D 4 0)) ∧
    (∀ k d first cnt1, normal (.feq g k d first cnt1) s = some c →
      ∃ w, exec (.feq g k d first cnt1) s = .next (s.put c (c.past.setK d.toNat w)) ∧
        ∀ j < 32, w.getLsbD j = (decide (j ≤ cnt1.toNat) &&
          c.r.isFull (if k then .k (first.toNat + j) else .v (first.toNat + j))))

/-- RSTV, RSTK and RSIG through a valid channel entry with the permission, within its count and its allowance, send one
remote store, RSTV the 128 bytes of the scratchpad at its offset; under `.drop` a store to a dead endpoint has no effect. A bad
selector, an entry that does not serve, a dead endpoint and a bad offset are traps, in that order (R313, R322). -/
def Obligations.RemoteStores : Prop :=
  ∀ (s s1 : State) (c : Ctx) (g : Guard) (drop : Bool) (sel : Src),
    let w := c.r.ks sel
    let n := w.toNat % 64
    let idx := w.toNat / 256
    let e := c.T.chan n
    let m := c.T.mark n
    let open_ (permit : Nat) (wide : Bool) : Prop := w.toNat / 2 ^ 16 = 0 ∧ w.toNat / 64 % 4 = 0 ∧ chValid e = true ∧
      e.getLsbD (64 + permit) = true ∧ (if wide then idx + 1 else idx) < chCount e ∧ m.xten = false ∧ m.badwin = false ∧
      m.dead = false ∧ Store.get 0 c.G.out n < chAllow e
    let dead (permit : Nat) (wide : Bool) : Prop := w.toNat / 2 ^ 16 = 0 ∧ w.toNat / 64 % 4 = 0 ∧ chValid e = true ∧
      e.getLsbD (64 + permit) = true ∧ (if wide then idx + 1 else idx) < chCount e ∧ m.xten = false ∧ m.badwin = false ∧
      m.dead = true ∧ drop = true
    let after (rel : Bool) : Prop := (rel = false ∧ s1 = s.advance c) ∨
      (rel = true ∧ s.storesOut c.gid = false ∧ (s.advance c).publishCore c.core = (true, s1))
    (∀ i, (∃ off ext, i = .rstv g drop sel off ext ∧ dead 0 false) ∨
        (∃ b64 data ext, i = .rstk g drop b64 sel data ext ∧ dead 1 b64) ∨
        (∃ k ext, i = .rsig g drop k sel ext ∧ dead 2 false) →
      normal i s = some c → exec i s = .next (s.put c c.past)) ∧
    (∀ off ext, normal (.rstv g drop sel off ext) s = some c →
      let imm : Word := match ext with | some x => x.1 | none => 0
      let o := ((c.r.ks off).setWidth 64 + imm.signExtend 64 : DWord).toNat
      let rel := (ext.map (·.2)).getD false
      open_ 0 false → o < 2 ^ 32 → o + 128 ≤ c.C.scratchBytes → o % 16 = 0 → s.boarded c.tid o (o + 128) = false → after rel →
      exec (.rstv g drop sel off ext) s =
        .next (c.postStore rel n idx (.vec (BitVec.ofNat 1024 (ofBytes (readBytes c.T.scratch o 128)))) s1)) ∧
    (∀ b64 data ext, normal (.rstk g drop b64 sel data ext) s = some c → open_ 1 b64 → after (ext.getD false) →
      exec (.rstk g drop b64 sel data ext) s = .next (c.postStore (ext.getD false) n idx
        (if b64 then .k64 (c.r.ks2 data) else .k32 (c.r.ks data)) s1)) ∧
    (∀ k ext, normal (.rsig g drop k sel ext) s = some c → open_ 2 false → after (ext.getD false) →
      exec (.rsig g drop k sel ext) s = .next (c.postStore (ext.getD false) n idx (.sig k) s1)) ∧
    (∀ i permit wide, (∃ off ext, i = .rstv g drop sel off ext ∧ permit = 0 ∧ wide = false) ∨
        (∃ b64 data ext, i = .rstk g drop b64 sel data ext ∧ permit = 1 ∧ wide = b64) ∨
        (∃ k ext, i = .rsig g drop k sel ext ∧ permit = 2 ∧ wide = false) → normal i s = some c → c.mayTrap s →
      let good : Prop := w.toNat / 2 ^ 16 = 0 ∧ w.toNat / 64 % 4 = 0
      let serves : Prop := chValid e = true ∧ e.getLsbD (64 + permit) = true ∧ (if wide then idx + 1 else idx) < chCount e ∧
        m.xten = false ∧ m.badwin = false
      (¬ good → exec i s = .next (c.atTrap s 0x1D 1 0)) ∧
      (good → ¬ serves → exec i s = .next (c.atTrap s 0x1E n 0)) ∧
      (good → serves → m.dead = true → drop = false → exec i s = .next (c.atTrap s 0x1F n 0))) ∧
    (∀ off ext, normal (.rstv g drop sel off ext) s = some c → c.mayTrap s →
      let imm : Word := match ext with | some x => x.1 | none => 0
      let o := ((c.r.ks off).setWidth 64 + imm.signExtend 64 : DWord).toNat
      let serves : Prop := w.toNat / 2 ^ 16 = 0 ∧ w.toNat / 64 % 4 = 0 ∧ chValid e = true ∧ e.getLsbD 64 = true ∧
        idx < chCount e ∧ m.xten = false ∧ m.badwin = false ∧ m.dead = false
      serves →
      (2 ^ 32 ≤ o → exec (.rstv g drop sel off ext) s = .next (c.atTrap s 0x10 1 (scrPtr o))) ∧
      (o < 2 ^ 32 → c.C.scratchBytes < o + 128 → exec (.rstv g drop sel off ext) s = .next (c.atTrap s 0x10 3 (scrPtr o))) ∧
      (o < 2 ^ 32 → o + 128 ≤ c.C.scratchBytes → o % 16 ≠ 0 →
        exec (.rstv g drop sel off ext) s = .next (c.atTrap s 0x11 0 (scrPtr o))))

/-- CHQ reads a channel's status or entry and `.clr` clears its marks; CHGIVE and its revocation send a message and owe their
status, a bad descriptor answering 4 at once; a register that names no entry is a sync-operand trap; HMQ asks for the hallmark
of a live team of the cohort, or whether a hallmark names a live team of the tenant, and owes its answer (R325–R327). -/
def Obligations.ChannelWords : Prop :=
  ∀ (s : State) (c : Ctx) (g : Guard) (d : RegNum),
    (∀ ch, let n := (c.r.ksI ch).toNat
      n < 64 →
      (normal (.chq g false d ch) s = some c →
        exec (.chq g false d ch) s = .next (s.put c (c.past.setK d.toNat (c.T.chStatus c.G n)))) ∧
      (normal (.chq g true d ch) s = some c →
        exec (.chq g true d ch) s = .next (s.put c ((List.range 4).foldl
          (fun x i => x.setK (d.toNat + i) ((c.T.chan n).extractLsb' (32 * i) 32)) c.past))) ∧
      (normal (.chqClr g d ch) s = some c → exec (.chqClr g d ch) s =
        .next (c.mod ((s.advance c).modTeam c.tid fun t => { t with marks := Store.upd {} t.marks n fun m => { epoch := m.epoch } })
          fun x => x.setK d.toNat (c.T.chStatus c.G n)))) ∧
    (∀ i ch, (∃ ent, i = .chq g ent d ch) ∨ i = .chqClr g d ch → normal i s = some c → 64 ≤ (c.r.ksI ch).toNat → c.mayTrap s →
      exec i s = .next (c.atTrap s 0x1D 1 0)) ∧
    (∀ entry perm hall desc, normal (.chgive g entry perm d hall desc) s = some c →
      let w := c.r.ks desc
      let hi := w.toNat / 256 % 256 + w.toNat / 2 ^ 16 % 256
      let bad : Prop := w.toNat / 2 ^ 24 = 0 ∨ w.toNat / 2 ^ 16 % 256 = 0 ∨ perm = 0 ∨ c.C.ngangs ≤ w.toNat % 256 ∨
        ((perm.getLsbD 0 ∨ perm.getLsbD 2) ∧ 8 * c.C.lr.vbud < hi) ∨ ((perm.getLsbD 1 ∨ perm.getLsbD 2) ∧ 8 * c.C.lr.kbud < hi)
      (¬ bad → exec (.chgive g entry perm d hall desc) s = .next (c.askFor d ((c.endRegion (s.advance c)).send (.chgiveArrival
        { sender := c.gid, group := c.T.group, dst := d, tenant := c.tenant, hall := c.r.ks hall, giver := c.T.hall,
          entry := entry.toNat, image := BitVec.ofNat 128 (c.T.hall.toNat + 2 ^ 32 * w.toNat + 2 ^ 64 * perm.toNat + 2 ^ 67),
          revoke := false, force := false })))) ∧
      (bad → exec (.chgive g entry perm d hall desc) s =
        .next (c.mod (c.endRegion (s.advance c)) fun x => x.setK d.toNat 4))) ∧
    (∀ entry hall, normal (.chgiveRev g entry d hall) s = some c →
      exec (.chgiveRev g entry d hall) s = .next (c.askFor d ((c.endRegion (s.advance c)).send (.chgiveArrival
        { sender := c.gid, group := c.T.group, dst := d, tenant := c.tenant, hall := c.r.ks hall, giver := c.T.hall,
          entry := entry.toNat, image := 0, revoke := true, force := false })))) ∧
    (∀ a, normal (.hmqTeam g d a) s = some c →
      let v : Word := match s.findTeam c.T.cohort (c.r.ksI a).toNat with
        | some p => if p.2.live then p.2.hall else 0
        | none => 0
      exec (.hmqTeam g d a) s = .next (c.askFor d ((s.advance c).send (.remoteAnswer c.gid d v)))) ∧
    (∀ a, normal (.hmqLive g d a) s = some c →
      let v : Word := match s.byHall c.T.group (c.r.ksI a) with
        | some p => if p.2.live && s.ofTenant p.2 c.tenant then 1 else 0
        | none => 0
      exec (.hmqLive g d a) s = .next (c.askFor d ((s.advance c).send (.remoteAnswer c.gid d v))))

/-! ### Collectives -/

/-- COLL completes once its release is done and a slot is free: with a block, and under RSET a rank table, that read and pass
their checks, it takes the lowest free slot of the team in MATCH, sends it to the match, ends the region and gives its number
(R238, R334); that the lowest is taken is the model's choice (log 100). A bad pointer or a bad block is its trap. COLLW of a
slot that is free, done, or in error under `.q` gives its status, acquires and frees it, one in error traps without `.q`, and
COLLQ reads a slot (R340, R343). -/
def Obligations.CollectiveWords : Prop :=
  (∀ (s : State) (c : Ctx) (g : Guard) (d : RegNum) (ptr : Src) (off : Option Word) (code cause : Nat) (addr : DWord),
      normal (.coll g d ptr off) s = some c → c.mayTrap s →
      collPtr c.C.scratchBytes c.C.lr.privsz (c.kaddr ptr ((off.getD 0).signExtend 64)) 128 128 = some (code, cause, addr) →
      exec (.coll g d ptr off) s = .next (c.atTrap s code cause addr)) ∧
  (∀ (s s1 : State) (c : Ctx) (g : Guard) (d : RegNum) (ptr : Src) (off : Option Word) (j me : Nat),
      normal (.coll g d ptr off) s = some c →
      let p := c.kaddr ptr ((off.getD 0).signExtend 64)
      collPtr c.C.scratchBytes c.C.lr.privsz p 128 128 = none →
      ((List.range 4).find? fun j => (Store.get {} c.T.colls j : CollSlot).state = .free) = some j →
      c.release (s.advance c) = (none, s1) →
      let y := ({ s := s1, feed := c.G.seen } : EngRun).read (c.eng (policyOf p .none)) (ptrSpace p) 0 0 p 128
      let raw := y.1.map (·.getD 0)
      let b := collBlock (ofBytes raw)
      let z := if b.rset then ({ s := y.2.s, feed := c.G.seen } : EngRun).read (c.eng (policyOf b.rtab .none)) (ptrSpace b.rtab)
        0 0 b.rtab (4 * b.nrank) else ([], { s := y.2.s })
      let rank (i : Nat) : Word := match allBytes ((z.1.drop (4 * i)).take 4) with
        | some bs => BitVec.ofNat 32 (ofBytes bs)
        | none => 0
      let ranks := if b.rset then (List.range b.nrank).map rank else c.circleRanks b.circle
      y.2.stall = none → y.2.faults = [] →
      (b.bad (ofBytes raw) = true → exec (.coll g d ptr off) s = .next (c.trapTo 0x1B 0 0 c.X y.2.s)) ∧
      (b.bad (ofBytes raw) = false →
      (b.rset = true → collPtr c.C.scratchBytes c.C.lr.privsz b.rtab 4 (4 * b.nrank) = none) →
      z.2.stall = none → z.2.faults = [] → c.myRank b ranks = some me → b.root < ranks.length →
      c.collPtrs b ranks.length me = none →
      let t := z.2.s
      let x : CollSlot := { state := .matching, block := b, raw := raw, ranks := ranks, me := me, gang := c.G.idx, since := t.time,
                            coll := t.nextId }
      let u := c.endRegion (({ t with nextId := t.nextId + 1 } : State).modTeam c.tid
        fun u => { u with colls := Store.set {} u.colls j x })
      exec (.coll g d ptr off) s =
        .next (c.mod (u.send (.collMatch (collKey c.tid j))) fun y => y.setK d.toNat (BitVec.ofNat 32 j)))) ∧
  (∀ (s : State) (c : Ctx) (g : Guard) (d : RegNum) (slot : SrcI),
      let j := (c.r.ksI slot).toNat
      let x := c.T.coll j
      let freed := c.acquire true ((s.advance c).modTeam c.tid fun t => { t with colls := Store.erase t.colls j })
      (∀ i, (∃ q, i = .collw g q d slot) ∨ (∃ op, i = .collq g op d slot) → normal i s = some c → 4 ≤ j → c.mayTrap s →
        exec i s = .next (c.atTrap s 0x1B 0 0)) ∧
      (j < 4 →
      (normal (.collw g false d slot) s = some c → x.state = .error → c.mayTrap s →
        exec (.collw g false d slot) s = .next (c.atTrap s 0x1C x.status 0)) ∧
      (∀ q, normal (.collw g q d slot) s = some c →
        (x.state = .free →
          exec (.collw g q d slot) s = .next (c.mod (c.acquire true (s.advance c)) fun y => y.setK d.toNat 0)) ∧
        (x.state = .done → exec (.collw g q d slot) s = .next (c.mod freed fun y => y.setK d.toNat 0)) ∧
        (x.state = .error → q = true →
          exec (.collw g q d slot) s = .next (c.mod freed fun y => y.setK d.toNat (BitVec.ofNat 32 x.status)))) ∧
      (∀ op, normal (.collq g op d slot) s = some c →
        exec (.collq g op d slot) s = .next (s.put c (c.past.setK d.toNat (BitVec.ofNat 32 (match op with
          | .state => x.state.code
          | .step => x.step
          | .total => x.total
          | .fault => if x.fcause = 0 then 0 else x.fcause + 256 * x.frank)))))))

/-! ### Launch and scheduling -/

/-- LAUNCH on a good pointer, any other being its trap, with its release done and its record read, and the table it names,
completes: DST takes the new cohort's handle, or the refusal code of what was read (R353, R354); the order of the codes is the
model's reading (log 26). LWAIT of a cohort that has finished frees it and gives its status, an unknown handle 7, and another
status than 0 traps without `.q`; that a wait that has begun gives the status of its cohort though another gang has reaped it is
the model's reading (log 27). LQRY reads a cohort: its state, counts and status, and 7 for an unknown handle's state or status;
what `.placed` and `.done` give for one is a free value (log 11; R355–R357). -/
def Obligations.LaunchWords : Prop :=
  (∀ (s s1 : State) (c : Ctx) (g : Guard) (d : RegNum) (ptr : Src) (off : Option Word),
      normal (.launch g d ptr off) s = some c →
      let a := c.kaddr ptr ((off.getD 0).signExtend 64)
      let gives (t : State) (w : Word) : Prop := exec (.launch g d ptr off) s = .next (c.mod t fun x => x.setK d.toNat w)
      let bad := ptrCause a c.C.scratchBytes c.C.lr.privsz
      let here : Prop := ptrSpace a = 0 ∨ ptrSpace a = 4
      (c.mayTrap s →
        (∀ k, bad = some k → exec (.launch g d ptr off) s = .next (c.atTrap s 0x10 k a)) ∧
        (bad = none → ¬ here → exec (.launch g d ptr off) s = .next (c.atTrap s 0x10 2 a)) ∧
        (bad = none → here → a.toNat % 256 ≠ 0 → exec (.launch g d ptr off) s = .next (c.atTrap s 0x11 0 a))) ∧
      (bad = none → here → a.toNat % 256 = 0 →
      c.release (s.advance c) = (none, s1) →
      (∀ f s2, c.fetch (recReq a 256) s1 = .flt f s2 → gives (c.endRegion (c.acquire true s2)) 0x80000008) ∧
      ∀ bs s2, c.fetch (recReq a 256) s1 = .bytes bs s2 →
        let n := auxBytes bs
        let table := c.fetch (recReq (readRec bs).aux n) s2
        ∀ aux s3, (n = 0 ∧ aux = some [] ∧ s3 = s2) ∨ (n ≠ 0 ∧ ∃ f, table = .flt f s3 ∧ aux = none) ∨
          (n ≠ 0 ∧ ∃ xs, table = .bytes xs s3 ∧ aux = some (xs.take n)) →
        let t := c.endRegion (c.acquire true s3)
        (∀ k, t.judgeLaunch c.C.dev (c.die % 8) c.tenant bs aux = .error k → gives t (BitVec.ofNat 32 (0x80000000 + k))) ∧
        ∀ q, t.judgeLaunch c.C.dev (c.die % 8) c.tenant bs aux = .ok q →
          ∀ key u, t.newCohort c.C.dev (c.die % 8) c.tenant false q = some (key, u) → gives u (u.handle key))) ∧
  (∀ (s : State) (c : Ctx) (g : Guard) (d : RegNum) (h : Src),
      let found := s.findCohort c.C.dev c.tenant (c.r.ks h)
      let fin (t : State) : State := t.modGang c.gid fun g => { g with lwait := none, lres := none }
      let ends (q : Bool) (st : Nat) (t : State) : State :=
        if st ≠ 0 ∧ q = false then c.trapTo 0x20 st 0 c.X (fin t)
        else c.mod (if st = 7 then fin t else c.acquire true (fin t)) fun y => y.setK d.toNat (BitVec.ofNat 32 st)
      (∀ q st, normal (.lwait g q d h) s = some c →
        (((found = none ∧ (c.G.lres = some st ∨ (c.G.lres = none ∧ st = 7))) ∨
            ∃ key x, found = some (key, x) ∧ c.G.lres = some st ∧ (c.G.lwait ≠ some key ∨ x.status ≠ some st)) →
          exec (.lwait g q d h) s = .next (ends q st (s.advance c))) ∧
        (∀ key x, found = some (key, x) → c.G.lres = none ∨ (c.G.lres = some st ∧ c.G.lwait = some key) → x.status = some st →
          exec (.lwait g q d h) s = .next (ends q st ((s.advance c).freeCohort key)))) ∧
      (normal (.lwait g false d h) s = some c → found = none → c.G.lres = none → c.record.active = false → c.tvec s ≠ 0 →
        exec (.lwait g false d h) s =
          .next ((s.advance c).setGang c.gid { c.trapped s 0x20 7 0 c.X with lwait := none, lres := none })) ∧
      (∀ op, normal (.lqry g op d h) s = some c →
        (∀ key x, found = some (key, x) → exec (.lqry g op d h) s = .next (s.put c (c.past.setK d.toNat (BitVec.ofNat 32 (match op with
          | .state => x.state.code
          | .placed => x.started
          | .done => x.exited
          | .status => x.status.getD 0xFF))))) ∧
        (found = none → op = .state ∨ op = .status → exec (.lqry g op d h) s = .next (s.put c (c.past.setK d.toNat 7))) ∧
        (found = none → op = .placed ∨ op = .done → ∃ w, exec (.lqry g op d h) s =
          .next (c.mod { s.advance c with fresh := s.fresh + 1 } fun y => y.setK d.toNat w))))

/-- YIELD and SLEEP of 0 make the gang pending and ready; SLEEP of n makes it sleep until the time has advanced by n;
memory and the gang's other registers are as before (R363). RGN opens the gang's region record with the address of the
next word and the primary LMASK, RGNX closes the record of every gang of the team, and TMIG refuses with its code or stops
the team for the migration, which ends the flux passes of its gangs (R366, R369, R371). -/
def Obligations.YieldRegionsAndMigration : Prop :=
  (∀ (s : State) (c : Ctx) (g : Guard),
      let G (w : Wait) : Gang := { c.gangPast.setWait c.sec w with active := false, movedAt := s.time }
      (normal (.yield g) s = some c → exec (.yield g) s = .next ((s.advance c).setGang c.gid (G .ready))) ∧
      (∀ n, normal (.sleep g n) s = some c →
        exec (.sleep g n) s = .next ((s.advance c).setGang c.gid
          (G (if (c.r.ksI n).toNat = 0 then .ready else .sleep (s.time + (c.r.ksI n).toNat)))))) ∧
  (∀ (s : State) (c : Ctx) (g : Guard),
      (normal (.rgn g) s = some c →
        exec (.rgn g) s = .next ((s.advance c).modGang c.gid fun x =>
          { x with rgnOpen := true, rgnPc := c.next, rgnMask := c.G.regs.pri.lmask })) ∧
      (normal (.rgnx g) s = some c → ∃ t, exec (.rgnx g) s = .next t ∧ SameMemory s t ∧
        ∀ k < c.C.ngangs, ∀ x, t.gang? (gangKey c.tid k) = some x → x.rgnOpen = false) ∧
      (∀ d n, normal (.tmig g d n) s = some c →
        (∀ v, c.tmigCode (c.r.ksI n).toNat = some v →
          exec (.tmig g d n) s = .next (s.put c (c.past.setK d.toNat (BitVec.ofNat 32 v)))) ∧
        (c.tmigCode (c.r.ksI n).toNat = none →
          exec (.tmig g d n) s = .next (((s.advance c).modTeam c.tid fun t =>
            { t with fullReq := true, tmig := some ⟨c.gid, d, (c.r.ksI n).toNat, s.time + 1000000, t.die⟩ }).stopTeam c.tid)))) ∧
  ∀ (s : State) (tid : Nat) (t : Team), s.team? tid = some t → t.state = .resident →
    s.stopTeam tid = (s.setTeam tid { t with state := .stopping, since := s.time, stopAt := s.time }).endPasses tid

/-! ### Flux, control registers and team control -/

/-- FLXCFG with a legal budget gives the old one and sets the new one in the gang, or in every gang of the team, and traps with any
other; FLXQ reads a counter and clears it under `.clr` (R386, R387). -/
def Obligations.FluxRegisters : Prop :=
  ∀ (s : State) (c : Ctx) (g : Guard) (d : RegNum),
    (∀ team n, normal (.flxcfg g team d n) s = some c →
      let w := c.r.ksI n
      ((w = 0 ∨ (16 ≤ w.toNat ∧ w.toNat ≤ 512)) → exec (.flxcfg g team d n) s = .next (c.mod
        (if team then (s.advance c).modGangs c.tid c.C.ngangs (fun x => { x with fluxBudget := w })
          else (s.advance c).modGang c.gid fun x => { x with fluxBudget := w })
        fun x => x.setK d.toNat c.G.fluxBudget)) ∧
      (w ≠ 0 → w.toNat < 16 ∨ 512 < w.toNat → c.record.active = false → c.tvec s ≠ 0 →
        exec (.flxcfg g team d n) s = .next ((s.advance c).setGang c.gid (c.trapped s 0x21 0 0 c.X)))) ∧
    (∀ sel clr, normal (.flxq g sel clr d) s = some c →
      exec (.flxq g sel clr d) s = .next ((s.advance c).setGang c.gid
        { c.gangPast with
          regs := c.past.setK d.toNat (match sel with
            | .pref => c.G.fluxPref
            | .walks => c.G.fluxWalks
            | .faults => c.G.fluxFaults
            | .passes => c.G.fluxPasses
            | .cfg => c.G.fluxBudget)
          fluxPref := if clr ∧ sel = .pref then 0 else c.G.fluxPref
          fluxWalks := if clr ∧ sel = .walks then 0 else c.G.fluxWalks
          fluxFaults := if clr ∧ sel = .faults then 0 else c.G.fluxFaults
          fluxPasses := if clr ∧ sel = .passes then 0 else c.G.fluxPasses }))

/-- MFS reads a control register and MTS writes the fields that are RW: the resume address of the issuing slot's record, the
handler address and the page-ring head; ctl.pwstat reopens a window whose shelf is up, and ctl.elhd moves the head of the
error log and clears LOST; every other register is left as it was (R398–R400). -/
def Obligations.ControlRegisters : Prop :=
  ∀ (s : State) (c : Ctx) (g : Guard),
    let e := c.endRegion (s.advance c)
    (∀ b64 d idx, normal (.mfs g b64 d idx) s = some c →
      let v := c.ctl (s.advance c) idx.toNat
      exec (.mfs g b64 d idx) s = .next (c.mod e fun x => if b64 then x.setK2 d.toNat v else x.setK d.toNat (v.setWidth 32))) ∧
    (∀ b64 a idx, normal (.mts g b64 a idx) s = some c →
      (idx = 0x004 → exec (.mts g b64 a idx) s = .next (e.modGang c.gid fun x =>
        if c.sec then { x with tr1 := { x.tr1 with res := c.r.ks2 a } } else { x with tr0 := { x.tr0 with res := c.r.ks2 a } })) ∧
      (idx = 0x100 → exec (.mts g b64 a idx) s = .next (e.modTenant c.tk fun t => { t with tvec := c.r.ks2 a })) ∧
      (idx = 0x10A → exec (.mts g b64 a idx) s = .next (e.modTenant c.tk fun t => { t with prqhd := c.r.ks a })) ∧
      (idx ≠ 0x004 → idx ≠ 0x100 → idx ≠ 0x10A → exec (.mts g b64 a idx) s = .next e)) ∧
    (∀ a, normal (.pwstatReopen g a) s = some c →
      exec (.pwstatReopen g a) s = .next (e.modTenant c.tk fun t =>
        if (c.r.ks a).getLsbD 0 && t.shelfUp then { t with fenced := false } else t)) ∧
    (∀ a, normal (.elhdWrite g a) s = some c →
      exec (.elhdWrite g a) s = .next (e.modTenant c.tk fun t => { t with elhd := c.r.ks a, lost := false }))

/-- A word whose earlier checks pass raises the trap of its mode: the privilege trap when it is one of 0xC1 to 0xCA, or XLAT
`.pa`, and is issued without privilege, the split-issue trap when it is a gang instruction of the secondary slot, and the
barrier-divergence or region-state trap when it is BAR or CBAR, or RGN, and the gang's lanes are divided between slots or
nested. With the slot's record inactive and a handler set, the record and the PC are those of R394, and memory is as before
(R160, R161, R371, R390, R392). -/
def Obligations.PrivilegeTrap : Prop :=
  ∀ (s : State) (G : Gang) (T : Team) (C : Cohort) (i : Instr) (o : Opn), s.gang? s.curGang = some G →
    s.team? G.team = some T → s.cohort? T.cohort = some C → opnOf i = .ok o →
    let c := mkCtx s.curGang G T C s.curSec (G.regs.slot s.curSec).pc o.e.form.bytes o
    G.resident = true → (G.regs.slot s.curSec).valid = true → G.bar = none → G.flux = none →
    poolFaults o.reads G c.amask = [] → checkWord [o] G C.lr = .ok → c.mayTrap s →
    let traps (code : Nat) : Prop := ∃ t, exec i s = .next t ∧ SameMemory s t ∧ ∃ H, t.gang? c.gid = some H ∧
      (if c.sec then H.tr1 else H.tr0) = ⟨true, BitVec.ofNat 8 code, 0, c.amask, c.X, 0, c.X⟩ ∧
      H.regs = G.regs.setPc c.sec (c.tvec s &&& ~~~3)
    let needs : Prop := o.e.pl.opc.toNat ∈ List.range' 0xC1 10 ∨ (∃ g d base off, i = .xlat g true d base off)
    (needs → c.priv = false → traps 0x06) ∧
    (¬ needs → gangOp o.e.pl.opc.toNat = true → c.sec = true → traps 0x07) ∧
    (c.sec = true ∨ G.regs.sec.valid = true ∨ (∃ l < 32, G.regs.pri.lmask.getLsbD l ∧ G.regs.c l ≠ 0) →
      ((∃ g, i = .bar g ∨ ∃ x, i = .cbar g x) → traps 0x08) ∧ ((∃ g, i = .rgn g) → traps 0x09))

/-- TLBI of a good range, another pointer being its trap, or of everything, once its release is done, sends a request to every
unfenced die of the pod and waits for as many answers past the word (R404). -/
def Obligations.TlbInvalidates : Prop :=
  ∀ (s s1 : State) (c : Ctx) (g : Guard), c.release (s.advance c) = (none, s1) →
    let t := c.endRegion s1
    let evs (range : Option (Nat × Nat)) : List Ev :=
      ((podDies c.T.group).filter fun d => !(t.die d).fenced).map fun d => Ev.tlbiRequest d c.tenant range c.gid
    let ask (range : Option (Nat × Nat)) : State :=
      ({ t with net := t.net ++ evs range } : State).modGang c.gid fun g =>
        { g.setWait c.sec .acks with acks := (evs range).length }
    (normal (.tlbiAll g) s = some c → exec (.tlbiAll g) s = .next (ask none)) ∧
    (∀ va n, normal (.tlbiRange g va n) s = some c → ptrSpace (c.r.ks2 va) = 0 →
      ptrCause (c.r.ks2 va) c.C.scratchBytes c.C.lr.privsz = none → (c.r.ks2 va).toNat % 65536 = 0 →
      exec (.tlbiRange g va n) s = .next (ask (some (ptrAddr (c.r.ks2 va) / 65536, (c.r.ks n).toNat)))) ∧
    ∀ va n, normal (.tlbiRange g va n) s = some c → c.mayTrap s →
      let p := c.r.ks2 va
      (ptrSpace p ≠ 0 → exec (.tlbiRange g va n) s = .next (c.atTrap s 0x10 2 p)) ∧
      (∀ k, ptrSpace p = 0 → ptrCause p c.C.scratchBytes c.C.lr.privsz = some k →
        exec (.tlbiRange g va n) s = .next (c.atTrap s 0x10 k p)) ∧
      (ptrSpace p = 0 → ptrCause p c.C.scratchBytes c.C.lr.privsz = none → p.toNat % 65536 ≠ 0 →
        exec (.tlbiRange g va n) s = .next (c.atTrap s 0x11 0 p))

/-- The team-control words complete: an unknown hallmark or handle is answered 1 or 0xFF; CTXSV of the own team is answered 3,
of a held one 2, and any other is held, saved where it is not yet, and answered; CTXLD of a held team is answered 0; HALT ends
its team, another's with an answer once it has ended; PRIO gives the old priority with the new one capped, CHSET sends its
entry, and INTR raises its vector when the tenant has it (R405, R406). That PRIO of an unknown handle answers 0xFF whatever SB is,
a value above 7 too, is the model's reading (log 27). -/
def Obligations.TeamControl : Prop :=
  ∀ (s : State) (c : Ctx) (g : Guard) (d : RegNum) (h : Src),
    let e := c.endRegion (s.advance c)
    let answer (t : State) (v : Word) : State := c.askFor d (t.send (.remoteAnswer c.gid d v))
    (normal (.ctxsv g d h) s = some c →
      (c.named h e = none → exec (.ctxsv g d h) s = .next (answer e 1)) ∧
      (∀ u, c.named h e = some (c.tid, u) → exec (.ctxsv g d h) s = .next (answer e 3)) ∧
      ∀ k u, c.named h e = some (k, u) → k ≠ c.tid →
        (u.held = true → exec (.ctxsv g d h) s = .next (answer e 2)) ∧
        (u.held = false →
          let wait : List (Nat × RegNum) := u.ctxsv ++ [(c.gid, d)]
          (u.state = .restart → exec (.ctxsv g d h) s = .next (answer (e.saveRestart k).2 (e.saveRestart k).1)) ∧
          (u.state = .saved ∨ u.state = .migrating →
            exec (.ctxsv g d h) s = .next (answer (e.setTeam k { u with held := true }) 0)) ∧
          (u.state = .resident ∨ u.state = .stopping →
            (u.ending = none → exec (.ctxsv g d h) s =
              .next (c.askFor d ((e.setTeam k { u with held := true, fullReq := true, ctxsv := wait }).stopTeam k))) ∧
            (u.ending ≠ none → exec (.ctxsv g d h) s = .next (c.askFor d (e.setTeam k { u with ctxsv := wait })))))) ∧
    (∀ s1, normal (.ctxld g d h) s = some c → c.release (s.advance c) = (none, s1) →
      let e := c.endRegion s1
      (c.named h e = none → exec (.ctxld g d h) s = .next (answer e 1)) ∧
      ∀ k u, c.named h e = some (k, u) →
        exec (.ctxld g d h) s = .next (if u.held then answer (e.setTeam k { u with held := false }) 0 else answer e 2)) ∧
    (normal (.halt g d h) s = some c →
      (c.named h e = none → exec (.halt g d h) s = .next (answer e 1)) ∧
      (∀ u, c.named h e = some (c.tid, u) → u.state ≠ .saved →
        exec (.halt g d h) s = .next (e.endTeam c.tid 6 c.X.toNat 0)) ∧
      ∀ k u, c.named h e = some (k, u) → k ≠ c.tid →
        let r := match u.state, e.loadImage k with
          | .saved, .ok t => t
          | _, _ => e
        exec (.halt g d h) s =
          .next (c.askFor d ((r.modTeam k fun t => { t with halts := t.halts ++ [(c.gid, d)] }).endTeam k 6 c.X.toNat 0))) ∧
    (∀ p, normal (.prio g d h p) s = some c →
      let v := (c.r.ksI p).toNat
      let cap := (s.tenant c.tk).sched.toNat / 2 ^ 16 % 8
      (e.findCohort c.C.dev c.tenant (c.r.ks h) = none → exec (.prio g d h p) s = .next (answer e 0xFF)) ∧
      ∀ key x, e.findCohort c.C.dev c.tenant (c.r.ks h) = some (key, x) →
        (7 < v → exec (.prio g d h p) s = .next (answer e 0xFE)) ∧
        (v ≤ 7 → exec (.prio g d h p) s = .next
          (answer (e.modCohort key fun x => { x with lr := { x.lr with prio := min v cap } }) (BitVec.ofNat 32 x.lr.prio)))) ∧
    (∀ entry img, normal (.chset g entry d h img) s = some c →
      let n := img.reg.toNat
      exec (.chset g entry d h img) s = .next (c.askFor d (e.send (.chgiveArrival
        { sender := c.gid, group := c.T.group, dst := d, tenant := c.tenant, hall := c.r.ks h, giver := c.T.hall,
          entry := entry.toNat, image := c.r.k (n + 3) ++ c.r.k (n + 2) ++ c.r.k (n + 1) ++ c.r.k n, revoke := false,
          force := true })))) ∧
    (∀ v s1, normal (.intr g d v) s = some c → c.release (s.advance c) = (none, s1) →
      let e := c.endRegion s1
      let n := (c.r.ksI v).toNat
      exec (.intr g d v) s = .next (if (e.tenant c.tk).msix.toNat % 256 ≤ n then c.mod e fun x => x.setK d.toNat 1
        else c.mod (e.raise c.C.dev c.tenant n) fun x => x.setK d.toNat 0))

/-! ### Fabric words -/

/-- TIME `.skew` gives a spread of at most 50 ns, whatever the free value is; CNQ reads an entry of the die's rate table; SLOTW
under the grant sends the descriptor that its load gives to every device of the pod; LINKC `.on` and `.off` under the grant set
the start and the stop of the pod's rotation. Without the grant, with a bad descriptor or slot, or against what R424 asks of a
start, they trap with the cause of R426 (R418, R422, R424, R426–R428, R430). That they reach every device of the pod in the one
step, and that `.off` takes back a start that has not come, is the model's reading (log 46); the spread is a free value (logs 11
and 51). -/
def Obligations.FabricWords : Prop :=
  ∀ (s : State) (c : Ctx) (g : Guard),
    (∀ d, normal (.timeSkew g d) s = some c →
      ∃ w, w.toNat ≤ 50 ∧ exec (.timeSkew g d) s =
        .next (c.mod { s.advance c with fresh := s.fresh + 1 } fun x => x.setK d.toNat w)) ∧
    (∀ d n, normal (.cnq g d n) s = some c → (c.r.ksI n).toNat < 64 →
      exec (.cnq g d n) s = .next (s.put c (c.past.setK d.toNat
        (rateWord (Store.get none (s.dieNow c.die).rates (c.r.ksI n).toNat))))) ∧
    (∀ ptr slot, normal (.slotw g ptr slot) s = some c → c.granted s = true →
      ∀ bs t, c.fetch (c.slotReq ptr) (s.advance c) = .bytes bs t →
        let desc : BitVec 128 := BitVec.ofNat 128 (ofBytes bs)
        let n := (c.r.ks slot).toNat
        let evs := (podDevs c.T.group).map fun d => Ev.slotTableWrite d n desc c.gid
        n < 16 → slotBad desc c.T.group = false → (t.dev c.dev).run = false →
        exec (.slotw g ptr slot) s = .next (({ t with net := t.net ++ evs } : State).modGang c.gid fun g =>
          { g.setWait c.sec .acks with acks := 32 })) ∧
    (∀ t, normal (.linkcOn g t) s = some c → c.granted s = true →
      let at_ := (c.r.ks2 t).toNat
      let d := s.dev c.dev
      s.time + 10000 ≤ at_ → d.rotation ≠ [] → (∀ k ∈ podDevs c.T.group, (s.dev k).slots = d.slots) → 50 ≤ d.minGuard →
      exec (.linkcOn g t) s = .next (({ s.advance c with fresh := s.fresh + 1 } : State).modPod c.T.group fun d =>
        { d with startAt := (at_ + 999) / 1000 * 1000, spstop := false, stopAt := none })) ∧
    (normal (.linkcOff g) s = some c → c.granted s = true →
      exec (.linkcOff g) s = .next ((s.advance c).modPod c.T.group fun d =>
        if d.run then { d with stopAt := some (d.stopAt.getD (d.rotEnd s.time, false)) } else { d with startAt := 0 })) ∧
    (∀ d n, normal (.cnq g d n) s = some c → 64 ≤ (c.r.ksI n).toNat → c.mayTrap s →
      exec (.cnq g d n) s = .next (c.atTrap s 0x1D 1 0)) ∧
    (∀ i, (∃ ptr slot, i = .slotw g ptr slot) ∨ (∃ t, i = .linkcOn g t) ∨ i = .linkcOff g → normal i s = some c →
      c.granted s = false → c.mayTrap s → exec i s = .next (c.atTrap s 0x22 1 0)) ∧
    (∀ ptr slot bs t, normal (.slotw g ptr slot) s = some c → c.granted s = true → c.mayTrap s →
      c.fetch (c.slotReq ptr) (s.advance c) = .bytes bs t →
      let bad : Prop := 16 ≤ (c.r.ks slot).toNat ∨ slotBad (BitVec.ofNat 128 (ofBytes bs)) c.T.group = true
      (bad → exec (.slotw g ptr slot) s = .next (c.trapTo 0x22 2 0 c.X t)) ∧
      (¬ bad → (t.dev c.dev).run = true → exec (.slotw g ptr slot) s = .next (c.trapTo 0x22 4 0 c.X t))) ∧
    (∀ ptr slot f t, normal (.slotw g ptr slot) s = some c → c.granted s = true →
      c.fetch (c.slotReq ptr) (s.advance c) = .flt f t →
      exec (.slotw g ptr slot) s = .next (c.laneTrap (c.allFault f.code f.cause f.addr) t).2) ∧
    ∀ x, normal (.linkcOn g x) s = some c → c.granted s = true → c.mayTrap s →
      let d := s.dev c.dev
      let late : Prop := (c.r.ks2 x).toNat < s.time + 10000 ∨ d.rotation = []
      (late → exec (.linkcOn g x) s = .next (c.atTrap s 0x22 5 0)) ∧
      (¬ late → (∃ k ∈ podDevs c.T.group, (s.dev k).slots ≠ d.slots) → exec (.linkcOn g x) s = .next (c.atTrap s 0x22 4 0))

/-! ### Events of the token protocol -/

/-- TRD, TWR, TDAT, TTOK and TRET complete. A token request, and a message with tokens, that a die accepts while no clamp for
its sector stands there: TRD is answered with one token by the holder of the owner token and TWR with every token the die holds;
the tokens that arrive are added to those held, or in host bias, or for a line that its set cannot take, go home; a message
older than 20 µs, or of another cast, is discarded, the tokens of the first being reported lost (R243, R244, R247, R248, R267).
-/
def Obligations.TokenMessages : Prop :=
  ∀ (s s1 : State) (m : TokMsg),
    let sec := m.sector
    let h := m.dest
    let di := dieOfHolder sec h
    let t := s1.addHint di sec m.req
    (h < 256 → s1.holderFenced sec h = false →
      (s1.old m = false → (∀ c ∈ s1.castOf sec h, c = m.cast) → s1.standing sec h = none →
        (∀ r, t.forcePublish di sec = (true, r) →
          (Arrives (.trd m) s s1 → exec .trd s = .next (if (r.holdOf sec h).owner = true then
            r.giveTokens sec h m.req 1 ((r.holdOf sec h).count = 1) else r)) ∧
          (Arrives (.twr m) s s1 → exec .twr s = .next (if (r.holdOf sec h).count = 0 then r else
            r.giveTokens sec h m.req (r.holdOf sec h).count (r.holdOf sec h).owner))) ∧
        (s1.hostBias (secDev sec) (secPa sec) = false →
          (Arrives (.tdat m) s s1 → exec .tdat s = .next (((t.keepTokens m true).serve sec h).noPlace sec h)) ∧
          (Arrives (.ttok m) s s1 → (s1.holdOf sec h).readable = true →
            exec .ttok s = .next (((t.keepTokens m false).serve sec h).noPlace sec h))) ∧
        (s1.hostBias (secDev sec) (secPa sec) = true →
          let back := t.send (.tret { m with dest := homeH, req := h, sent := s1.time })
          (Arrives (.tdat m) s s1 → exec .tdat s = .next back) ∧ (Arrives (.ttok m) s s1 → exec .ttok s = .next back))) ∧
      (s1.old m = true →
        let lost := (s1.countAged (partOfHolder sec h)).send (.lossReport sec m.cast (tokLoss m))
        (Arrives (.tdat m) s s1 → exec .tdat s = .next lost) ∧ (Arrives (.ttok m) s s1 → exec .ttok s = .next lost)) ∧
      (s1.old m = false → (∃ c ∈ s1.castOf sec h, c ≠ m.cast) →
        (Arrives (.tdat m) s s1 → exec .tdat s = .next (s1.countStale (partOfHolder sec h))) ∧
        (Arrives (.ttok m) s s1 → exec .ttok s = .next (s1.countStale (partOfHolder sec h))))) ∧
    (s1.homeFenced sec = false → s1.standing sec homeH = none → s1.old m = false → m.cast = (s1.smetaOf sec).cast →
      h = homeH → Arrives (.tret m) s s1 → exec .tret s = .next ((s1.keepTokens m true).serve sec homeH)) ∧
    (h < 256 → ∀ (n : Nat) (own data : Bool),
      let o := s.holdOf sec h
      (s.giveTokens sec h m.req n own).holdOf sec h =
        (if n = o.count then {} else { o with count := o.count - n, owner := o.owner && !own, dirty := o.dirty && !own }) ∧
      (s.giveTokens sec h m.req n own).net = s.net ++ [(if o.owner then Ev.tdat else Ev.ttok)
        ⟨sec, m.req, o.cast, n, own, own && o.dirty, h, s.time, if o.owner then o.data else 0⟩] ∧
      ((s.keepTokens m data).holdOf sec h).count = o.count + m.count ∧
      ((s.keepTokens m data).holdOf sec h).owner = (o.owner || m.owner) ∧
      ((s.keepTokens m true).holdOf sec h).data = (if m.owner || !o.readable then m.data else o.data)) ∧
    (h = homeH → (s.keepTokens m true).homeTokOf sec = ((s.homeTokOf sec).1 + m.count, (s.homeTokOf sec).2 || m.owner) ∧
      (m.owner = true → m.dirty = true → (s.keepTokens m true).memSec sec = m.data))

/-- Recasting. A loss report of the current cast, a clamp that has stood 40 µs and a held report begin a recast when the home
unit may; a holder surrenders its tokens and takes a fence entry; the home unit collects the answers, sends TREC again after 10
µs and fences dies silent for 40 µs; the end restores the 256 tokens, with POIS set when neither the owner token nor a report of
its clean loss came; TRDONE, its acknowledgements and its resends end the unit's recast, and the fence entry is freed at its
time (R257–R260, R412). That a holder has acted on a recast when it acted on it or on one of the 127 after it is the model's
choice (log 67). -/
def Obligations.Recasts : Prop :=
  ∀ (s s1 : State),
    (∀ sec cast o, Arrives (.lossReport sec cast o) s s1 → s1.secState sec = .idle ∨ s1.secState sec = .active →
      (s1.smetaOf sec).cast = cast → s1.mayRecast sec = true →
      exec .lossReport s = .next (s1.startRecast sec (o = .clean))) ∧
    (∀ u a, s.curEv = some (.clampStallTimeout u) → (s.home u).active = some a → a.dea = false → a.done = false →
      a.at_ + 40000 ≤ s.time → s.secState a.req.sector = .active → s.mayRecast a.req.sector = true →
      exec .clampStallTimeout s = .next (s.startRecast a.req.sector false)) ∧
    (∀ u h, s.curEv = some (.recastBoundRelease u) →
      ((s.home u).held.find? fun h => s.secState h.sector = .idle || s.secState h.sector = .active) = some h →
      let t := s.modHome u fun x => { x with held := x.held.erase h }
      ((s.smetaOf h.sector).cast ≠ h.cast → exec .recastBoundRelease s = .next t) ∧
      ((s.smetaOf h.sector).cast = h.cast → s.mayRecast h.sector = true →
        exec .recastBoundRelease s = .next (t.startRecast h.sector (h.owner = .clean)))) ∧
    (∀ sec clean,
      let t := s.startRecast sec clean
      (t.smetaOf sec).cast = (s.smetaOf sec).cast + 1 ∧ t.homeTokOf sec = (0, false) ∧
      (t.home (unitOf sec)).recast = some
        { sector := sec, old := (s.smetaOf sec).cast, first := s.time, lastTx := s.time, tokens := (s.homeTokOf sec).1,
          owner := (s.homeTokOf sec).2, clean := clean || (s.home (unitOf sec)).held.any fun x =>
            x.sector = sec && x.cast = (s.smetaOf sec).cast && x.owner = .clean } ∧
      t.net = s.net ++ (s.peersOf sec).map fun h => Ev.trec (recastMsg sec h ((s.smetaOf sec).cast + 1) s.time)) ∧
    (∀ m, Arrives (.trec m) s s1 → m.dest < 256 → s1.holderFenced m.sector m.dest = false →
      let last := Store.get 0 s1.recastAct (m.sector * 512 + m.dest)
      let acted : Prop := last ≠ 0 ∧ (BitVec.ofNat 8 (last - 1) - m.cast).toNat < 128
      (acted → exec .trec s = .next (s1.send (.trca ⟨m.sector, homeH, m.cast - 1, 0, false, false, m.dest, s1.time, 0⟩))) ∧
      (¬ acted → ∃ t, exec .trec s = .next t ∧
        let o := s1.holdOf m.sector m.dest
        let mine : Bool := o.count ≠ 0 && o.cast = m.cast - 1
        t.holdOf m.sector m.dest = (if mine then {} else o) ∧
        Store.get none t.fences (m.sector * 512 + m.dest) = some ⟨m.cast, none⟩ ∧
        Store.get 0 t.recastAct (m.sector * 512 + m.dest) = m.cast.toNat + 1 ∧
        t.net = s1.net ++ [.trca ⟨m.sector, homeH, m.cast - 1, if mine then o.count else 0, mine && o.owner, mine && o.dirty,
          m.dest, s1.time, if mine && o.owner then o.data else 0⟩])) ∧
    (∀ m r, Arrives (.trca m) s s1 → (s1.home (unitOf m.sector)).recast = some r → r.sector = m.sector → r.old = m.cast →
      s1.old m = false →
      let dirty : Bool := m.owner && m.dirty
      let q : Recast := { r with answers := if r.answers.contains m.req then r.answers else m.req :: r.answers,
                                 tokens := r.tokens + m.count, owner := r.owner || m.owner, dirty := r.dirty || dirty,
                                 data := if dirty then m.data else r.data }
      let e := s1.modHome (unitOf m.sector) fun x => { x with recast := some q }
      ∃ t, exec .trca s = .next t ∧
        (¬ (s1.peersOf m.sector).all q.answers.contains → t = e) ∧
        ((s1.peersOf m.sector).all q.answers.contains → s1.standing m.sector homeH = none →
          t.homeTokOf m.sector = (256, true) ∧ (t.home (unitOf m.sector)).recast = none ∧
          (t.smetaOf m.sector).pois = ((s1.smetaOf m.sector).pois || (!q.owner && !q.clean)) ∧
          (q.owner = true → q.dirty = true → t.memSec m.sector = q.data) ∧
          t.net = s1.net ++ (s1.peersOf m.sector).map fun h => Ev.trdone (recastMsg m.sector h (r.old + 1) s1.time))) ∧
    (∀ u r, s.curEv = some (.trecResend u) → (s.home u).recast = some r → r.lastTx + 10000 ≤ s.time →
      exec .trecResend s = .next { (s.modHome u fun x => { x with recast := some { r with lastTx := s.time } }) with
        trecAt := Store.set 0 s.trecAt r.sector (s.time + 1)
        net := s.net ++ ((s.peersOf r.sector).filter fun h => !r.answers.contains h).map (fun h =>
          Ev.trec (recastMsg r.sector h (r.old + 1) s.time)) }) ∧
    (∀ u r, s.curEv = some (.recastAnswerTimeout u) → (s.home u).recast = some r → r.first + 40000 ≤ s.time →
      exec .recastAnswerTimeout s = .next (((s.peersOf r.sector).filter fun h => h < 256 && !r.answers.contains h).foldl
        (fun s h => s.fenceDie (dieOfHolder r.sector h)) s)) ∧
    (∀ m f, Arrives (.trdone m) s s1 → s1.holderFenced m.sector m.dest = false →
      Store.get none s1.fences (m.sector * 512 + m.dest) = some f → f.cast = m.cast → f.till = none →
      let g : Option Fence := some { f with till := some (s1.time + 20000) }
      exec .trdone s = .next (({ s1 with fences := Store.set none s1.fences (m.sector * 512 + m.dest) g } : State).send
          (.trdack { m with dest := homeH, req := m.dest, sent := s1.time }))) ∧
    (∀ m r, Arrives (.trdack m) s s1 → (s1.home (unitOf m.sector)).done = some r → r.sector = m.sector → r.old + 1 = m.cast →
      let acks := if r.acks.contains m.req then r.acks else m.req :: r.acks
      exec .trdack s = .next (if (s1.peersOf m.sector).all acks.contains then
        s1.modHome (unitOf m.sector) fun x => { x with done := none, relAt := s1.time + 21000 }
      else s1.modHome (unitOf m.sector) fun x => { x with done := some { r with acks := acks } })) ∧
    (∀ u r, s.curEv = some (.trdoneResend u) → (s.home u).done = some r → r.lastTx + 10000 ≤ s.time →
      exec .trdoneResend s = .next { (s.modHome u fun x => { x with done := some { r with lastTx := s.time } }) with
        net := s.net ++ ((s.peersOf r.sector).filter fun h => !r.acks.contains h).map (fun h =>
          Ev.trdone (recastMsg r.sector h (r.old + 1) s.time)) }) ∧
    (∀ h sec f t, s.curEv = some (.recastFenceExpiry h sec) → Store.get none s.fences (sec * 512 + h) = some f →
      f.till = some t → t ≤ s.time →
      exec .recastFenceExpiry s = .next { s with fences := Store.erase s.fences (sec * 512 + h) })

/-- Attempts and clamps. An attempt past its bound is followed by the next one, and after the third, or at 4 µs, the holder
raises a clamp, which is sent again while its home unit does not know of it; CLMP is queued; a batch is the queue, served a
clamp at a time; CLACT makes a holder send its tokens to the requester and answer; CLDONE and every answer deactivate the
clamp, and every answer to CLDEA ends it; a control message without its answer is sent again (R251, R253–R256, R465). -/
def Obligations.Clamps : Prop :=
  ∀ (s s1 : State),
    let waited (x : Miss) : Prop := x.sent + (if x.far then 1500 else 1000) ≤ s.time
    let goesOn (x : Miss) : Prop := x.clamped = false ∧ x.attempt < 3 ∧ waited x ∧ s.time < x.first + 4000
    let starves (x : Miss) : Prop := x.clamped = false ∧ (x.first + 4000 ≤ s.time ∨ (x.attempt = 3 ∧ waited x))
    let asksAgain (x : Miss) : Prop := x.clamped = true ∧ s.clampLost x = true ∧ x.sent + 1000 ≤ s.time
    let first (p : Miss → Prop) (m : Miss) (pre : List Miss) : Prop :=
      p m ∧ ∀ x ∈ pre, x.holder = m.holder → x.sector = m.sector → ¬ p x
    (∀ m pre rest, s.misses = pre ++ m :: rest →
      (∀ x ∈ s.misses, x.holder = m.holder → x.sector = m.sector → s.holdsFor m.sector m.holder x.write = false) →
      (s.curEv = some (.transientAttemptTimeout m.holder m.sector) → first goesOn m pre →
        let n := m.attempt + 1
        ∃ q, exec .transientAttemptTimeout s =
            .next (({ s with misses := s.misses.map fun x => if x = m then q else x } : State).sendAttempt m.holder m.sector
              m.write n) ∧
          q = { m with attempt := n, sent := s.time, far := farSet m.holder m.sector (s.requestSet m.holder m.sector n) }) ∧
      (s.curEv = some (.clampRaiseBound m.holder m.sector) → first starves m pre →
        (m.flux = false → exec .clampRaiseBound s =
          .next (({ s with misses := s.misses.map fun x => if x = m then { m with clamped := true, sent := s.time } else x }
            : State).send (.clmp m.clamp))) ∧
        (m.flux = true → exec .clampRaiseBound s = .next { s with misses := s.misses.erase m }))) ∧
    (∀ m pre rest, s.misses = pre ++ m :: rest → first asksAgain m pre → s.curEv = some (.clmpRetry m.holder m.sector) →
      exec .clmpRetry s = .next (({ s with misses := s.misses.map fun x => if x = m then { m with sent := s.time } else x }
        : State).send (.clmp m.clamp))) ∧
    (∀ m, Arrives (.clmp m) s s1 → (s1.home m.unit).queue.length < 64 →
      (s1.home m.unit).knows ⟨m.sector, m.req, m.write⟩ = false →
      exec .clmp s = .next (s1.modHome m.unit fun u => { u with queue := u.queue ++ [⟨m.sector, m.req, m.write⟩] })) ∧
    (∀ m, Arrives (.clmp m) s s1 → 64 ≤ (s1.home m.unit).queue.length → exec .clmp s = .next s1) ∧
    (∀ u q rest, s.curEv = some (.clampBatchSelect u) → (s.home u).active = none → s.secState q.sector = .idle →
      s.homeFenced q.sector = false →
      ((s.home u).batch = q :: rest → exec .clampBatchSelect s = .next (s.activate u q rest)) ∧
      ((s.home u).batch = [] → batchOrder (s.home u).queue = q :: rest →
        exec .clampBatchSelect s = .next ((s.modHome u fun x => { x with queue := [] }).activate u q rest))) ∧
    (∀ m, Arrives (.clact m) s s1 → m.peer < 256 → m.req ≠ m.peer → s1.holderFenced m.sector m.peer = false →
      (∀ c, Store.get none s1.clampTab (m.unit * 512 + m.peer) = some c → c.num < m.num) →
      let o := s1.holdOf m.sector m.peer
      ∃ t, exec .clact s = .next t ∧ t.holdOf m.sector m.peer = (if o.count = 0 then o else {}) ∧
        Store.get none t.clampTab (m.unit * 512 + m.peer) = some ⟨m.num, true, m.write, m.sector, m.req⟩ ∧
        t.net = s1.net ++ (if o.count = 0 then [] else [(if o.owner then Ev.tdat else Ev.ttok) ⟨m.sector, m.req, o.cast,
          o.count, o.owner, o.owner && o.dirty, m.peer, s1.time, if o.owner then o.data else 0⟩]) ++ [.clack m false]) ∧
    (∀ m a dea, Arrives (.clack m dea) s s1 → (s1.home m.unit).active = some a → a.num = m.num → a.dea = dea →
      let acks := if a.acks.contains m.peer then a.acks else m.peer :: a.acks
      let all := (s1.peersOf a.req.sector).all acks.contains
      let kept := s1.modHome m.unit fun x => { x with active := some { a with acks := acks } }
      (¬ all → exec .clack s = .next kept) ∧
      (all → dea = true → exec .clack s = .next (s1.modHome m.unit fun x => { x with active := none })) ∧
      (all → dea = false → a.done = false → s1.holderFenced a.req.sector a.req.req = false → exec .clack s = .next kept) ∧
      (all → dea = false → a.done = true → s1.secState a.req.sector = .active → exec .clack s = .next
        { (s1.modHome m.unit fun x => { x with active := some { a with dea := true, acks := [] } }) with
          net := s1.net ++ (s1.peersOf a.req.sector).map fun h =>
            Ev.cldea ⟨m.unit, a.num, a.req.sector, a.req.req, a.req.write, h⟩ })) ∧
    (∀ m a, Arrives (.cldone m) s s1 → (s1.home m.unit).active = some a → a.num = m.num →
      (∃ h ∈ s1.peersOf a.req.sector, h ∉ a.acks) →
      exec .cldone s = .next (s1.modHome m.unit fun x => { x with active := some { a with done := true } })) ∧
    (∀ m c, Arrives (.cldea m) s s1 → s1.holderFenced m.sector m.peer = false →
      Store.get none s1.clampTab (m.unit * 512 + m.peer) = some c → c.num = m.num →
      let t : State := { s1 with clampTab := Store.set none s1.clampTab (m.unit * 512 + m.peer) (some { c with live := false }) }
      exec .cldea s = .next ((if m.peer < 256 ∧ s1.hostBias (secDev m.sector) (secPa m.sector) = true then
        t.retTokens (dieOfHolder m.sector m.peer) m.sector else t).send (.clack m true))) ∧
    (∀ k m, s.curEv = some (.controlMessageResend k m) → s.unanswered k m = true →
      exec .controlMessageResend s = .next (s.send (match k with
        | .clmp => .clmp m
        | .clact => .clact m
        | .cldea => .cldea m
        | .cldone => .cldone m)))

/-! ### Events of memory, translation and timed waits -/

/-- The events of memory, translation and publication complete. A completion that is bound writes its destinations and its
gang's interlocks end; a home access performs the lanes that can be performed and stays in flight for the others; a walk whose
tables can be read ends with what they give, those of another device by a request to it; TLBI drops every entry it names and its
gang goes on after the last acknowledgement; a fabric entry expires after 1 ms; a fill enters the line; a core with bytes dirty
for 32 µs publishes (R189, R193–R196, R210, R227, R239, R262, R404). Which die of another device walks for a request is the
model's choice (log 82). -/
def Obligations.MemoryEvents : Prop :=
  ∀ (s s1 : State),
    (∀ id a, s1.accesses.find? (·.id = id) = some a → a.bound = true →
      let t := ({ s1.finish a with accesses := s1.accesses.filter (·.id ≠ id) } : State).repay a.gang id
      (Arrives (.loadDataReturn id) s s1 → exec .loadDataReturn s = .next t) ∧
      (Arrives (.storePerformed id) s s1 → exec .storePerformed s = .next t)) ∧
    (∀ id a, Arrives (.homeAccessRequest id) s s1 → s1.accesses.find? (·.id = id) = some a →
      (∀ b ∈ s1.accesses, b.id = id → ∀ y ∈ b.lanes, y.got = none → s1.windowDown b y = false ∧
        (y.place = .home → ∀ sec, y.loc.sec? = some sec → s1.homeFenced sec = false)) →
      let more (t : State) (b : Access) : State :=
        if b.lanes.any fun y => y.got.isNone && y.far then t.send (.homeAccessRequest id) else t
      let r := s1.farLanes (fun _ => true) a
      exec .homeAccessRequest s = .next (if s1.circWaits (devOfDie a.die) id = true then more s1 a
        else more ((r.1.setAccess r.2).reportAccess r.2) r.2)) ∧
    (∀ w, s.curEv = some (.walkComplete w.id) → s.walks.find? (fun x => x.id = w.id && x.res.isNone) = some w →
      (w.remote = false → let r := s.walkReads w.die w.dev w.tenant w.page
        exec .walkComplete s = .next (if r.1 = true then r.2.endWalk w (r.2.walk w.dev w.tenant w.page) else r.2)) ∧
      (∀ r, w.remote = true → w.ans = some r → exec .walkComplete s = .next (s.endWalk w r))) ∧
    (∀ w, Arrives (.remoteWalkRequest w.id) s s1 → s1.walks.find? (fun x => x.id = w.id && x.ans.isNone) = some w →
      s1.circWaits (devOfDie w.die) w.id = false →
      let r := s1.walkReads (s1.walkDie w.dev w.die) w.dev w.tenant w.page
      exec .remoteWalkRequest s = .next (if r.1 = true then { r.2 with walks := r.2.walks.map fun x =>
          if x.id = w.id then { x with ans := some (r.2.walk w.dev w.tenant w.page) } else x }
        else r.2.send (.remoteWalkRequest w.id))) ∧
    (∀ di tenant range gid, Arrives (.tlbiRequest di tenant range gid) s s1 → ∃ t, exec .tlbiRequest s = .next t ∧
      (t.die di).tlb = (s1.die di).tlb.filter (fun e => !e.named tenant range) ∧
      (∀ k < 48, (t.core (coreKey di k)).ltlb =
        (s1.core (coreKey di k)).ltlb.filter (fun e => !e.named tenant range)) ∧
      ∀ g, s1.gang? gid = some g → t.gang? gid = some (if g.acks ≤ 1 then { g.wake .acks with
          eligAt := s1.time
          acks := 0 }
        else { g with acks := g.acks - 1 })) ∧
    (∀ di, s.curEv = some (.fabricTlbExpiry di) → ∃ t, exec .fabricTlbExpiry s = .next t ∧
      (t.die di).tlb = (s.die di).tlb.filter (fun e => !(e.fab && e.at_ + 1000000 ≤ s.time)) ∧
      ∀ k < 48, (t.core (coreKey di k)).ltlb =
        (s.core (coreKey di k)).ltlb.filter fun e => !(e.fab && e.at_ + 1000000 ≤ s.time)) ∧
    (∀ f, Arrives (.lineFillComplete f) s s1 → (s1.die f.die).fenced = false → s1.bypasses f.die f.line = false →
      s1.hostBias (secDev (2 * f.line)) (secPa (2 * f.line)) = false →
      s1.hostBias (secDev (2 * f.line + 1)) (secPa (2 * f.line + 1)) = false →
      let h := holderOfDie f.die
      let secs := [2 * f.line, 2 * f.line + 1]
      let r := s1.fillReady f
      let t := r.2.touchLine f.die f.line f.stream f.persist
      (r.1 = true → exec .lineFillComplete s = .next (match f.core with
        | none => t
        | some ck => secs.foldl (fun s sec => s.l1Fill ck (l1Key sec f.priv) (s.holdOf sec h).data f.stream) t)) ∧
      (r.1 = false → exec .lineFillComplete s = .next (if s1.misses.any fun m => m.holder = h && secs.contains m.sector then
        r.2.send (.lineFillComplete f) else r.2))) ∧
    (∀ ck, s.curEv = some (.scopeFilterTimedPublish ck) → s.overdue ck = true →
      exec .scopeFilterTimedPublish s =
        .next ((s.modDie (ck / 48) fun d => { d with scfTimed := min (d.scfTimed + 1) 0xFFFFFFFF }).publishCore ck).2)

/-- Timed waits and flux passes: a WAITLN looks at its words again, at its bound at the latest; a sleeping gang wakes at its
time; a gang enters a flux pass where R375 allows one and leaves it at its end (R224, R363, R375, R382, R383). -/
def Obligations.WaitEvents : Prop :=
  ∀ (s : State) (gid : Nat) (g : Gang), s.gang? gid = some g →
    let after (f : Wait → Wait) : State := s.setGang gid { g.mapWait f with eligAt := s.time }
    (∀ since till, g.wait = .watch since till ∨ g.wait2 = .watch since till →
      (s.curEv = some (.waitlnReread gid) → exec .waitlnReread s = .next (after fun w => match w with
        | .watch since _ => .recheck since
        | w => w)) ∧
      (s.curEv = some (.waitlnTimeout gid) → till ≤ s.time → exec .waitlnTimeout s = .next (after fun w => match w with
        | .watch since till => if till ≤ s.time then .recheck since else w
        | w => w))) ∧
    (∀ till, g.wait = .sleep till ∨ g.wait2 = .sleep till → till ≤ s.time → s.curEv = some (.sleepExpiry gid) →
      exec .sleepExpiry s = .next (after fun w => match w with
        | .sleep till => if till ≤ s.time then .ready else w
        | w => w)) ∧
    (∀ f, s.canFlux gid g = some f → s.curEv = some (.fluxPassEntry gid) →
      exec .fluxPassEntry s = .next (s.setGang gid
        { g with flux := some f, fluxPasses := satInc g.fluxPasses, wait := .ready })) ∧
    (g.passOver = true → s.curEv = some (.fluxPassEnd gid) → exec .fluxPassEnd s = .next (s.endFlux gid))

/-! ### Events of the host, of bias and of pools -/

/-- The events of the host, of its recalls, of bias flips, shelves and ports complete. A host request for tokens starts where
the filter lacks them; a write back returns the host's tokens home with what it wrote; an answer or 2 ms of silence ends a
recall; a flip ends once its page is idle, its L1 lines are dropped and its tokens are home; a failed shelf, or an access to it
without completion for 2 ms, fences its windows; a shelf that is back sets SHELFUP; a port that goes down stops the host's
accesses, recalls its tokens, ends the accesses to host memory behind it and fences the windows behind it (R264–R266, R268–R271,
R400, R432). That a back-invalidation of a pool changes nothing is the model's reading (log 37): the device caches no line of a
pool. -/
def Obligations.HostEvents : Prop :=
  ∀ (s : State) (hub sec : Nat) (data : Option (BitVec 512)),
    let h := hostHolder hub
    let o := s.holdOf sec h
    let w : Hold := match data with
      | some d => if o.count = 256 then { o with data := d, dirty := true } else o
      | none => o
    (s.curEv = some (.hostRead hub sec) → (s.hub hub).portUp = true → hostSector hub sec = true → (s.hub hub).filtered sec = 0 →
      exec .hostRead s = .next (s.request h sec false false)) ∧
    (s.curEv = some (.hostReadForOwnership hub sec) → (s.hub hub).portUp = true → hostSector hub sec = true →
      (s.hub hub).filtered sec ≠ 256 → exec .hostReadForOwnership s = .next (s.request h sec true false)) ∧
    (s.curEv = some (.hostWriteback hub sec data) → (s.hub hub).portUp = true → (s.hub hub).filtered sec ≠ 0 → o.count ≠ 0 →
      ∃ t, exec .hostWriteback s = .next t ∧ t.holdOf sec h = {} ∧ (t.hub (hubOfHolder sec h)).filtered sec = 0 ∧
        t.net = s.net ++ [.tret ⟨sec, homeH, o.cast, o.count, o.owner, o.owner && w.dirty, h, s.time,
          if o.owner then w.data else 0⟩]) ∧
    (∀ r, (s.hub hub).recalls.find? (·.sector = sec) = some r →
      let gone : Hub → Hub := fun b => { b with recalls := b.recalls.filter (·.sector ≠ sec) }
      (s.curEv = some (.birsp hub sec data) →
        exec .birsp s = .next (((s.modHub hub gone).hostWrote sec h data).answerRecall hub r)) ∧
      (s.curEv = some (.hostSilentTimeout hub sec) → r.till ≤ s.time →
        ∃ t : State, exec .hostSilentTimeout s = .next (t.answerRecall hub r) ∧ t.holdOf sec h = {} ∧
          (t.hub hub).filtered sec = 0 ∧ (t.hub hub).recalls = (s.hub hub).recalls.filter (·.sector ≠ sec) ∧
          t.net = s.net ++ (if o.owner then [.lossReport sec o.cast .dirty] else []))) ∧
    (∀ dev page f, s.curEv = some (.biasFlipComplete dev page) → (s.dev dev).flips.find? (·.page = page) = some f →
      exec .biasFlipComplete s =
        .next (if s.pageBusy dev page = true then s else (s.clearPageL1 dev page).endFlip dev f)) ∧
    (∀ p q, s.curEv = some (.poolBackInvalidation p q) → exec .poolBackInvalidation s = .next s) ∧
    (∀ shelf, s.curEv = some (.shelfFailure shelf) → exec .shelfFailure s = .next (s.failShelf shelf)) ∧
    (∀ id a y x, s.curEv = some (.poolCompletionTimeout id) →
      (s.accesses.find? fun a => a.id = id && a.at_ + 2000000 ≤ s.time) = some a →
      (a.lanes.find? fun y => y.got.isNone && y.place = .pool) = some y → y.loc = .pool x →
      exec .poolCompletionTimeout s = .next (s.failShelf (x / 2 ^ 64))) ∧
    (∀ shelf, (∀ a ∈ s.accesses, ∀ y ∈ a.lanes, y.got = none → ∀ x, y.loc ≠ .pool x) →
      ∃ t, s.failShelf shelf = { s with tenants := t } ∧ ∀ k, Store.get {} t k =
        (if (s.tenant k).shelf = shelf ∧ (s.tenant k).pwsz ≠ 0 then { s.tenant k with fenced := true, shelfUp := false }
         else s.tenant k)) ∧
    (∀ shelf, s.curEv = some (.shelfLinkUp shelf) → ∃ t, exec .shelfLinkUp s = .next { s with tenants := t } ∧
      ∀ k x, (k, x) ∈ t ↔ ∃ y, (k, y) ∈ s.tenants ∧ x = (if y.shelf = shelf then { y with shelfUp := true } else y)) ∧
    (s.curEv = some (.cxlLinkDown hub) → ∃ t, exec .cxlLinkDown s = .next t ∧ (t.hub hub).portUp = false ∧
      (∀ x w, t.hostAsk hub x w = t) ∧
      (∀ e ∈ (s.hub hub).filter, hubOfHolder e.sector (hostHolder hub) = hub →
        ∃ r ∈ (t.hub hub).recalls, r.sector = e.sector) ∧
      (∀ a ∈ t.accesses, ∀ y ∈ a.lanes, y.got = none → ∀ x, y.loc = .host x → x / 2 ^ 64 = hub / 2 →
        t.hostUp (hub / 2) = true) ∧
      ∀ k, k / 16 = hub / 2 → (s.tenant k).pwsz ≠ 0 → Config.shelfPort (hub / 2) (s.tenant k).shelf = decide (hub % 2 = 1) →
        (t.tenant k).fenced = true)

/-! ### Events of the engines -/

/-- The events of the copy and matrix engines complete. A transfer that nothing holds joins its circuit queue, or runs: one that
comes to its end without lacking a token is done, its first fault filling its group's record, and one that lacks a token keeps
what it has come to; a transfer that is done leaves its group and the scoreboard once its core has published what it wrote and
dropped those lines; a timed send that is due writes its destination and reads its source, and once it has read it all, to another
group in circuit mode, joins its queue; a fault of a collective's step aborts it; the head of a core's matrix queue runs and leaves
(R237, R283, R287, R300, R303, R341, R423, R431). That what a transfer has come to is kept is the model's reading (log 38), and
that every transfer for another group joins its circuit queue too (log 46). -/
def Obligations.EngineEvents : Prop :=
  ∀ (s : State),
    (∀ q, s.xfers.find? (·.id = q.id) = some q → s.curEv = some (.copyTransferStart q.id) →
      (∀ len, q.begun = true → q.unread = some len → exec .copyTransferStart s = .next (s.sendRead q len)) ∧
      (q.begun = false ∨ q.unread = none → s.xferHeld q = true → exec .copyTransferStart s = .next s)) ∧
    (∀ q, s.xfers.find? (·.id = q.id) = some q → s.curEv = some (.copyTransferStart q.id) → s.xferHeld q = false →
      q.begun = false ∨ q.unread = none →
      let circuit : Prop := q.begun = false ∧ q.farGroups ≠ [] ∧ (s.dev (devOfDie q.die)).run = true
      let r := q.run s
      let t := r.2.s.modXfer q.id fun y => { y with
        begun := true
        done := true
        wrote := r.2.wrote.eraseDups
        data := r.1
        log := []
        needs := none
        feed := none
        bad := [] }
      let fs := q.bad ++ r.2.faults
      (circuit → exec .copyTransferStart s =
        .next ((q.farGroups.foldl (fun s g => s.circJoin (devOfDie q.die) g q.id (rcpyRows q.geo * rcpyLen q.geo)) s).modXfer
          q.id fun y => { y with begun := true })) ∧
      (¬ circuit → r.2.stall ≠ none → exec .copyTransferStart s = .next (r.2.s.modXfer q.id fun y =>
        { y with begun := true, log := r.2.log, needs := r.2.needs, feed := none, byp := r.2.byp })) ∧
      (¬ circuit → r.2.stall = none →
        (fs = [] → exec .copyTransferStart s = .next t) ∧
        (fs ≠ [] → (∀ j act, q.kind ≠ .coll j act) →
          exec .copyTransferStart s = .next (t.modXferGroup q fun g => g.record q.code fs)) ∧
        (∀ j act f rest u, q.kind = .coll j act → fs = f :: rest → r.2.s.team? q.team = some u →
          exec .copyTransferStart s = .next (({ r.2.s with xfers := r.2.s.xfers.filter (·.id ≠ q.id) } : State).send
            (.collAbort q.team j 4 f.cause (u.coll j).me))))) ∧
    (∀ q, s.xfers.find? (·.id = q.id) = some q → s.curEv = some (.copyTransferRetire q.id) → q.done = true →
      let ls := (q.wrote.map lineOfSec).eraseDups
      let r := s.pubAll q.core ls
      let t := ls.foldl (fun s l => (s.setL1 q.core (2 * l) {}).setL1 q.core (2 * l + 1) {}) r.2
      let out : State := { t with xfers := t.xfers.filter (·.id ≠ q.id) }
      (r.1 = false → exec .copyTransferRetire s = .next r.2) ∧
      (r.1 = true → (∀ j act, q.kind ≠ .coll j act) →
        exec .copyTransferRetire s = .next (out.modXferGroup q fun g => { g with inflight := g.inflight - 1 })) ∧
      (∀ j act, r.1 = true → q.kind = .coll j act →
        exec .copyTransferRetire s = .next ((out.collRetire q.team j act (q.data.map (·.getD 0))).getD t))) ∧
    (∀ q due len dst, s.xfers.find? (·.id = q.id) = some q → s.curEv = some (.tsndDue q.id) → q.kind = .tsnd due len dst →
      q.begun = false → due ≤ s.time →
      exec .tsndDue s = .next ((((s.modXfer q.id fun y => { y with begun := true, unread := some len }).inImage q.team fun s =>
        s.modRegs q.gang fun x => x.setK dst.toNat q.geo1).repay q.gang q.id).sendRead q len)) ∧
    (∀ q len, (∀ t, s.team? q.team = some t → t.away = true → ptrSpace q.src ≠ 1) →
      let r := ({ s := s, old := q.log, feed := q.fed, byp := q.byp } : EngRun).read q.eng (ptrSpace q.src) 0 0 q.src len
      let read := r.2.s.modXfer q.id fun y => { y with
        unread := none
        data := r.1
        bad := r.2.faults
        log := []
        needs := none
        feed := none
        byp := [] }
      (r.2.stall = none → s.sendRead q len =
        q.farGroups.foldl (fun s g => s.circJoin (devOfDie q.die) g q.id len) read) ∧
      (r.2.stall ≠ none → s.sendRead q len = r.2.s.modXfer q.id fun y =>
        { y with log := r.2.log, needs := r.2.needs, feed := none, byp := r.2.byp })) ∧
    (∀ ck m t, s.matHead ck = some m → s.team? m.team = some t →
      (s.curEv = some (.matrixInstructionStart ck) → (m.begun && m.op.finished) = false → s.barred m.id m.team m.board = false →
        exec .matrixInstructionStart s = .next { s.setTeam m.team (t.matRun m.op).1 with
          mats := s.mats.map fun x => if x.id = m.id then { x with begun := true, op := (t.matRun m.op).2 } else x }) ∧
      (s.curEv = some (.matrixRetire ck) → m.begun = true → m.op.finished = true →
        exec .matrixRetire s = .next { s with mats := s.mats.filter (·.id ≠ m.id) }))

/-- The events of barriers and of messages between teams complete. An arrival at a circle is recorded for its phase and may end
it; a member told of the end of the phase it waits for goes on unless its team is away; a remote store is delivered, or answered
dead or of another tenant; a full inbox's store is sent again; an answer lowers OUT and marks its fate; CHGIVE and CHSET set,
replace or revoke the entry by its owner, with the status R326 gives; an answer writes its destination; that it drops the clean
lines of the gang's core, whatever asked, is the model's choice (log 83; R316, R323–R326, R405). -/
def Obligations.MessageEvents : Prop :=
  ∀ (s s1 : State),
    (∀ ck circle gid phase c t, Arrives (.circleArrival ck circle gid phase) s s1 → s1.cohort? ck = some c →
      s1.team? (gid / 256) = some t → t.cohort = ck →
      let b := Store.get {} c.circs circle
      b.phase = phase → (t.tidx, gid % 256) ∉ b.arr →
      let circs := Store.set {} c.circs circle { b with arr := b.arr ++ [(t.tidx, gid % 256)] }
      exec .circleArrival s = .next ((s1.modCohort ck fun x => { x with circs := circs }).circleBarrier ck circle)) ∧
    (∀ gid circle phase g, Arrives (.phaseEndNotice gid circle phase) s s1 → s1.gang? gid = some g →
      (g.bar = some ⟨some circle, phase⟩ → (∀ t, s1.team? g.team = some t → t.away = false) →
        exec .phaseEndNotice s = .next (s1.leaveBar gid)) ∧
      (g.bar ≠ some ⟨some circle, phase⟩ ∨ (∃ t, s1.team? g.team = some t ∧ t.away = true) →
        exec .phaseEndNotice s = .next s1)) ∧
    (∀ m, Arrives (.remoteStoreArrival m) s s1 →
      (s1.byHall m.group m.hall = none → exec .remoteStoreArrival s = .next (s1.ackStore m .dead)) ∧
      ∀ tid t, s1.byHall m.group m.hall = some (tid, t) →
        (s1.ofTenant t m.tenant = false → exec .remoteStoreArrival s = .next (s1.ackStore m .xten)) ∧
        (s1.ofTenant t m.tenant = true →
          exec .remoteStoreArrival s = .next (s1.inImage tid fun s =>
            if t.state = .restart then s.deliverStore tid m else (s.deliverStore tid m).endRegion tid))) ∧
    (∀ m, Arrives (.remoteStoreRetry m) s s1 → exec .remoteStoreRetry s =
      .next ((s1.modMark m.sender m.chan m.stream fun x => { x with retries := min (x.retries + 1) 255 }).send
        (.remoteStoreArrival m))) ∧
    (∀ gid chan stream f, Arrives (.remoteStoreAck gid chan stream f) s s1 → s1.streamNow gid chan stream = true →
      exec .remoteStoreAck s = .next ((s1.modMark gid chan stream fun x => x.fate f).inImage (gid / 256) fun s =>
        s.modGang gid fun g => { g with out := Store.upd 0 g.out chan (· - 1) })) ∧
    (∀ m, Arrives (.chgiveArrival m) s s1 → ∃ n t, exec .chgiveArrival s =
        .next (t.send (.remoteAnswer m.sender m.dst (BitVec.ofNat 32 n))) ∧
      (s1.byHall m.group m.hall = none → n = 2 ∧ t = s1) ∧
      ∀ tid u, s1.byHall m.group m.hall = some (tid, u) →
        (u.live = false → n = 2 ∧ t = s1) ∧
        (u.live = true → s1.ofTenant u m.tenant = false → n = 3 ∧ t = s1) ∧
        (u.live = true → s1.ofTenant u m.tenant = true →
          let e := s1.chanOf tid m.entry
          let mine : Bool := chValid e && chHall e = m.giver
          (m.force = true → m.image.toNat < 2 ^ 68 → n = 0 ∧ t = s1.setChan tid m.entry m.image) ∧
          (m.force = true → 2 ^ 68 ≤ m.image.toNat → n = 4 ∧ t = s1) ∧
          (m.force = false → m.revoke = true → mine = true → n = 0 ∧ t = s1.setChan tid m.entry (chInvalid e)) ∧
          (m.force = false → m.revoke = true → mine = false → n = 5 ∧ t = s1) ∧
          (m.force = false → m.revoke = false → chValid e = false ∨ mine = true →
            n = 0 ∧ t = s1.setChan tid m.entry m.image) ∧
          (m.force = false → m.revoke = false → chValid e = true → mine = false → n = 1 ∧ t = s1))) ∧
    (∀ gid dst v, Arrives (.remoteAnswer gid dst v) s s1 →
      let t := (s1.inImage (gid / 256) fun s => s.modRegs gid fun x => x.setK dst.toNat v).modGang gid fun g =>
        { g with owed := g.owed.erase (0, .k dst.toNat) }
      exec .remoteAnswer s = .next (match t.gangCore gid with
        | some ck => t.dropCleanAll ck
        | none => t))

/-- The events of collectives complete. The sequencer matches a posted collective or runs its steps; a collective that is not
matched in its time ends in ERROR with status 3; a step that arrives lands in the cell of the staging area that its permit is for,
its permit returns to its sender, and it waits for a team that is away; a permit that is granted or returned and an abort take
effect at the slot they name (R333–R341). In which part a step lands and when its permit returns is the model's choice (log 76). -/
def Obligations.CollectiveEvents : Prop :=
  ∀ (s s1 : State),
    (∀ key t, Arrives (.collMatch key) s s1 → s1.team? (key / 4) = some t →
      ((t.coll (key % 4)).state = .matching →
        exec .collMatch s = .next (s1.collMatch (key / 4) (key % 4) t (t.coll (key % 4)))) ∧
      ((t.coll (key % 4)).state = .run → exec .collMatch s = .next (s1.pump (key / 4) (key % 4) 65536)) ∧
      ((t.coll (key % 4)).state ≠ .matching → (t.coll (key % 4)).state ≠ .run → exec .collMatch s = .next s1)) ∧
    (∀ tid j t, s.curEv = some (.collMatchTimeout tid j) → s.team? tid = some t →
      let x := t.coll j
      x.state = .matching → x.block.tmo ≠ 0 → x.since + x.block.tmo * 1000000 ≤ s.time →
      exec .collMatchTimeout s = .next (s.abortColl tid j 3 0 0)) ∧
    (∀ m, Arrives (.collStepArrival m) s s1 →
      (s1.collRank m.coll m.dst = none → exec .collStepArrival s = .next s1) ∧
      ∀ tid j t x, s1.collRank m.coll m.dst = some (tid, j, t, x) →
        (t.state ≠ .resident → t.state ≠ .stopping → exec .collStepArrival s = .next (s1.send (.collStepArrival m))) ∧
        (t.state = .resident ∨ t.state = .stopping →
          (x.lands m = none → exec .collStepArrival s = .next (s1.send (.collStepArrival m))) ∧
          ∀ p right, x.lands m = some (p, right) →
            let u := s1.land tid j t x (s1.collView t x).n p right m.data
            exec .collStepArrival s = .next ((if m.final = true then u else u.consumed tid j m.src x).pump tid j 65536))) ∧
    (∀ tid j peer, Arrives (.permitReturn tid j peer true) s s1 → exec .permitReturn s =
      .next ((s1.modColl tid j fun y => { y with held := Store.upd 0 y.held peer (· + 1) }).pump tid j 65536)) ∧
    (∀ tid j peer, Arrives (.permitReturn tid j peer false) s s1 → exec .permitReturn s =
      .next ((s1.modColl tid j fun y => { y with step := y.step + 1 }).pump tid j 65536)) ∧
    (∀ tid j status cause rank, Arrives (.collAbort tid j status cause rank) s s1 →
      exec .collAbort s = .next (s1.abortColl tid j status cause rank))

/-! ### Events of launch, dispatch and movement -/

/-- The events of launch, dispatch and movement complete. A cohort whose dependences are met is dispatched and one whose
dependence failed is cancelled; the next team of the first cohort goes to a start queue, starts where it fits, is stolen by an
idle core or sent to another die, and is installed there; a team is stopped for one of higher priority that has waited 10 µs, or
after its tenant's slice when another tenant's team waits; it is saved, restarted or ended once its work has ended, and placed
again; an active gang makes room for one that has waited 20 µs (R354, R358, R359, R362, R364–R366, R368–R370, R373, R396, R403).
Which core's start queue a team joins, and that teams waiting there count as taking room, are the model's reading (log 22), as
are the moments at which a team is sent to another die, installed there and sent back (log 23), and that nothing is dispatched
while its device starts (log 47). -/
def Obligations.SchedulingEvents : Prop :=
  ∀ (s s1 : State),
    (∀ (ck : Nat) (c : Cohort), s.cohort? ck = some c →
      let st (d : Word) : Option Nat := if d = 0 then some 0 else ((s.findCohort c.dev c.tenant d).bind fun p => p.2.status)
      (s.curEv = some (.cohortDependenceMet ck) → c.state = .depwait →
        (c.depFail = true ∨ (∃ n, st c.lr.dep0 = some n ∧ n ≠ 0) ∨ (∃ n, st c.lr.dep1 = some n ∧ n ≠ 0) →
          exec .cohortDependenceMet s = .next (s.finishCohort ck .cancelled)) ∧
        (c.depFail = false → st c.lr.dep0 = some 0 → st c.lr.dep1 = some 0 →
          exec .cohortDependenceMet s = .next (({ s with nextId := s.nextId + 1 } : State).modCohort ck fun x =>
            { x with state := .dispatch, order := s.nextId }))) ∧
      (∀ di, s.curEv = some (.teamDispatch ck) → c.state = .dispatch → c.placed < c.lr.nteams → s.laterCohort ck c = false →
        (s.dev c.dev).boot = none → s.pickDie c = some di →
        let k := (s.queueCore di).getD 0
        let new : Team := { cohort := ck, tidx := c.placed, die := di, startQ := k, since := s.time }
        exec .teamDispatch s = .next (((({ s with nextId := s.nextId + 1 } : State).setTeam s.nextId new).modCore
          (coreKey di k) fun x => { x with startQ := x.startQ ++ [s.nextId] }).modCohort ck fun x =>
            { x with placed := x.placed + 1 }))) ∧
    (∀ thief victim, s.curEv = some (.stealRequest thief victim) → thief / 48 = victim / 48 → thief ≠ victim →
      s.idleCore thief = true → (s.core thief).startQ = [] → (s.die (thief / 48)).fenced = false →
      let q := (s.core victim).startQ
      let n := (q.length + 1) / 2
      q ≠ [] → (∀ k < 48, (s.core (coreKey (victim / 48) k)).startQ.length ≤ q.length) →
      exec .stealRequest s =
        .next ((s.modCore victim fun x => { x with startQ := q.drop n }).send (.stealReply thief (q.take n)))) ∧
    (∀ thief ts, Arrives (.stealReply thief ts) s s1 → ts.Nodup → (∀ k ∈ ts, ∃ t, s1.team? k = some t ∧ t.state = .waiting) →
      let n := 16 - (s1.core thief).startQ.length
      ∃ u : State, exec .stealReply s = .next (if ts.drop n = [] then u else u.send (.stealReply thief (ts.drop n))) ∧
        (u.core thief).startQ = (s1.core thief).startQ ++ ts.take n ∧ ∀ k t, s1.team? k = some t →
          u.team? k = some (if k ∈ ts.take n then { t with stolen := true, startQ := thief % 48 } else t)) ∧
    (∀ core part k v w pre rest, s.curEv = some (.pendingForcedSwap core part) →
      let gs := s.partGangs (core / 48) (core % 48) part
      oldest gs = some k → (∃ p ∈ gs, p.2.eligible = true ∧ max p.2.movedAt p.2.eligAt + 20000 ≤ s.time) →
      8 ≤ (gs.filter fun p => p.2.active).length → (gs.filter fun p => p.2.active) = pre ++ (v, w) :: rest →
      (∀ p ∈ pre, w.movedAt < p.2.movedAt) → (∀ p ∈ rest, w.movedAt ≤ p.2.movedAt) →
      exec .pendingForcedSwap s = .next ((s.modGang v fun g => { g with active := false, movedAt := s.time }).modGang k
        fun g => { g with active := true, movedAt := s.time })) ∧
    (∀ (ck tid : Nat) (t : Team) (c : Cohort), s.cohort? ck = some c → s.team? tid = some t → t.cohort = ck →
      (s.curEv = some (.teamStart tid) → s.inQueue tid t = true → s.stoppedFirst t.die c.lr.prio none = false →
        (c.lr.cosched = false → exec .teamStart s = .next ((s.startTeam tid).getD s)) ∧
        (∀ x, c.lr.cosched = true → s.startAll ck = some x →
          exec .teamStart s = .next (if s.stoppedAmong x ck c.lr.prio = true then s else x)) ∧
        (c.lr.cosched = true → s.startAll ck = none → exec .teamStart s = .next s)) ∧
      (∀ di, s.curEv = some (.overloadMigration tid di) → s.mayMove t c di = true →
        (t.state = .waiting → s.inQueue tid t = true) →
        exec .overloadMigration s = .next ((((s.modCore (coreKey t.die t.startQ) fun x =>
          { x with startQ := x.startQ.erase tid }).setTeam tid { t with state := .migrating }).send (.teamInstall tid di)))) ∧
      (∀ di, Arrives (.teamInstall tid di) s s1 → t.state = .migrating →
        let tgt := if (s1.die di).fenced = true then t.die else di
        (t.hall = 0 → exec .teamInstall s = .next (match s1.queueCore tgt with
          | some k => (s1.setTeam tid { t with
                state := .waiting
                die := tgt
                startQ := k
                stolen := false
                since := s1.time }).modCore (coreKey tgt k) fun x => { x with startQ := x.startQ ++ [tid] }
          | none => s1.send (.teamInstall tid tgt))) ∧
        let mig := t.tmig.map fun m => { m with target := if m.target = 9 ∨ tgt = m.origin then 9 else tgt % 8 }
        (t.hall ≠ 0 → exec .teamInstall s = .next (t.fwdQ.foldl (fun s m => s.inImage tid fun s => s.deliverStore tid m)
          (s1.setTeam tid { t with state := .saved, die := tgt, fwdQ := [], tmig := mig, since := s1.time })))) ∧
      (∀ m, s.curEv = some (.tmigFallback tid) → t.tmig = some m → t.state = .saved → m.till ≤ s.time → m.target ≠ 9 →
        let back : Option Tmig := some { m with target := 9 }
        (t.die = m.origin → exec .tmigFallback s = .next (s.setTeam tid { t with tmig := back })) ∧
        (t.die ≠ m.origin → exec .tmigFallback s =
          .next ((s.setTeam tid { t with state := .migrating, tmig := back }).send (.teamInstall tid m.origin)))) ∧
      (∀ vs, s.curEv = some (.preemptForPriority tid) → s.needsRoom tid t c = true → t.since + 10000 ≤ s.time →
        let here := s.teamList.filter fun p => (roomDies t c).contains p.2.die
        let going := (here.filter fun p => p.2.state = .stopping).map (·.1)
        let low := (here.filter fun p => p.2.state = .resident && s.prioOf p.2 < c.lr.prio).foldr (insertVictim s) []
        s.victims t c going [] (low.map (·.1)) = some vs →
        exec .preemptForPriority s = .next (vs.foldl (fun s v => s.stopTeam v) s)) ∧
      (∀ k u d, s.curEv = some (.timeSliceExpiry tid) → t.state = .resident →
        let slice := (s.tenant (tenantKey c.dev c.tenant)).sched.toNat % 2 ^ 16
        slice ≠ 0 → t.since + 1000 * slice ≤ s.time → (k, u) ∈ s.teamList → s.cohort? u.cohort = some d →
        (roomDies u d).contains t.die = true →
        d.tenant ≠ c.tenant → c.lr.prio ≤ d.lr.prio → s.needsRoom k u d = true →
        exec .timeSliceExpiry s = .next (s.stopTeam tid)) ∧
      (s.curEv = some (.fullSave tid) →
        (∀ u, t.ending = none → s.saveTeam tid = some u → exec .fullSave s = .next (u.teamLeaves tid)) ∧
        (t.ending = none → s.saveTeam tid = none → t.state = .stopping →
          exec .fullSave s = .next (s.publishTeam t).2) ∧
        (∀ e, t.ending = some e → t.state = .stopping → s.quiet tid c.ngangs = true →
          let r := s.publishTeam t
          exec .fullSave s = .next (if r.1 = true then ((r.2.takeLoop tid).closeTeam tid e.1 e.2.1 e.2.2.1
            e.2.2.2).teamLeaves tid else r.2))) ∧
      (s.curEv = some (.regionRestart tid) →
        (∀ u, s.restartTeam tid = some u → exec .regionRestart s = .next (u.teamLeaves tid)) ∧
        (s.restartTeam tid = none → t.state = .stopping → s.restarts tid t c = true →
          exec .regionRestart s = .next (s.publishTeam t).2)) ∧
      (∀ u, s.curEv = some (.teamRestore tid) → t.returnable = true → (s.die t.die).fenced = false →
        s.stoppedFirst t.die (s.prioOf t) (some t.stopAt) = false → s.placeAgain tid = some u →
        exec .teamRestore s = .next (u.kickAll tid)))

/-! ### Events of the fabric and of devices -/

/-- The fabric. The token-carrying messages of a lost flit are reported and cease to exist, the others stay, and the link counts one
more in a row, or a first one where the model leaves open that the link has delivered one since (log 85); a link with 8 lost
flits goes down and comes back; a wavelength with more than 1024 errors is withdrawn and comes back; a notice makes or halves an
entry of a rate table, which recovers by 8 in each 2 µs and is freed at 256; a pending clock step latches the counter and starts
relock, which ends; a device over its limit asks its fastest die for 50 MHz less; a slot is written and acknowledged, the rotation
starts, sends what its slots have time for and what has been sent moves its data, and stops; how flits are timed in a slot and
what a spread too wide does to a pod that is to stop already is the model's reading (log 46; R414, R417, R419–R424, R428,
R440). -/
def Obligations.FabricEvents : Prop :=
  ∀ (s s1 : State) (dev : Nat),
    let d := s.dev dev
    (∀ link msgs, s.curEv = some (.flitRetryExhausted dev link msgs) →
      let reports := (msgs.eraseDups.filterMap fun i => s.net[i]?).filterMap tokenLoss
      ∃ first : Bool, exec .flitRetryExhausted s =
        .next (({ s with net := keepMsgs msgs 0 s.net ++ reports, fresh := s.fresh + 1 } : State).modLink dev link
          fun l => { l with lost := if first = true ∧ l.lost < 8 then 1 else l.lost + 1 })) ∧
    (∀ link, link < 96 → link ≠ dev % 32 →
      (s.curEv = some (.linkRetrain dev link) → (d.link link).up = true → 8 ≤ (d.link link).lost →
        ∃ t, exec .linkRetrain s = .next t ∧ (t.dev dev).link link = { d.link link with up := false, train := true, lost := 0 }) ∧
      (s.curEv = some (.fabricLinkUp dev link) → (d.link link).train = true →
        ∃ t, exec .fabricLinkUp s = .next t ∧ (t.dev dev).link link =
          { d.link link with up := true, train := false, lost := 0, retrains := min ((d.link link).retrains + 1) 0xFFFF })) ∧
    (∀ pair wl errors, pair < 64 → wl < 8 →
      (s.curEv = some (.wavelengthWindowEnd dev pair wl errors) →
        (1024 < errors → ∃ t, exec .wavelengthWindowEnd s = .next t ∧
          (t.dev dev).link (32 + pair) =
            let l := d.link (32 + pair)
            { l with down := l.down ||| (1#8 <<< wl), downAt := if l.down.getLsbD wl then l.downAt else Store.set 0 l.downAt wl s.time }) ∧
        (errors ≤ 1024 → exec .wavelengthWindowEnd s = .next s)) ∧
      (s.curEv = some (.wavelengthRetrained dev pair wl) → (d.link (32 + pair)).down.getLsbD wl = true →
        ∃ t, exec .wavelengthRetrained s = .next t ∧ (t.dev dev).link (32 + pair) =
          let l := d.link (32 + pair)
          { l with down := l.down &&& ~~~(1#8 <<< wl), downAt := Store.erase l.downAt wl, retrains := min (l.retrains + 1) 0xFFFF })) ∧
    (∀ die dest, s.curEv = some (.congestionNotice die dest) → die < 16384 → dest < 2048 →
      let x := (s.die die).recovered s.time
      ∃ t, exec .congestionNotice s = .next t ∧
        (x.rateOf dest = none → Store.get none (t.die die).rates x.rateSlot = some ⟨dest, 128, s.time, s.time⟩) ∧
        ∀ i r, x.rateOf dest = some i → Store.get none x.rates i = some r →
          Store.get none (t.die die).rates i = (if s.time < r.lastAt + 1000 then some r
            else some { r with rate := max (r.rate / 2) 4, lastAt := s.time, recAt := s.time })) ∧
    (∀ die entry r, s.curEv = some (.rateRecovery die entry) → entry < 64 → Store.get none (s.die die).rates entry = some r →
      let n := (s.time - r.recAt) / 2000
      n ≠ 0 → ∃ t, exec .rateRecovery s = .next t ∧ Store.get none (t.die die).rates entry =
        (if 256 ≤ r.rate + 8 * n then none else some { r with rate := r.rate + 8 * n, recAt := r.recAt + 2000 * n })) ∧
    (∀ die ts mhz, s.curEv = some (.clockStep die) → (s.die die).pendClk = some (ts, mhz) → ts ≤ s.time →
      ∃ t, exec .clockStep s = .next t ∧
        let x := s.die die
        t.die die = { x with clkK := x.clkK + (ts - x.clkT0) * x.mhz / 1000, clkT0 := ts, mhz := mhz, steps := x.steps + 1,
                             pendClk := none, relock := some (ts + 2000), rates := [] }) ∧
    (∀ die, s.curEv = some (.relockEnd die) → exec .relockEnd s = .next (s.modDie die fun x => { x with relock := none })) ∧
    (∀ pnow k, s.curEv = some (.powerThrottleStep dev pnow) → d.plimit < pnow → (d.thrAt = 0 ∨ d.thrAt - 1 + 1000000 ≤ s.time) →
      s.fastest dev = some k → 650 ≤ (s.die k).target → exec .powerThrottleStep s =
        .next (((s.modDev dev fun d => { d with pnow := pnow }).modDev dev fun d => { d with thrAt := s.time + 1 }).modDie k
          fun x => x.askClock (x.target - 50) s.time)) ∧
    (∀ slot desc gang, Arrives (.slotTableWrite dev slot desc gang) s s1 →
      let t := s1.modDev dev fun d => { d with slots := Store.set 0 d.slots slot desc }
      ∀ g, s1.gang? gang = some g →
        (1 < g.acks → exec .slotTableWrite s = .next (t.setGang gang { g with acks := g.acks - 1 })) ∧
        (g.acks ≤ 1 → exec .slotTableWrite s = .next (t.setGang gang { g.wake .acks with eligAt := s1.time, acks := 0 }))) ∧
    (s.curEv = some (.circuitRotationStart dev) → d.run = false → d.startAt ≠ 0 → d.startAt ≤ s.time →
      exec .circuitRotationStart s = .next (s.modDev dev fun d => { d with run := true })) ∧
    (s.curEv = some (.circuitSlotBoundary dev) → d.run = true → d.startAt ≤ s.time →
      let e := d.sendSlot s.time
      let sent := (d.circQ.map (·.id)).filter fun id => !e.circQ.any (·.id = id)
      exec .circuitSlotBoundary s = .next ((s.xfers.filter fun q => sent.contains q.id).foldl (fun s q => s.startXfer q)
        (s.modDev dev fun _ => e))) ∧
    (∀ x n, d.slotNow s.time = some (x, n) → n < slotGuard x → d.sendSlot s.time = d) ∧
    (s.curEv = some (.circuitStop dev) → d.run = true →
      (∀ n forced, d.stopAt = some (n, forced) → n ≤ s.time → exec .circuitStop s = .next (s.modDev dev fun d =>
        { d with
          run := false
          startAt := 0
          stopAt := none
          circQ := []
          circTill := []
          spstop := forced })) ∧
      ((∀ p, d.stopAt = some p → s.time < p.1) → ∃ spread, spread ≤ 50 ∧
        let t : State := { s with fresh := s.fresh + 1 }
        exec .circuitStop s = .next (if d.minGuard < spread then t.modPod (dev / 32) fun x =>
          if x.run then { x with stopAt := some ((x.stopAt.map (·.1)).getD (x.rotEnd s.time), true) } else x else t)))

/-- Errors, starts and the mailbox. An error poisons its sector or fences its die; a lost message ceases to exist unless it
waits for a die that relocks; a start begins with the device at its reset values and no team, a warm one once its teams have
ended as HALT ends them, and takes the steps of R434 one by one: PHASE names the step, a step that fails leaves PHASE 15 and its
number, and the last PHASE 7; step 2 compares the device's numbers, step 3 fences the dies that fail self-test, step 4 verifies
the image, step 6 sets the clocks; a command takes effect, or answers with the status for bad arguments or a refusal (R19, R399,
R411, R412, R419, R426, R434–R439, R465). How the steps of a start follow one another, and that a die that failed self-test
stays fenced through a warm start, is the model's reading (log 47), as is the die that a control cohort starts from, and status
1 before 3 (log 48). -/
def Obligations.DeviceEvents : Prop :=
  ∀ (s : State) (dev : Nat),
    let d := s.dev dev
    let ans (t : State) (n : Nat) : State := t.modDev dev fun d => { d with cmdst := n }
    (∀ sec, s.curEv = some (.uncorrectableSectorError sec) → backed (secPa sec) = true →
      exec .uncorrectableSectorError s = .next (s.modSmeta sec fun x => { x with pois := true })) ∧
    (∀ di, s.curEv = some (.dieInternalError di) → di < 16384 → exec .dieInternalError s = .next (s.fenceDie di)) ∧
    (∀ i e, s.curEv = some (.unreportedMessageLoss i) → s.net[i]? = some e → losable e = true →
      (s.frozen e = false → exec .unreportedMessageLoss s = .next { s with net := s.net.eraseIdx i }) ∧
      (s.frozen e = true → exec .unreportedMessageLoss s = .next s)) ∧
    (∀ o, s.curEv = some (.coldStart dev o) → dev < 2048 →
      let e := Ev.coldStart dev o
      (s.take e = none ∨ d.boot = none → exec .coldStart s = .next (s.begin dev false o e)) ∧
      (∀ s1 b, s.take e = some s1 → d.boot = some b → exec .coldStart s = .next (s1.bootStep dev b e))) ∧
    (∀ addr o, s.curEv = some (.warmStart dev addr o) → dev < 2048 →
      let e := Ev.warmStart dev addr o
      (s.take e = none ∨ d.boot = none → d.busy = false →
        exec .warmStart s = .next ((({ s.modDev dev fun d => { d with busy := true, boot := some ⟨true, warmFind addr o, true⟩ } with
          net := s.net.filter fun x => !startOf dev x } : State).haltAll dev).send e)) ∧
      (∀ s1 b, s.take e = some s1 → d.boot = some b →
        (b.halt = true → s1.liveTeams dev ≠ [] → exec .warmStart s = .next ((s1.haltAll dev).send e)) ∧
        (b.halt = true → s1.liveTeams dev = [] → exec .warmStart s = .next (s1.begin dev true b.o e)) ∧
        (b.halt = false → exec .warmStart s = .next (s1.bootStep dev b e)))) ∧
    (∀ warm o e,
      let t := s.begin dev warm o e
      (t.dev dev).warm = warm ∧ (t.dev dev).phase = (if warm then 2 else 1) ∧ (t.dev dev).boot = some ⟨warm, o, false⟩ ∧
      (t.dev dev).ident = some o.ident ∧ (∀ n, (t.dev dev).link n = if warm then d.link n else {}) ∧
      (∀ k u, t.team? k = some u → u.dev ≠ dev) ∧ e ∈ t.net) ∧
    (∀ b e,
      let p := d.phase
      let t := s.bootStep dev b e
      (s.stepFails dev p b = true → (t.dev dev).phase = 15 ∧ (t.dev dev).cause = p ∧ (t.dev dev).boot = none) ∧
      (s.stepFails dev p b = false → stepAfter b.warm p = 7 → (t.dev dev).phase = 7 ∧ (t.dev dev).boot = none) ∧
      (s.stepFails dev p b = false → stepAfter b.warm p ≠ 7 → (t.dev dev).phase = stepAfter b.warm p ∧ e ∈ t.net) ∧
      (p = 2 → (∃ k, k ≠ dev ∧ (s.dev k).ident = some b.o.ident) ∨
        (∃ x ∈ b.o.came, x.1 < 32 ∧ x.2 ≠ b.o.ident / 32 * 32 + x.1) → s.stepFails dev 2 b = true) ∧
      (p = 3 → (t.dev dev).dieOk = b.o.dieOk ∧ ∀ i < 8, b.o.dieOk.getLsbD i = false → (t.die (8 * dev + i)).fenced = true) ∧
      (p = 4 → s.stepFails dev 4 b = (!d.accepts (d.image b.o)) ∧ (s.stepFails dev 4 b = false →
        (t.dev dev).version = (d.image b.o).version ∧ (t.dev dev).digest = Config.sm3 (d.image b.o).body)) ∧
      (p = 6 → ∀ i < 8, (t.die (8 * dev + i)).mhz = 1500)) ∧
    (d.busy = false → d.phase = 7 → dev < 2048 →
      (∀ tenant ptr q h t, s.curEv = some (.startControlCohort dev tenant ptr) → tenant ≤ 15 →
        ptrSpace ptr = 0 ∨ ptrSpace ptr = 4 → ptrCause ptr 0 0 = none → ptr.toNat % 256 = 0 →
        (∀ p ∈ s.cohortList, p.2.dev = dev → p.2.tenant = tenant → p.2.control = true → p.2.going = false) →
        s.readLaunch dev ((s.controlDie dev).getD 0) tenant ptr.toNat = .ok q →
        ((s.controlDie dev).bind fun die => s.newCohort dev die tenant true q) = some (h, t) →
        exec .startControlCohort s = .next (ans t 0)) ∧
      (∀ tenant idx v, s.curEv = some (.writeTenantRegister dev tenant idx v) →
        (tenant ≤ 15 → 0x101 ≤ idx → idx ≤ 0x110 →
          ((quietReg idx = true → ∀ p ∈ s.cohortList, p.2.dev = dev → p.2.tenant = tenant → p.2.going = false) →
            let t := s.modTenant (tenantKey dev tenant) fun t => t.setReg idx v
            exec .writeTenantRegister s =
              .next (ans (if idx = 0x101 ∧ v.getLsbD 0 = false then t.dropPins dev tenant else t) 0)) ∧
          (quietReg idx = true → (∃ p ∈ s.cohortList, p.2.dev = dev ∧ p.2.tenant = tenant ∧ p.2.going = true) →
            exec .writeTenantRegister s = .next (ans s 3))) ∧
        (15 < tenant ∨ idx < 0x101 ∨ 0x110 < idx → exec .writeTenantRegister s = .next (ans s 1))) ∧
      (∀ grp mask, s.curEv = some (.writeRoutingEntry dev grp mask) → grp ≤ 63 →
        (d.run = false → exec .writeRoutingEntry s =
          .next (ans (s.modDev dev fun d => { d with routing := Store.set 0 d.routing grp mask }) 0)) ∧
        (d.run = true → exec .writeRoutingEntry s = .next (ans s 3))) ∧
      (∀ die mhz, s.curEv = some (.setDieClock dev die mhz) →
        (die ≤ 7 → 600 ≤ mhz → mhz ≤ 1800 → mhz % 50 = 0 → (s.die (8 * dev + die)).fenced = false →
          exec .setDieClock s = .next (ans (s.modDie (8 * dev + die) fun x => x.askClock mhz s.time) 0)) ∧
        (mhz < 600 ∨ 1800 < mhz ∨ mhz % 50 ≠ 0 → exec .setDieClock s = .next (ans s 1))) ∧
      (∀ tenant, s.curEv = some (.fabricGrant dev tenant) → tenant ≤ 15 ∨ tenant = 0xFF →
        let other : Prop := ∃ k ∈ podDevs (dev / 32), k ≠ dev ∧ ∃ n, Store.get none s.grants k = some n ∧ n ≠ tenant
        (other → exec .fabricGrant s = .next (ans s 3)) ∧
        (¬ other → tenant ≤ 15 → exec .fabricGrant s =
          .next (ans { s with grants := Store.set none s.grants dev (some tenant) } 0)) ∧
        (¬ other → tenant = 0xFF → exec .fabricGrant s =
          .next (ans { s with grants := Store.set none s.grants dev none } 0))) ∧
      (∀ watts, s.curEv = some (.setPlimit dev watts) →
        (1200 ≤ watts → watts ≤ 0xFFFF →
          exec .setPlimit s = .next (ans (s.modDev dev fun d => { d with plimit := watts }) 0)) ∧
        (watts < 1200 → exec .setPlimit s = .next (ans s 3))) ∧
      (∀ nonce addr, s.curEv = some (.assayReport dev nonce addr) → addr.toNat + 256 ≤ 2 ^ 64 →
        let m := writeBytes s.hostMem (dev * 2 ^ 64 + addr.toNat) (assayReport d nonce)
        exec .assayReport s = .next (ans { s with hostMem := m } 0)) ∧
      (∀ die idx v, s.curEv = some (.writePerDieCounter dev die idx v) → die ≤ 9 → 0x200 ≤ idx → idx ≤ 0x203 →
        (s.die (mgmtDie dev die)).fenced = false → (7 < die → 0x202 ≤ idx) →
        exec .writePerDieCounter s = .next (ans (s.modDie (mgmtDie dev die) fun x => x.setCounter idx v) 0)))

/-! ### Values of words -/

/-- The fixed registers read as zero and true, count as full, and keep nothing that is written to them; the low half of a write
to the pair at v254 or k126 stands alone (R31). -/
def Obligations.FixedRegisters : Prop :=
  ∀ (x : Regs) (m : BitVec 32) (f : Nat → Word) (b : Nat → Bool) (w : Word) (z : DWord) (q : Bool) (l : Nat),
    x.v 255 l = 0 ∧ x.k 127 = 0 ∧ x.p 7 = BitVec.allOnes 32 ∧ x.q 7 = true ∧
    x.isFull (.v 255) = true ∧ x.isFull (.k 127) = true ∧
    (x.setV 255 m f).vregs = x.vregs ∧ (x.setV 255 m f).vfull = x.vfull ∧ x.setK 127 w = x ∧ x.setP 7 m b = x ∧
    x.setQ 7 q = x ∧ x.setK2 126 z = x.setK 126 (z.extractLsb' 0 32)

/-- The scalar shifts and rotations by R127: the amount of a shift is never masked, that of a rotation is taken mod w. -/
def Obligations.ShiftValues : Prop :=
  ∀ (s : State) (c : Ctx) (g : Guard) (b64 : Bool) (d : RegNum) (a : Src) (n : SrcI),
    let w := if b64 then 64 else 32
    let A (l : Nat) : Nat := Regs.num c.r b64 a.reg l
    let N (l : Nat) : Nat := (c.r.srcI n l).toNat
    let gives (i : Instr) (v : Nat → Nat) : Prop := normal i s = some c →
      ∃ x, exec i s = .next (s.put c x) ∧ RegFrame (vDest b64 d) c.emask c.past x ∧
        (d.toNat + (if b64 then 1 else 0) < 255 → ∀ l < 32, c.emask.getLsbD l → Regs.num x b64 d l = v l)
    gives (.shl g b64 d a n) (fun l => A l * 2 ^ N l % 2 ^ w) ∧
    gives (.shr g b64 d a n) (fun l => A l / 2 ^ N l) ∧
    gives (.sra g b64 d a n) (fun l => (wval true w (A l) / 2 ^ N l % 2 ^ w).toNat) ∧
    gives (.rot g false b64 d a n) (fun l => A l * 2 ^ (N l % w) % 2 ^ w + A l / 2 ^ (w - N l % w)) ∧
    gives (.rot g true b64 d a n) (fun l => A l / 2 ^ (N l % w) + A l * 2 ^ (w - N l % w) % 2 ^ w)

/-- The funnel shifts by R128 and the bit counts and bit reversal by R129; that POPC of 0 gives 0, the number of its 1 bits, is the
model's reading (log 101). -/
def Obligations.FunnelAndCounts : Prop :=
  ∀ (s : State) (c : Ctx) (g : Guard) (b64 : Bool) (d : RegNum) (a b : Src) (n : SrcI),
    let w := if b64 then 64 else 32
    let A (l : Nat) : Nat := Regs.num c.r b64 a.reg l
    let F (l : Nat) : Nat := Regs.num c.r false a.reg l * 2 ^ 32 + Regs.num c.r false b.reg l
    let N (l : Nat) : Nat := (c.r.srcI n l).toNat
    let gives (i : Instr) (pair : Bool) (ok : Nat → Nat → Prop) : Prop := normal i s = some c →
      ∃ x, exec i s = .next (s.put c x) ∧ RegFrame (vDest pair d) c.emask c.past x ∧
        (d.toNat + (if pair then 1 else 0) < 255 → ∀ l < 32, c.emask.getLsbD l → ok l (Regs.num x pair d l))
    gives (.fshl g d a b n) false (fun l r => r = F l * 2 ^ N l % 2 ^ 64 / 2 ^ 32) ∧
    gives (.fshr g d a b n) false (fun l r => r = F l / 2 ^ N l % 2 ^ 32) ∧
    gives (.popc g b64 d a) false (fun l r => r = ((List.range w).filter (A l).testBit).length) ∧
    gives (.clz g b64 d a) false (fun l r => (A l = 0 → r = w) ∧ (A l ≠ 0 → r < w ∧ A l / 2 ^ (w - 1 - r) = 1)) ∧
    gives (.ctz g b64 d a) false (fun l r => (A l = 0 → r = w) ∧ (A l ≠ 0 → A l % 2 ^ r = 0 ∧ A l / 2 ^ r % 2 = 1)) ∧
    gives (.brev g b64 d a) b64 (fun l r => ∀ i < w, r.testBit (w - 1 - i) = (A l).testBit i)

/-- The logic operations and TERN, bit by bit (R126). -/
def Obligations.LogicValues : Prop :=
  ∀ (s : State) (c : Ctx) (g : Guard) (b64 : Bool) (d : RegNum) (a b z : Src) (n : SrcI) (table : BitVec 8),
    let A (l i : Nat) : Bool := (Regs.num c.r b64 a.reg l).testBit i
    let B (l i : Nat) : Bool := (Regs.numI c.r b64 n l).testBit i
    let T (r : RegNum) (l i : Nat) : Nat := if (c.r.v r.toNat l).getLsbD i then 1 else 0
    let gives (i : Instr) (pair : Bool) (v : Nat → Nat → Bool) : Prop := normal i s = some c →
      ∃ x, exec i s = .next (s.put c x) ∧ RegFrame (vDest pair d) c.emask c.past x ∧
        (d.toNat + (if pair then 1 else 0) < 255 → ∀ l < 32, c.emask.getLsbD l →
          ∀ k < (if pair then 64 else 32), (Regs.num x pair d l).testBit k = v l k)
    gives (.and g b64 d a n) b64 (fun l k => A l k && B l k) ∧
    gives (.or g b64 d a n) b64 (fun l k => A l k || B l k) ∧
    gives (.xor g b64 d a n) b64 (fun l k => A l k != B l k) ∧
    gives (.andn g b64 d a n) b64 (fun l k => A l k && !B l k) ∧
    gives (.orn g b64 d a n) b64 (fun l k => A l k || !B l k) ∧
    gives (.xnor g b64 d a n) b64 (fun l k => A l k == B l k) ∧
    gives (.not g b64 d a) b64 (fun l k => !A l k) ∧
    gives (.tern g d a b z table) false (fun l k => table.getLsbD (4 * T a.reg l k + 2 * T b.reg l k + T z.reg l k))

/-- The uniform instructions by R143: each completes with the value the rule gives, whatever its operands. -/
def Obligations.UniformValues : Prop :=
  ∀ (s : State) (c : Ctx) (g : Guard) (b64 uns : Bool) (d : RegNum) (a : Src) (b : SrcI) (q : PredNum) (rel : Rel) (v : KImm),
    let w := if b64 then 64 else 32
    let A := Regs.knum c.r b64 a.reg
    let B := Regs.knumI c.r b64 b
    let N := Regs.knumI c.r false b
    let gives (i : Instr) (ok : Nat → Prop) : Prop := normal i s = some c →
      ∃ x, exec i s = .next (s.put c x) ∧ RegFrame (kDest b64 d) c.emask c.past x ∧
        (d.toNat + (if b64 then 1 else 0) < 127 → ok (Regs.knum x b64 d))
    gives (.kmov g b64 d a) (fun r => r = A) ∧
    gives (.kli g b64 d v) (fun r => r = match v with
      | .i32 i => if b64 then (i.signExtend 64).toNat else i.toNat
      | .i64 i => i.toNat) ∧
    gives (.kadd g b64 d a b) (fun r => r = (A + B) % 2 ^ w) ∧
    gives (.ksub g b64 d a b) (fun r => (r : Int) = ((A : Int) - B) % 2 ^ w) ∧
    gives (.kmul g b64 d a b) (fun r => r = A * B % 2 ^ w) ∧
    gives (.kand g b64 d a b) (fun r => r = A &&& B) ∧
    gives (.kor g b64 d a b) (fun r => r = A ||| B) ∧
    gives (.kxor g b64 d a b) (fun r => r = A ^^^ B) ∧
    gives (.kshl g b64 d a b) (fun r => r = A * 2 ^ N % 2 ^ w) ∧
    gives (.kshr g b64 d a b) (fun r => r = A / 2 ^ N) ∧
    gives (.ksra g b64 d a b) (fun r => (r : Int) = wval true w A / 2 ^ N % 2 ^ w) ∧
    gives (.kmin g b64 uns d a b) (fun r => wval (!uns) w r = min (wval (!uns) w A) (wval (!uns) w B)) ∧
    gives (.kmax g b64 uns d a b) (fun r => wval (!uns) w r = max (wval (!uns) w A) (wval (!uns) w B)) ∧
    gives (.ksel g b64 d a b q) (fun r => r = if c.r.q q.toNat then A else B) ∧
    (normal (.kcmp g rel uns b64 q a b) s = some c →
      ∃ x, exec (.kcmp g rel uns b64 q a b) s = .next (s.put c x) ∧ RegFrame [.q q.toNat] c.emask c.past x ∧
        (q ≠ 7 → x.q q.toNat = rel.holds (wval (!uns) w A) (wval (!uns) w B)))

/-! ### The machine as a whole -/

/-- What reset leaves, as the spec states it: every token of every sector at home under cast 0 and unpoisoned, no page in host
bias, no message in flight, no cohort, team or gang, every slot generation 1, dies unfenced at the nominal clock, tenants
without tables, windows, handler or rings and with priority cap 7, circuit mode off, no grant. That the three memories list
nothing is the model's choice (log 1), and their canonical form holds; generation 1 of a cohort's slot and a troot of 0 are the
model's too (log 7). -/
def Obligations.ResetState : Prop :=
  let s := State.reset
  s.memWf = true ∧ s.net = [] ∧
  (∀ sec, s.homeTokOf sec = (256, true) ∧ (s.smetaOf sec).cast = 0 ∧ (s.smetaOf sec).pois = false ∧ s.secState sec = .idle) ∧
  (∀ sec h, s.holdOf sec h = {}) ∧ (∀ dev pa, s.hostBias dev pa = false) ∧
  (∀ k, s.gang? k = none ∧ s.team? k = none ∧ s.cohort? k = none) ∧
  (∀ k, (Store.get {} s.teamSlots k).gen = 1 ∧ (Store.get {} s.cohSlots k).gen = 1) ∧
  (∀ k, (s.die k).fenced = false ∧ (s.die k).mhz = 1500 ∧ (s.die k).steps = 0 ∧ ∀ i, Store.get none (s.die k).rates i = none) ∧
  (∀ k, (s.dev k).run = false ∧ (s.dev k).rotation = [] ∧ (s.dev k).plimit = 3600) ∧
  (∀ k, (s.tenant k).troot = 0 ∧ (s.tenant k).tvec = 0 ∧ (s.tenant k).hwsz = 0 ∧ (s.tenant k).pwsz = 0 ∧
    (s.tenant k).prq = 0 ∧ (s.tenant k).elog = 0 ∧ (s.tenant k).sched = 0x00070000 ∧ (s.tenant k).msix = 0) ∧
  (∀ k, Store.get none s.grants k = none)

/-- A step runs the decoded instruction. When a gang that may issue is next, the gang whose turn it is in that partition issues
(R360), unless a pass of it waits for the load it began at: its block of code is that of the instruction cache, or is read where
its page translates with X; the word at the PC that decodes to an instruction is executed by its meaning, a pair by both, and
the gang may then give up its place (R361). In a gang that is split the primary slot runs a lane-local word, and only where the
secondary could not issue (R156). An event that is next happens by its meaning, unless its die relocks (R419), and time passes
no further than to the next event that has a time of its own, nor past the look at a pending gang that waits no more (log 86).
-/
def Obligations.StepRunsDecoded : Prop :=
  (∀ (s : State) (gid : Nat) (rest : List Happening) (G : Gang) (T : Team) (C : Cohort) (b : BitVec 256) (u : State),
    s.agenda = .issue gid :: rest → ({ s with agenda := rest } : State).mayIssue gid = true →
    let p := ({ s with agenda := rest } : State).makeActive gid
    let k := p.turnOf gid
    (∀ P f, p.gang? k = some P → P.flux = some f → f.held = []) →
    let r := p.readyIssue k
    r.gang? k = some G → r.team? G.team = some T → r.cohort? T.cohort = some C →
    let pc := G.pc r.curSec
    r.fetchBlock (coreKey T.die G.core) C.tenant T.dev k pc = .ok b u →
    let w : BitVec 128 := (b >>> (8 * (pc.toNat % 32))).setWidth 128
    let runs (o : Host.Outcome State Fault Refusal) : Prop := ∀ t, o = .next t →
      ((r.curSec = true → (secHeld r t k && t.priFree k) = false) → (r.curSec = false → G.split = true → wordLocal w = true) →
        step s = .next (p.afterTurn t k)) ∧
      (∀ t', r.curSec = true → (secHeld r t k && t.priFree k) = true → issuePrimary k t = .next t' → step s = .next (p.afterTurn t' k))
    (∀ i n, decodeWord w (pc.toNat % 32) = .one i n → runs (exec i u)) ∧
    (∀ i j, decodeWord w (pc.toNat % 32) = .two i j → runs (execPair i j u))) ∧
  (∀ (s : State) (ck tenant dev gid : Nat) (va : DWord) (e : Tlb), codeOk va = true →
    s.translate ck tenant dev (va.toNat / 65536) gid false = .ok e → e.x = true →
    (∀ b, Store.find (s.core ck).icache (icKey tenant va.toNat) = some b →
      s.fetchBlock ck tenant dev gid va = .ok b s) ∧
    (Store.find (s.core ck).icache (icKey tenant va.toNat) = none → s.poisonAt dev (e.pa (va.toNat / 32 * 32)) = false →
      let b := BitVec.ofNat 256 (ofBytes (s.sysRead dev (e.pa (va.toNat / 32 * 32)) 32))
      s.fetchBlock ck tenant dev gid va = .ok b (s.modCore ck fun c =>
        { c with icache := Store.insert c.icache (icKey tenant va.toNat) b }))) ∧
  (∀ (s : State) (e : Ev) (rest : List Happening), s.agenda = .event e :: rest →
    ({ s with agenda := rest } : State).frozen e = false →
    step s = exec e.instr { s with agenda := rest, curEv := some e }) ∧
  (∀ (s : State) (t : Nat) (rest : List Happening), s.agenda = .time t :: rest →
    let r : State := { s with agenda := rest }
    (r.nextTimed = none → r.woken = none → step s = .next { r with time := max s.time t }) ∧
    (∀ g, r.nextTimed = none → r.woken = some g → step s = issueGang g r) ∧
    (∀ d e, r.nextTimed = some (d, e) →
      (s.time < d → r.woken = none → step s = .next { r with time := max s.time (min t d) }) ∧
      (∀ g, s.time < d → r.woken = some g → step s = issueGang g r) ∧
      (d ≤ s.time → step s = exec e.instr (r.withEvent e))))

/-- Words written out from the encoding tables, one or more of each family, decode to the instruction they stand for. -/
def Obligations.DecodeWords : Prop :=
  let g : Guard := ⟨7, false⟩
  let r (n : RegNum) : Src := ⟨n, false⟩
  let reads (bits w : Nat) (i : Instr) : Prop := decodeTableWord bits w = some i
  reads 64 0x1C00 (.nop g .w64) ∧
  reads 96 0x000000200000000000401C19 (.ifThen false 1 0x20) ∧
  reads 64 0x0100000000001C28 (.brk g 1) ∧ reads 64 0x0000000000000828 (.brk ⟨2, false⟩ 0) ∧
  reads 64 0x0000000301411C48 (.kadd g false 4 (r 5) (.reg (r 6))) ∧
  reads 64 0x011000028100DCE0 (.padd g true false true 3 (r 4) (.reg (r 5))) ∧
  reads 64 0x01000B0300421D0C (.ffma g .rtz 8 (r 1) (.reg (r 6)) (r 11)) ∧
  reads 64 0x000001028100DD40 (.shfl g .idx 0 3 (r 4) (.reg (r 5)) 1) ∧
  reads 64 0x0000000001409D64 (.momu g 2 (r 5)) ∧
  reads 96 0x403000000008000000825D71 (.momd g (.rstd (.imm 0x40300000)) 9 2) ∧
  reads 128 0x00000000000002000008010000811D82 (.ld g .b32 4 (.vpair (r 2)) (.ext 0 .dflt .weak .none) (some 1)) ∧
  reads 64 0x0080000100411DC8 (.afadd g .f32 4 (.scr (r 1)) .none (r 2)) ∧
  reads 64 0x0400000000001DD0 (.fence g .ar .dev) ∧
  reads 64 0x0000000000819DE8 (.tkq g 6 (.vpair (r 2)) none) ∧
  reads 64 0x0002000282011DEC (.bias g true 4 (r 8) (r 5) none) ∧
  reads 128 0x000002000003000000220C0502001E02 (.cpy g .sx4 .p4 false .rne false 3 (r 8) (r 10) (r 12) 0x200 .none) ∧
  reads 128 0x00480030000F0000070200050200DE26 (.mloop g .p4 3 (r 8) (r 10) none 7 0x30 0x48 15) ∧
  reads 64 0x1E40 (.bar g) ∧ reads 64 0x0000000001401E58 (.swait g false (.reg (r 5))) ∧
  reads 128 0x00000000000000180000000683001E82 (.rstv g false (r 12) (r 13) (some (0, true))) ∧
  reads 64 0x0000000001411E8C (.chq g false 4 (.reg (r 5))) ∧
  reads 64 0x0000000002011EA0 (.coll g 4 (r 8) none) ∧ reads 64 0x0000000001015EA4 (.collw g false 5 (.reg (r 4))) ∧
  reads 64 0x0000000002011EC0 (.launch g 4 (r 8) none) ∧ reads 64 0x0000000001015EC4 (.lwait g false 5 (r 4)) ∧
  reads 64 0x0012000000015EE4 (.flxq g .walks true 5) ∧ reads 64 0x1F04 (.rte g) ∧
  reads 96 0x000000020002000000011F09 (.mfs g true 4 2) ∧ reads 64 0x0000000000011F40 (.timeNow g 4)

/-- Decoding and encoding agree (R62–R68, R74): the bits of a well-formed instruction, at the start of a block, decode to
it, and an encoding that decodes is that of a well-formed instruction, which encodes to it. Code 2 of AFADD is
.bf16 by log 68; which operands are well formed is log 57, and of what kind a reserved opcode is, log 61. -/
def Obligations.DecodeEncode : Prop :=
  (∀ (i : Instr) (e : Enc), i.WellFormed = true → encode i = some e → decodeWord e.toBits 0 = .one i e.form.bytes) ∧
  ∀ (e : Enc) (i : Instr), decodeOp e = .op i → i.WellFormed = true ∧ encode i = some e

/-- Every step keeps the canonical form of the three memories, which is the model's own (log 1): an unlisted byte reads 0. -/
def Obligations.MemoryFormKept : Prop :=
  ∀ s t : State, s.memWf = true → step s = .next t → t.memWf = true

/-- No instruction is refused, and none stops the machine but a word for which there is no gang to issue it. -/
def Obligations.EveryInstructionRuns : Prop :=
  ∀ (i : Instr) (s : State), (∃ t, exec i s = .next t) ∨ (exec i s = .fault .noIssuingGang ∧ State.issuing s = false)
end

