-- ==== Sys2Proof/Laws/Store.lean ====
section
/-!
SUPPORT. The laws of sparse stores: read after write, and that every operation keeps the canonical form.
-/
namespace Sys2Proof
universe u
variable {α : Type}

theorem Store.get_erase_same (d : α) (m : Store α) (x : Nat) : Store.get d (Store.erase m x) x = d := by
  induction m with
  | nil => rfl
  | cons p m ih =>
    obtain ⟨k, v⟩ := p
    by_cases h : k = x
    · simp only [Store.erase, h, if_true]; exact ih
    · simp only [Store.erase, h, if_false, Store.get]; exact ih

theorem Store.get_erase_other (d : α) (m : Store α) {x y : Nat} (h : y ≠ x) :
    Store.get d (Store.erase m x) y = Store.get d m y := by
  induction m with
  | nil => rfl
  | cons p m ih =>
    obtain ⟨k, v⟩ := p
    by_cases hk : k = x
    · have : k ≠ y := fun e => h (e ▸ hk)
      simp only [Store.erase, hk, if_true]
      rw [ih, ← hk]
      simp only [Store.get, this, if_false]
    · simp only [Store.erase, hk, if_false, Store.get, ih]

theorem Store.get_insert_same (d : α) (m : Store α) (x : Nat) (v : α) : Store.get d (Store.insert m x v) x = v := by
  induction m with
  | nil => simp [Store.insert, Store.get]
  | cons p m ih =>
    obtain ⟨k, w⟩ := p
    by_cases h : x < k
    · simp [Store.insert, h, Store.get]
    · by_cases h2 : x = k
      · simp [Store.insert, h2, Store.get]
      · have : k ≠ x := fun e => h2 e.symm
        simp [Store.insert, h, h2, Store.get, this, ih]

theorem Store.get_insert_other (d : α) (m : Store α) {x y : Nat} (v : α) (h : y ≠ x) :
    Store.get d (Store.insert m x v) y = Store.get d m y := by
  have hx : x ≠ y := fun e => h e.symm
  induction m with
  | nil => simp [Store.insert, Store.get, hx]
  | cons p m ih =>
    obtain ⟨k, w⟩ := p
    by_cases h1 : x < k
    · simp [Store.insert, h1, Store.get, hx]
    · by_cases h2 : x = k
      · have : k ≠ y := h2 ▸ hx
        simp [Store.insert, h2, Store.get, this]
      · simp [Store.insert, h1, h2, Store.get, ih]

variable [DecidableEq α]

omit [DecidableEq α] in
/-- A second write of a key replaces the first. -/
theorem Store.insert_insert (m : Store α) (x : Nat) (v w : α) :
    Store.insert (Store.insert m x v) x w = Store.insert m x w := by
  induction m with
  | nil => simp [Store.insert]
  | cons p m ih =>
    obtain ⟨k, u⟩ := p
    by_cases h1 : x < k
    · simp [Store.insert, h1]
    · by_cases h2 : x = k
      · simp [Store.insert, h2]
      · simp [Store.insert, h1, h2, ih]

@[simp] theorem Store.get_set_same (d : α) (m : Store α) (x : Nat) (v : α) : Store.get d (Store.set d m x v) x = v := by
  unfold Store.set
  split
  · rename_i h; rw [Store.get_erase_same, h]
  · exact Store.get_insert_same d m x v

/-- A write leaves every other key alone. -/
theorem Store.get_set_other (d : α) (m : Store α) {x y : Nat} (v : α) (h : y ≠ x) :
    Store.get d (Store.set d m x v) y = Store.get d m y := by
  unfold Store.set
  split
  · exact Store.get_erase_other d m h
  · exact Store.get_insert_other d m v h

theorem Store.get_set (d : α) (m : Store α) (x y : Nat) (v : α) :
    Store.get d (Store.set d m x v) y = if y = x then v else Store.get d m y := by
  by_cases h : y = x
  · simp [h]
  · simp [h, Store.get_set_other d m v h]

@[simp] theorem Store.get_upd_same (d : α) (m : Store α) (x : Nat) (f : α → α) :
    Store.get d (Store.upd d m x f) x = f (Store.get d m x) := Store.get_set_same _ _ _ _

theorem Store.get_upd_other (d : α) (m : Store α) {x y : Nat} (f : α → α) (h : y ≠ x) :
    Store.get d (Store.upd d m x f) y = Store.get d m y := Store.get_set_other _ _ _ h

/-! ### The canonical form -/

theorem Store.wfFrom_mono {d : α} {m : Store α} {lo : Nat} (h : Store.wfFrom d (some lo) m = true) (lo' : Nat) (hl : lo' ≤ lo) :
    Store.wfFrom d (some lo') m = true := by
  cases m with
  | nil => rfl
  | cons p m =>
    obtain ⟨k, v⟩ := p
    simp only [Store.wfFrom, Bool.and_eq_true, decide_eq_true_eq] at h ⊢
    exact ⟨⟨by omega, h.1.2⟩, h.2⟩

theorem Store.wf_of_some {d : α} {m : Store α} {lo : Nat} (h : Store.wfFrom d (some lo) m = true) :
    Store.wfFrom d none m = true := by
  cases m with
  | nil => rfl
  | cons p m =>
    obtain ⟨k, v⟩ := p
    simp only [Store.wfFrom, Bool.and_eq_true, decide_eq_true_eq] at h ⊢
    exact ⟨h.1.2, h.2⟩

theorem Store.wfFrom_erase {d : α} {m : Store α} {lo : Option Nat} (x : Nat) (h : Store.wfFrom d lo m = true) :
    Store.wfFrom d lo (Store.erase m x) = true := by
  induction m generalizing lo with
  | nil => exact h
  | cons p m ih =>
    obtain ⟨k, v⟩ := p
    by_cases hk : k = x
    · simp only [Store.erase, hk, if_true]
      cases lo with
      | none =>
        simp only [Store.wfFrom, Bool.and_eq_true] at h
        exact Store.wf_of_some (ih h.2)
      | some lo =>
        simp only [Store.wfFrom, Bool.and_eq_true, decide_eq_true_eq] at h
        exact Store.wfFrom_mono (ih h.2) lo (by omega)
    · simp only [Store.erase, hk, if_false]
      cases lo with
      | none =>
        simp only [Store.wfFrom, Bool.and_eq_true] at h ⊢
        exact ⟨h.1, ih h.2⟩
      | some lo =>
        simp only [Store.wfFrom, Bool.and_eq_true] at h ⊢
        exact ⟨h.1, ih h.2⟩

theorem Store.wfFrom_insert {d : α} {m : Store α} {lo : Option Nat} (x : Nat) (v : α) (hv : v ≠ d)
    (hl : ∀ k ∈ lo, k < x) (h : Store.wfFrom d lo m = true) : Store.wfFrom d lo (Store.insert m x v) = true := by
  induction m generalizing lo with
  | nil =>
    cases lo with
    | none => simp [Store.insert, Store.wfFrom, hv]
    | some lo => simpa [Store.insert, Store.wfFrom, hv] using hl lo rfl
  | cons p m ih =>
    obtain ⟨k, w⟩ := p
    by_cases h1 : x < k
    · simp only [Store.insert, h1, if_true]
      cases lo with
      | none => simp only [Store.wfFrom, Bool.and_eq_true, decide_eq_true_eq] at h ⊢; exact ⟨hv, ⟨h1, h.1⟩, h.2⟩
      | some lo =>
        simp only [Store.wfFrom, Bool.and_eq_true, decide_eq_true_eq] at h ⊢
        exact ⟨⟨hl lo rfl, hv⟩, ⟨h1, h.1.2⟩, h.2⟩
    · by_cases h2 : x = k
      · subst h2
        simp only [Store.insert, h1, if_false, if_true]
        cases lo with
        | none => simp only [Store.wfFrom, Bool.and_eq_true, decide_eq_true_eq] at h ⊢; exact ⟨hv, h.2⟩
        | some lo =>
          simp only [Store.wfFrom, Bool.and_eq_true, decide_eq_true_eq] at h ⊢
          exact ⟨⟨h.1.1, hv⟩, h.2⟩
      · simp only [Store.insert, h1, h2, if_false]
        have hk : ∀ k' ∈ some k, k' < x := by intro k' e; cases e; omega
        cases lo with
        | none =>
          simp only [Store.wfFrom, Bool.and_eq_true] at h ⊢
          exact ⟨h.1, ih hk h.2⟩
        | some lo =>
          simp only [Store.wfFrom, Bool.and_eq_true] at h ⊢
          exact ⟨h.1, ih hk h.2⟩

/-- A write keeps the canonical form. -/
theorem Store.wf_set {d : α} {m : Store α} (x : Nat) (v : α) (h : Store.wf d m = true) :
    Store.wf d (Store.set d m x v) = true := by
  unfold Store.set
  split
  · exact Store.wfFrom_erase x h
  · rename_i hv; exact Store.wfFrom_insert x v hv (by simp) h

theorem Store.wf_upd {d : α} {m : Store α} (x : Nat) (f : α → α) (h : Store.wf d m = true) :
    Store.wf d (Store.upd d m x f) = true := Store.wf_set x _ h

theorem Store.wfFrom_filter {d : α} {m : Store α} {lo : Option Nat} (p : Nat × α → Bool) (h : Store.wfFrom d lo m = true) :
    Store.wfFrom d lo (m.filter p) = true := by
  induction m generalizing lo with
  | nil => exact h
  | cons q m ih =>
    obtain ⟨k, v⟩ := q
    by_cases hp : p (k, v) = true
    · rw [List.filter_cons_of_pos hp]
      cases lo with
      | none => simp only [Store.wfFrom, Bool.and_eq_true] at h ⊢; exact ⟨h.1, ih h.2⟩
      | some lo => simp only [Store.wfFrom, Bool.and_eq_true] at h ⊢; exact ⟨h.1, ih h.2⟩
    · rw [List.filter_cons_of_neg hp]
      cases lo with
      | none =>
        simp only [Store.wfFrom, Bool.and_eq_true] at h
        exact Store.wf_of_some (ih h.2)
      | some lo =>
        simp only [Store.wfFrom, Bool.and_eq_true, decide_eq_true_eq] at h
        exact Store.wfFrom_mono (ih h.2) lo (by omega)

/-- Taking entries out keeps the canonical form. -/
theorem Store.wf_filter {d : α} {m : Store α} (p : Nat × α → Bool) (h : Store.wf d m = true) :
    Store.wf d (m.filter p) = true := Store.wfFrom_filter p h

/-- A write of bytes keeps the canonical form. -/
theorem Store.wf_writeBytes {m : Store Byte} (a : Nat) (bs : List Byte) (h : Store.wf 0 m = true) :
    Store.wf 0 (writeBytes m a bs) = true := by
  induction bs generalizing m a with
  | nil => exact h
  | cons b bs ih => exact ih _ (Store.wf_set a b h)

/-- A write of bytes leaves every byte outside its range alone. -/
theorem Store.get_writeBytes_other (m : Store Byte) (a : Nat) (bs : List Byte) {x : Nat} (h : x < a ∨ a + bs.length ≤ x) :
    Store.get 0 (writeBytes m a bs) x = Store.get 0 m x := by
  induction bs generalizing m a with
  | nil => rfl
  | cons b bs ih =>
    simp only [List.length_cons] at h
    rw [writeBytes, ih _ _ (by omega), Store.get_set_other _ _ _ (by omega)]

/-- A byte that was written reads as written. -/
theorem Store.get_writeBytes_in (m : Store Byte) (a : Nat) (bs : List Byte) {i : Nat} (h : i < bs.length) :
    Store.get 0 (writeBytes m a bs) (a + i) = bs[i] := by
  induction bs generalizing m a i with
  | nil => exact absurd h (by simp)
  | cons b bs ih =>
    cases i with
    | zero =>
      rw [writeBytes, Store.get_writeBytes_other _ _ _ (by omega)]
      simp
    | succ i =>
      have := ih (Store.set 0 m a b) (a + 1) (i := i) (by simpa using h)
      rw [writeBytes, show a + (i + 1) = a + 1 + i by omega, this]
      rfl

/-! ### Bytes of a number -/

@[simp] theorem length_toBytes (n v : Nat) : (toBytes n v).length = n := by
  induction n generalizing v with
  | zero => rfl
  | succ n ih => simp [toBytes, ih]

@[simp] theorem length_readBytes (m : Store Byte) (a n : Nat) : (readBytes m a n).length = n := by simp [readBytes]

/-- The bytes of a number give it back, cut to their width. -/
theorem ofBytes_toBytes (n v : Nat) : ofBytes (toBytes n v) = v % 256 ^ n := by
  induction n generalizing v with
  | zero => simp [toBytes, ofBytes, Nat.mod_one]
  | succ n ih =>
    rw [toBytes, ofBytes, ih, BitVec.toNat_ofNat, show (2 : Nat) ^ 8 = 256 from rfl, Nat.pow_succ, Nat.mul_comm (256 ^ n)]
    exact (Nat.mod_mul).symm

/-- What was written is read back. -/
theorem readBytes_writeBytes (m : Store Byte) (a : Nat) (bs : List Byte) : readBytes (writeBytes m a bs) a bs.length = bs := by
  refine List.ext_getElem (by simp) fun i h1 h2 => ?_
  simp only [readBytes, List.getElem_map, List.getElem_range]
  exact Store.get_writeBytes_in m a bs h2

/-- A read outside the bytes that were written is as before. -/
theorem readBytes_writeBytes_other (m : Store Byte) (a b n : Nat) (bs : List Byte) (h : b + n ≤ a ∨ a + bs.length ≤ b) :
    readBytes (writeBytes m a bs) b n = readBytes m b n := by
  refine List.map_congr_left fun i hi => Store.get_writeBytes_other _ _ _ ?_
  have := List.mem_range.mp hi
  omega

end Sys2Proof
end

