-- ==== Sys2Proof/Laws/Issue.lean ====
section
/-!
SUPPORT. What the checks of an issue come to for a word that passes them.
-/
namespace Sys2Proof.Machine

/-- A word that passes every check goes on to its effect, or past it, as its guard says. -/
theorem vet_of_checked {i : Instr} {s : State} {o : Opn} {c : Ctx} (h : checked i s = some (o, c)) :
    vet i s = .go c (s.advance c) (o.runs c) := by
  unfold checked at h
  split at h
  · cases h
  rename_i G hG
  split at h
  · cases h
  rename_i T hT
  split at h
  · rename_i C o' hC ho
    dsimp only at h
    split at h
    · rename_i hc
      simp only [Bool.and_eq_true, decide_eq_true_eq, Option.isNone_iff_eq_none, List.isEmpty_iff] at hc
      obtain ⟨⟨⟨⟨⟨⟨⟨_, h1⟩, h2⟩, h3⟩, h4⟩, h5⟩, h6⟩, h7⟩ := hc
      cases h
      unfold vet
      simp only [hG, hT, hC, ho, h1, h2, h3, h4, Bool.not_true, Bool.or_self, Bool.false_eq_true, if_false, Option.isSome_none,
        vetPool, vetOpn]
      have e5 : poolFaults o.reads (mkCtx s.curGang G T C s.curSec (G.regs.slot s.curSec).pc o.e.form.bytes o).G
          (mkCtx s.curGang G T C s.curSec (G.regs.slot s.curSec).pc o.e.form.bytes o).amask = [] := h5
      have e6 : checkWord [o] (mkCtx s.curGang G T C s.curSec (G.regs.slot s.curSec).pc o.e.form.bytes o).G
          (mkCtx s.curGang G T C s.curSec (G.regs.slot s.curSec).pc o.e.form.bytes o).C.lr = .ok := h6
      simp only [e5, e6, h7]
    · cases h
  · cases h

/-- The gang of a word that passes every check is the current one, and the state holds it. -/
theorem gang_of_checked {i : Instr} {s : State} {o : Opn} {c : Ctx} (h : checked i s = some (o, c)) :
    c.gid = s.curGang ∧ c.sec = s.curSec ∧ s.gang? c.gid = some c.G ∧ s.team? c.G.team = some c.T ∧
      s.cohort? c.T.cohort = some c.C ∧ opnOf i = .ok o ∧ i.WellFormed = true ∧
      c = mkCtx s.curGang c.G c.T c.C s.curSec (c.G.regs.slot s.curSec).pc o.e.form.bytes o := by
  unfold checked at h
  split at h
  · cases h
  split at h
  · cases h
  split at h
  · dsimp only at h
    split at h
    · rename_i hc
      simp only [Bool.and_eq_true] at hc
      cases h
      exact ⟨rfl, rfl, ‹_›, ‹_›, ‹_›, ‹_›, hc.1.1.1.1.1.1.1, rfl⟩
    · cases h
  · cases h

theorem checked_of_normal {i : Instr} {s : State} {c : Ctx} (h : normal i s = some c) :
    ∃ o, checked i s = some (o, c) ∧ o.runs c = true := by
  unfold normal at h
  split at h
  · split at h
    · cases h; exact ⟨_, ‹_›, ‹_›⟩
    · cases h
  · cases h

theorem checked_of_guardedOff {i : Instr} {s : State} {c : Ctx} (h : guardedOff i s = some c) :
    ∃ o, checked i s = some (o, c) ∧ o.runs c = false := by
  unfold guardedOff at h
  split at h
  · split at h
    · cases h
    · rename_i o c' h1 h2
      cases h
      exact ⟨o, h1, by simpa using h2⟩
  · cases h

/-- A word that executes normally has the effect of its meaning. -/
theorem issueF_normal {i : Instr} {s : State} {c : Ctx} (h : normal i s = some c) (act : FluxAct) (eff : Ctx → State → Res) :
    issueF i s act eff = settle c (eff c (s.advance c)) := by
  obtain ⟨o, h1, h2⟩ := checked_of_normal h
  simp [issueF, vet_of_checked h1, h2]

/-- The same for a word that is no load in a pass. -/
theorem issue_normal {i : Instr} {s : State} {c : Ctx} (h : normal i s = some c) (eff : Ctx → State → Res) :
    issue i s eff = settle c (eff c (s.advance c)) := issueF_normal h _ eff

/-- A word whose guard is off only moves the PC past itself. -/
theorem issueF_guardedOff {i : Instr} {s : State} {c : Ctx} (h : guardedOff i s = some c) (act : FluxAct)
    (eff : Ctx → State → Res) : issueF i s act eff = .next (s.advance c) := by
  obtain ⟨o, h1, h2⟩ := checked_of_guardedOff h
  simp [issueF, vet_of_checked h1, h2]

theorem issue_guardedOff {i : Instr} {s : State} {c : Ctx} (h : guardedOff i s = some c) (eff : Ctx → State → Res) :
    issue i s eff = .next (s.advance c) := issueF_guardedOff h _ eff

/-- The gang of a word that passed its checks, past the word. -/
theorem gang_advance (s : State) (c : Ctx) : (s.advance c).gang? c.gid = some c.gangPast := by
  simp only [State.advance, State.gang?, State.setGang, Store.get_set_same]

end Sys2Proof.Machine
end

