-- ==== Sys2Proof/Laws/State.lean ====
section
/-!
SUPPORT. What each update of State leaves alone, one lemma per field, and what it reads as afterwards.
-/
namespace Sys2Proof.Machine

@[simp] theorem State.setGang_time (s : State) (g : Nat) (x : Gang) : (s.setGang g x).time = s.time := rfl
@[simp] theorem State.setGang_agenda (s : State) (g : Nat) (x : Gang) : (s.setGang g x).agenda = s.agenda := rfl
@[simp] theorem State.setGang_curGang (s : State) (g : Nat) (x : Gang) : (s.setGang g x).curGang = s.curGang := rfl
@[simp] theorem State.setGang_curSec (s : State) (g : Nat) (x : Gang) : (s.setGang g x).curSec = s.curSec := rfl
@[simp] theorem State.setGang_fresh (s : State) (g : Nat) (x : Gang) : (s.setGang g x).fresh = s.fresh := rfl
@[simp] theorem State.setGang_nextId (s : State) (g : Nat) (x : Gang) : (s.setGang g x).nextId = s.nextId := rfl
@[simp] theorem State.setGang_curEv (s : State) (g : Nat) (x : Gang) : (s.setGang g x).curEv = s.curEv := rfl
@[simp] theorem State.setGang_net (s : State) (g : Nat) (x : Gang) : (s.setGang g x).net = s.net := rfl
@[simp] theorem State.setGang_mem (s : State) (g : Nat) (x : Gang) : (s.setGang g x).mem = s.mem := rfl
@[simp] theorem State.setGang_hostMem (s : State) (g : Nat) (x : Gang) : (s.setGang g x).hostMem = s.hostMem := rfl
@[simp] theorem State.setGang_poolMem (s : State) (g : Nat) (x : Gang) : (s.setGang g x).poolMem = s.poolMem := rfl
@[simp] theorem State.setGang_poolPois (s : State) (g : Nat) (x : Gang) : (s.setGang g x).poolPois = s.poolPois := rfl
@[simp] theorem State.setGang_smeta (s : State) (g : Nat) (x : Gang) : (s.setGang g x).smeta = s.smeta := rfl
@[simp] theorem State.setGang_hold (s : State) (g : Nat) (x : Gang) : (s.setGang g x).hold = s.hold := rfl
@[simp] theorem State.setGang_homeTok (s : State) (g : Nat) (x : Gang) : (s.setGang g x).homeTok = s.homeTok := rfl
@[simp] theorem State.setGang_fences (s : State) (g : Nat) (x : Gang) : (s.setGang g x).fences = s.fences := rfl
@[simp] theorem State.setGang_clampTab (s : State) (g : Nat) (x : Gang) : (s.setGang g x).clampTab = s.clampTab := rfl
@[simp] theorem State.setGang_homes (s : State) (g : Nat) (x : Gang) : (s.setGang g x).homes = s.homes := rfl
@[simp] theorem State.setGang_trecAt (s : State) (g : Nat) (x : Gang) : (s.setGang g x).trecAt = s.trecAt := rfl
@[simp] theorem State.setGang_recastAct (s : State) (g : Nat) (x : Gang) : (s.setGang g x).recastAct = s.recastAct := rfl
@[simp] theorem State.setGang_misses (s : State) (g : Nat) (x : Gang) : (s.setGang g x).misses = s.misses := rfl
@[simp] theorem State.setGang_hints (s : State) (g : Nat) (x : Gang) : (s.setGang g x).hints = s.hints := rfl
@[simp] theorem State.setGang_l2 (s : State) (g : Nat) (x : Gang) : (s.setGang g x).l2 = s.l2 := rfl
@[simp] theorem State.setGang_cores (s : State) (g : Nat) (x : Gang) : (s.setGang g x).cores = s.cores := rfl
@[simp] theorem State.setGang_dies (s : State) (g : Nat) (x : Gang) : (s.setGang g x).dies = s.dies := rfl
@[simp] theorem State.setGang_hubs (s : State) (g : Nat) (x : Gang) : (s.setGang g x).hubs = s.hubs := rfl
@[simp] theorem State.setGang_devs (s : State) (g : Nat) (x : Gang) : (s.setGang g x).devs = s.devs := rfl
@[simp] theorem State.setGang_tenants (s : State) (g : Nat) (x : Gang) : (s.setGang g x).tenants = s.tenants := rfl
@[simp] theorem State.setGang_teamSlots (s : State) (g : Nat) (x : Gang) : (s.setGang g x).teamSlots = s.teamSlots := rfl
@[simp] theorem State.setGang_cohSlots (s : State) (g : Nat) (x : Gang) : (s.setGang g x).cohSlots = s.cohSlots := rfl
@[simp] theorem State.setGang_teams (s : State) (g : Nat) (x : Gang) : (s.setGang g x).teams = s.teams := rfl
@[simp] theorem State.setGang_accesses (s : State) (g : Nat) (x : Gang) : (s.setGang g x).accesses = s.accesses := rfl
@[simp] theorem State.setGang_walks (s : State) (g : Nat) (x : Gang) : (s.setGang g x).walks = s.walks := rfl
@[simp] theorem State.setGang_xfers (s : State) (g : Nat) (x : Gang) : (s.setGang g x).xfers = s.xfers := rfl
@[simp] theorem State.setGang_mats (s : State) (g : Nat) (x : Gang) : (s.setGang g x).mats = s.mats := rfl
@[simp] theorem State.setGang_lateColl (s : State) (g : Nat) (x : Gang) : (s.setGang g x).lateColl = s.lateColl := rfl
@[simp] theorem State.setGang_grants (s : State) (g : Nat) (x : Gang) : (s.setGang g x).grants = s.grants := rfl
@[simp] theorem State.setGang_irqs (s : State) (g : Nat) (x : Gang) : (s.setGang g x).irqs = s.irqs := rfl
@[simp] theorem State.setGang_turn (s : State) (g : Nat) (x : Gang) : (s.setGang g x).turn = s.turn := rfl

@[simp] theorem State.setTeam_time (s : State) (k : Nat) (x : Team) : (s.setTeam k x).time = s.time := rfl
@[simp] theorem State.setTeam_agenda (s : State) (k : Nat) (x : Team) : (s.setTeam k x).agenda = s.agenda := rfl
@[simp] theorem State.setTeam_curGang (s : State) (k : Nat) (x : Team) : (s.setTeam k x).curGang = s.curGang := rfl
@[simp] theorem State.setTeam_curSec (s : State) (k : Nat) (x : Team) : (s.setTeam k x).curSec = s.curSec := rfl
@[simp] theorem State.setTeam_fresh (s : State) (k : Nat) (x : Team) : (s.setTeam k x).fresh = s.fresh := rfl
@[simp] theorem State.setTeam_nextId (s : State) (k : Nat) (x : Team) : (s.setTeam k x).nextId = s.nextId := rfl
@[simp] theorem State.setTeam_curEv (s : State) (k : Nat) (x : Team) : (s.setTeam k x).curEv = s.curEv := rfl
@[simp] theorem State.setTeam_net (s : State) (k : Nat) (x : Team) : (s.setTeam k x).net = s.net := rfl
@[simp] theorem State.setTeam_mem (s : State) (k : Nat) (x : Team) : (s.setTeam k x).mem = s.mem := rfl
@[simp] theorem State.setTeam_hostMem (s : State) (k : Nat) (x : Team) : (s.setTeam k x).hostMem = s.hostMem := rfl
@[simp] theorem State.setTeam_poolMem (s : State) (k : Nat) (x : Team) : (s.setTeam k x).poolMem = s.poolMem := rfl
@[simp] theorem State.setTeam_poolPois (s : State) (k : Nat) (x : Team) : (s.setTeam k x).poolPois = s.poolPois := rfl
@[simp] theorem State.setTeam_smeta (s : State) (k : Nat) (x : Team) : (s.setTeam k x).smeta = s.smeta := rfl
@[simp] theorem State.setTeam_hold (s : State) (k : Nat) (x : Team) : (s.setTeam k x).hold = s.hold := rfl
@[simp] theorem State.setTeam_homeTok (s : State) (k : Nat) (x : Team) : (s.setTeam k x).homeTok = s.homeTok := rfl
@[simp] theorem State.setTeam_fences (s : State) (k : Nat) (x : Team) : (s.setTeam k x).fences = s.fences := rfl
@[simp] theorem State.setTeam_clampTab (s : State) (k : Nat) (x : Team) : (s.setTeam k x).clampTab = s.clampTab := rfl
@[simp] theorem State.setTeam_homes (s : State) (k : Nat) (x : Team) : (s.setTeam k x).homes = s.homes := rfl
@[simp] theorem State.setTeam_trecAt (s : State) (k : Nat) (x : Team) : (s.setTeam k x).trecAt = s.trecAt := rfl
@[simp] theorem State.setTeam_recastAct (s : State) (k : Nat) (x : Team) : (s.setTeam k x).recastAct = s.recastAct := rfl
@[simp] theorem State.setTeam_misses (s : State) (k : Nat) (x : Team) : (s.setTeam k x).misses = s.misses := rfl
@[simp] theorem State.setTeam_hints (s : State) (k : Nat) (x : Team) : (s.setTeam k x).hints = s.hints := rfl
@[simp] theorem State.setTeam_l2 (s : State) (k : Nat) (x : Team) : (s.setTeam k x).l2 = s.l2 := rfl
@[simp] theorem State.setTeam_cores (s : State) (k : Nat) (x : Team) : (s.setTeam k x).cores = s.cores := rfl
@[simp] theorem State.setTeam_dies (s : State) (k : Nat) (x : Team) : (s.setTeam k x).dies = s.dies := rfl
@[simp] theorem State.setTeam_hubs (s : State) (k : Nat) (x : Team) : (s.setTeam k x).hubs = s.hubs := rfl
@[simp] theorem State.setTeam_devs (s : State) (k : Nat) (x : Team) : (s.setTeam k x).devs = s.devs := rfl
@[simp] theorem State.setTeam_tenants (s : State) (k : Nat) (x : Team) : (s.setTeam k x).tenants = s.tenants := rfl
@[simp] theorem State.setTeam_teamSlots (s : State) (k : Nat) (x : Team) : (s.setTeam k x).teamSlots = s.teamSlots := rfl
@[simp] theorem State.setTeam_cohSlots (s : State) (k : Nat) (x : Team) : (s.setTeam k x).cohSlots = s.cohSlots := rfl
@[simp] theorem State.setTeam_gangs (s : State) (k : Nat) (x : Team) : (s.setTeam k x).gangs = s.gangs := rfl
@[simp] theorem State.setTeam_accesses (s : State) (k : Nat) (x : Team) : (s.setTeam k x).accesses = s.accesses := rfl
@[simp] theorem State.setTeam_walks (s : State) (k : Nat) (x : Team) : (s.setTeam k x).walks = s.walks := rfl
@[simp] theorem State.setTeam_xfers (s : State) (k : Nat) (x : Team) : (s.setTeam k x).xfers = s.xfers := rfl
@[simp] theorem State.setTeam_mats (s : State) (k : Nat) (x : Team) : (s.setTeam k x).mats = s.mats := rfl
@[simp] theorem State.setTeam_lateColl (s : State) (k : Nat) (x : Team) : (s.setTeam k x).lateColl = s.lateColl := rfl
@[simp] theorem State.setTeam_grants (s : State) (k : Nat) (x : Team) : (s.setTeam k x).grants = s.grants := rfl
@[simp] theorem State.setTeam_irqs (s : State) (k : Nat) (x : Team) : (s.setTeam k x).irqs = s.irqs := rfl
@[simp] theorem State.setTeam_turn (s : State) (k : Nat) (x : Team) : (s.setTeam k x).turn = s.turn := rfl

@[simp] theorem State.modCohort_time (s : State) (k : Nat) (f : Cohort → Cohort) : (s.modCohort k f).time = s.time := rfl
@[simp] theorem State.modCohort_agenda (s : State) (k : Nat) (f : Cohort → Cohort) : (s.modCohort k f).agenda = s.agenda := rfl
@[simp] theorem State.modCohort_curGang (s : State) (k : Nat) (f : Cohort → Cohort) : (s.modCohort k f).curGang = s.curGang := rfl
@[simp] theorem State.modCohort_curSec (s : State) (k : Nat) (f : Cohort → Cohort) : (s.modCohort k f).curSec = s.curSec := rfl
@[simp] theorem State.modCohort_fresh (s : State) (k : Nat) (f : Cohort → Cohort) : (s.modCohort k f).fresh = s.fresh := rfl
@[simp] theorem State.modCohort_nextId (s : State) (k : Nat) (f : Cohort → Cohort) : (s.modCohort k f).nextId = s.nextId := rfl
@[simp] theorem State.modCohort_curEv (s : State) (k : Nat) (f : Cohort → Cohort) : (s.modCohort k f).curEv = s.curEv := rfl
@[simp] theorem State.modCohort_net (s : State) (k : Nat) (f : Cohort → Cohort) : (s.modCohort k f).net = s.net := rfl
@[simp] theorem State.modCohort_mem (s : State) (k : Nat) (f : Cohort → Cohort) : (s.modCohort k f).mem = s.mem := rfl
@[simp] theorem State.modCohort_hostMem (s : State) (k : Nat) (f : Cohort → Cohort) : (s.modCohort k f).hostMem = s.hostMem := rfl
@[simp] theorem State.modCohort_poolMem (s : State) (k : Nat) (f : Cohort → Cohort) : (s.modCohort k f).poolMem = s.poolMem := rfl
@[simp] theorem State.modCohort_poolPois (s : State) (k : Nat) (f : Cohort → Cohort) : (s.modCohort k f).poolPois = s.poolPois := rfl
@[simp] theorem State.modCohort_smeta (s : State) (k : Nat) (f : Cohort → Cohort) : (s.modCohort k f).smeta = s.smeta := rfl
@[simp] theorem State.modCohort_hold (s : State) (k : Nat) (f : Cohort → Cohort) : (s.modCohort k f).hold = s.hold := rfl
@[simp] theorem State.modCohort_homeTok (s : State) (k : Nat) (f : Cohort → Cohort) : (s.modCohort k f).homeTok = s.homeTok := rfl
@[simp] theorem State.modCohort_fences (s : State) (k : Nat) (f : Cohort → Cohort) : (s.modCohort k f).fences = s.fences := rfl
@[simp] theorem State.modCohort_clampTab (s : State) (k : Nat) (f : Cohort → Cohort) : (s.modCohort k f).clampTab = s.clampTab := rfl
@[simp] theorem State.modCohort_homes (s : State) (k : Nat) (f : Cohort → Cohort) : (s.modCohort k f).homes = s.homes := rfl
@[simp] theorem State.modCohort_trecAt (s : State) (k : Nat) (f : Cohort → Cohort) : (s.modCohort k f).trecAt = s.trecAt := rfl
@[simp] theorem State.modCohort_recastAct (s : State) (k : Nat) (f : Cohort → Cohort) : (s.modCohort k f).recastAct = s.recastAct := rfl
@[simp] theorem State.modCohort_misses (s : State) (k : Nat) (f : Cohort → Cohort) : (s.modCohort k f).misses = s.misses := rfl
@[simp] theorem State.modCohort_hints (s : State) (k : Nat) (f : Cohort → Cohort) : (s.modCohort k f).hints = s.hints := rfl
@[simp] theorem State.modCohort_l2 (s : State) (k : Nat) (f : Cohort → Cohort) : (s.modCohort k f).l2 = s.l2 := rfl
@[simp] theorem State.modCohort_cores (s : State) (k : Nat) (f : Cohort → Cohort) : (s.modCohort k f).cores = s.cores := rfl
@[simp] theorem State.modCohort_dies (s : State) (k : Nat) (f : Cohort → Cohort) : (s.modCohort k f).dies = s.dies := rfl
@[simp] theorem State.modCohort_hubs (s : State) (k : Nat) (f : Cohort → Cohort) : (s.modCohort k f).hubs = s.hubs := rfl
@[simp] theorem State.modCohort_devs (s : State) (k : Nat) (f : Cohort → Cohort) : (s.modCohort k f).devs = s.devs := rfl
@[simp] theorem State.modCohort_tenants (s : State) (k : Nat) (f : Cohort → Cohort) : (s.modCohort k f).tenants = s.tenants := rfl
@[simp] theorem State.modCohort_teamSlots (s : State) (k : Nat) (f : Cohort → Cohort) : (s.modCohort k f).teamSlots = s.teamSlots := rfl
@[simp] theorem State.modCohort_teams (s : State) (k : Nat) (f : Cohort → Cohort) : (s.modCohort k f).teams = s.teams := rfl
@[simp] theorem State.modCohort_gangs (s : State) (k : Nat) (f : Cohort → Cohort) : (s.modCohort k f).gangs = s.gangs := rfl
@[simp] theorem State.modCohort_accesses (s : State) (k : Nat) (f : Cohort → Cohort) : (s.modCohort k f).accesses = s.accesses := rfl
@[simp] theorem State.modCohort_walks (s : State) (k : Nat) (f : Cohort → Cohort) : (s.modCohort k f).walks = s.walks := rfl
@[simp] theorem State.modCohort_xfers (s : State) (k : Nat) (f : Cohort → Cohort) : (s.modCohort k f).xfers = s.xfers := rfl
@[simp] theorem State.modCohort_mats (s : State) (k : Nat) (f : Cohort → Cohort) : (s.modCohort k f).mats = s.mats := rfl
@[simp] theorem State.modCohort_lateColl (s : State) (k : Nat) (f : Cohort → Cohort) : (s.modCohort k f).lateColl = s.lateColl := rfl
@[simp] theorem State.modCohort_grants (s : State) (k : Nat) (f : Cohort → Cohort) : (s.modCohort k f).grants = s.grants := rfl
@[simp] theorem State.modCohort_irqs (s : State) (k : Nat) (f : Cohort → Cohort) : (s.modCohort k f).irqs = s.irqs := rfl
@[simp] theorem State.modCohort_turn (s : State) (k : Nat) (f : Cohort → Cohort) : (s.modCohort k f).turn = s.turn := rfl

@[simp] theorem State.modCore_time (s : State) (k : Nat) (f : Core → Core) : (s.modCore k f).time = s.time := rfl
@[simp] theorem State.modCore_agenda (s : State) (k : Nat) (f : Core → Core) : (s.modCore k f).agenda = s.agenda := rfl
@[simp] theorem State.modCore_curGang (s : State) (k : Nat) (f : Core → Core) : (s.modCore k f).curGang = s.curGang := rfl
@[simp] theorem State.modCore_curSec (s : State) (k : Nat) (f : Core → Core) : (s.modCore k f).curSec = s.curSec := rfl
@[simp] theorem State.modCore_fresh (s : State) (k : Nat) (f : Core → Core) : (s.modCore k f).fresh = s.fresh := rfl
@[simp] theorem State.modCore_nextId (s : State) (k : Nat) (f : Core → Core) : (s.modCore k f).nextId = s.nextId := rfl
@[simp] theorem State.modCore_curEv (s : State) (k : Nat) (f : Core → Core) : (s.modCore k f).curEv = s.curEv := rfl
@[simp] theorem State.modCore_net (s : State) (k : Nat) (f : Core → Core) : (s.modCore k f).net = s.net := rfl
@[simp] theorem State.modCore_mem (s : State) (k : Nat) (f : Core → Core) : (s.modCore k f).mem = s.mem := rfl
@[simp] theorem State.modCore_hostMem (s : State) (k : Nat) (f : Core → Core) : (s.modCore k f).hostMem = s.hostMem := rfl
@[simp] theorem State.modCore_poolMem (s : State) (k : Nat) (f : Core → Core) : (s.modCore k f).poolMem = s.poolMem := rfl
@[simp] theorem State.modCore_poolPois (s : State) (k : Nat) (f : Core → Core) : (s.modCore k f).poolPois = s.poolPois := rfl
@[simp] theorem State.modCore_smeta (s : State) (k : Nat) (f : Core → Core) : (s.modCore k f).smeta = s.smeta := rfl
@[simp] theorem State.modCore_hold (s : State) (k : Nat) (f : Core → Core) : (s.modCore k f).hold = s.hold := rfl
@[simp] theorem State.modCore_homeTok (s : State) (k : Nat) (f : Core → Core) : (s.modCore k f).homeTok = s.homeTok := rfl
@[simp] theorem State.modCore_fences (s : State) (k : Nat) (f : Core → Core) : (s.modCore k f).fences = s.fences := rfl
@[simp] theorem State.modCore_clampTab (s : State) (k : Nat) (f : Core → Core) : (s.modCore k f).clampTab = s.clampTab := rfl
@[simp] theorem State.modCore_homes (s : State) (k : Nat) (f : Core → Core) : (s.modCore k f).homes = s.homes := rfl
@[simp] theorem State.modCore_trecAt (s : State) (k : Nat) (f : Core → Core) : (s.modCore k f).trecAt = s.trecAt := rfl
@[simp] theorem State.modCore_recastAct (s : State) (k : Nat) (f : Core → Core) : (s.modCore k f).recastAct = s.recastAct := rfl
@[simp] theorem State.modCore_misses (s : State) (k : Nat) (f : Core → Core) : (s.modCore k f).misses = s.misses := rfl
@[simp] theorem State.modCore_hints (s : State) (k : Nat) (f : Core → Core) : (s.modCore k f).hints = s.hints := rfl
@[simp] theorem State.modCore_l2 (s : State) (k : Nat) (f : Core → Core) : (s.modCore k f).l2 = s.l2 := rfl
@[simp] theorem State.modCore_dies (s : State) (k : Nat) (f : Core → Core) : (s.modCore k f).dies = s.dies := rfl
@[simp] theorem State.modCore_hubs (s : State) (k : Nat) (f : Core → Core) : (s.modCore k f).hubs = s.hubs := rfl
@[simp] theorem State.modCore_devs (s : State) (k : Nat) (f : Core → Core) : (s.modCore k f).devs = s.devs := rfl
@[simp] theorem State.modCore_tenants (s : State) (k : Nat) (f : Core → Core) : (s.modCore k f).tenants = s.tenants := rfl
@[simp] theorem State.modCore_teamSlots (s : State) (k : Nat) (f : Core → Core) : (s.modCore k f).teamSlots = s.teamSlots := rfl
@[simp] theorem State.modCore_cohSlots (s : State) (k : Nat) (f : Core → Core) : (s.modCore k f).cohSlots = s.cohSlots := rfl
@[simp] theorem State.modCore_teams (s : State) (k : Nat) (f : Core → Core) : (s.modCore k f).teams = s.teams := rfl
@[simp] theorem State.modCore_gangs (s : State) (k : Nat) (f : Core → Core) : (s.modCore k f).gangs = s.gangs := rfl
@[simp] theorem State.modCore_accesses (s : State) (k : Nat) (f : Core → Core) : (s.modCore k f).accesses = s.accesses := rfl
@[simp] theorem State.modCore_walks (s : State) (k : Nat) (f : Core → Core) : (s.modCore k f).walks = s.walks := rfl
@[simp] theorem State.modCore_xfers (s : State) (k : Nat) (f : Core → Core) : (s.modCore k f).xfers = s.xfers := rfl
@[simp] theorem State.modCore_mats (s : State) (k : Nat) (f : Core → Core) : (s.modCore k f).mats = s.mats := rfl
@[simp] theorem State.modCore_lateColl (s : State) (k : Nat) (f : Core → Core) : (s.modCore k f).lateColl = s.lateColl := rfl
@[simp] theorem State.modCore_grants (s : State) (k : Nat) (f : Core → Core) : (s.modCore k f).grants = s.grants := rfl
@[simp] theorem State.modCore_irqs (s : State) (k : Nat) (f : Core → Core) : (s.modCore k f).irqs = s.irqs := rfl
@[simp] theorem State.modCore_turn (s : State) (k : Nat) (f : Core → Core) : (s.modCore k f).turn = s.turn := rfl

@[simp] theorem State.modDie_time (s : State) (k : Nat) (f : Die → Die) : (s.modDie k f).time = s.time := rfl
@[simp] theorem State.modDie_agenda (s : State) (k : Nat) (f : Die → Die) : (s.modDie k f).agenda = s.agenda := rfl
@[simp] theorem State.modDie_curGang (s : State) (k : Nat) (f : Die → Die) : (s.modDie k f).curGang = s.curGang := rfl
@[simp] theorem State.modDie_curSec (s : State) (k : Nat) (f : Die → Die) : (s.modDie k f).curSec = s.curSec := rfl
@[simp] theorem State.modDie_fresh (s : State) (k : Nat) (f : Die → Die) : (s.modDie k f).fresh = s.fresh := rfl
@[simp] theorem State.modDie_nextId (s : State) (k : Nat) (f : Die → Die) : (s.modDie k f).nextId = s.nextId := rfl
@[simp] theorem State.modDie_curEv (s : State) (k : Nat) (f : Die → Die) : (s.modDie k f).curEv = s.curEv := rfl
@[simp] theorem State.modDie_net (s : State) (k : Nat) (f : Die → Die) : (s.modDie k f).net = s.net := rfl
@[simp] theorem State.modDie_mem (s : State) (k : Nat) (f : Die → Die) : (s.modDie k f).mem = s.mem := rfl
@[simp] theorem State.modDie_hostMem (s : State) (k : Nat) (f : Die → Die) : (s.modDie k f).hostMem = s.hostMem := rfl
@[simp] theorem State.modDie_poolMem (s : State) (k : Nat) (f : Die → Die) : (s.modDie k f).poolMem = s.poolMem := rfl
@[simp] theorem State.modDie_poolPois (s : State) (k : Nat) (f : Die → Die) : (s.modDie k f).poolPois = s.poolPois := rfl
@[simp] theorem State.modDie_smeta (s : State) (k : Nat) (f : Die → Die) : (s.modDie k f).smeta = s.smeta := rfl
@[simp] theorem State.modDie_hold (s : State) (k : Nat) (f : Die → Die) : (s.modDie k f).hold = s.hold := rfl
@[simp] theorem State.modDie_homeTok (s : State) (k : Nat) (f : Die → Die) : (s.modDie k f).homeTok = s.homeTok := rfl
@[simp] theorem State.modDie_fences (s : State) (k : Nat) (f : Die → Die) : (s.modDie k f).fences = s.fences := rfl
@[simp] theorem State.modDie_clampTab (s : State) (k : Nat) (f : Die → Die) : (s.modDie k f).clampTab = s.clampTab := rfl
@[simp] theorem State.modDie_homes (s : State) (k : Nat) (f : Die → Die) : (s.modDie k f).homes = s.homes := rfl
@[simp] theorem State.modDie_trecAt (s : State) (k : Nat) (f : Die → Die) : (s.modDie k f).trecAt = s.trecAt := rfl
@[simp] theorem State.modDie_recastAct (s : State) (k : Nat) (f : Die → Die) : (s.modDie k f).recastAct = s.recastAct := rfl
@[simp] theorem State.modDie_misses (s : State) (k : Nat) (f : Die → Die) : (s.modDie k f).misses = s.misses := rfl
@[simp] theorem State.modDie_hints (s : State) (k : Nat) (f : Die → Die) : (s.modDie k f).hints = s.hints := rfl
@[simp] theorem State.modDie_l2 (s : State) (k : Nat) (f : Die → Die) : (s.modDie k f).l2 = s.l2 := rfl
@[simp] theorem State.modDie_cores (s : State) (k : Nat) (f : Die → Die) : (s.modDie k f).cores = s.cores := rfl
@[simp] theorem State.modDie_hubs (s : State) (k : Nat) (f : Die → Die) : (s.modDie k f).hubs = s.hubs := rfl
@[simp] theorem State.modDie_devs (s : State) (k : Nat) (f : Die → Die) : (s.modDie k f).devs = s.devs := rfl
@[simp] theorem State.modDie_tenants (s : State) (k : Nat) (f : Die → Die) : (s.modDie k f).tenants = s.tenants := rfl
@[simp] theorem State.modDie_teamSlots (s : State) (k : Nat) (f : Die → Die) : (s.modDie k f).teamSlots = s.teamSlots := rfl
@[simp] theorem State.modDie_cohSlots (s : State) (k : Nat) (f : Die → Die) : (s.modDie k f).cohSlots = s.cohSlots := rfl
@[simp] theorem State.modDie_teams (s : State) (k : Nat) (f : Die → Die) : (s.modDie k f).teams = s.teams := rfl
@[simp] theorem State.modDie_gangs (s : State) (k : Nat) (f : Die → Die) : (s.modDie k f).gangs = s.gangs := rfl
@[simp] theorem State.modDie_accesses (s : State) (k : Nat) (f : Die → Die) : (s.modDie k f).accesses = s.accesses := rfl
@[simp] theorem State.modDie_walks (s : State) (k : Nat) (f : Die → Die) : (s.modDie k f).walks = s.walks := rfl
@[simp] theorem State.modDie_xfers (s : State) (k : Nat) (f : Die → Die) : (s.modDie k f).xfers = s.xfers := rfl
@[simp] theorem State.modDie_mats (s : State) (k : Nat) (f : Die → Die) : (s.modDie k f).mats = s.mats := rfl
@[simp] theorem State.modDie_lateColl (s : State) (k : Nat) (f : Die → Die) : (s.modDie k f).lateColl = s.lateColl := rfl
@[simp] theorem State.modDie_grants (s : State) (k : Nat) (f : Die → Die) : (s.modDie k f).grants = s.grants := rfl
@[simp] theorem State.modDie_irqs (s : State) (k : Nat) (f : Die → Die) : (s.modDie k f).irqs = s.irqs := rfl
@[simp] theorem State.modDie_turn (s : State) (k : Nat) (f : Die → Die) : (s.modDie k f).turn = s.turn := rfl

@[simp] theorem State.modHub_time (s : State) (k : Nat) (f : Hub → Hub) : (s.modHub k f).time = s.time := rfl
@[simp] theorem State.modHub_agenda (s : State) (k : Nat) (f : Hub → Hub) : (s.modHub k f).agenda = s.agenda := rfl
@[simp] theorem State.modHub_curGang (s : State) (k : Nat) (f : Hub → Hub) : (s.modHub k f).curGang = s.curGang := rfl
@[simp] theorem State.modHub_curSec (s : State) (k : Nat) (f : Hub → Hub) : (s.modHub k f).curSec = s.curSec := rfl
@[simp] theorem State.modHub_fresh (s : State) (k : Nat) (f : Hub → Hub) : (s.modHub k f).fresh = s.fresh := rfl
@[simp] theorem State.modHub_nextId (s : State) (k : Nat) (f : Hub → Hub) : (s.modHub k f).nextId = s.nextId := rfl
@[simp] theorem State.modHub_curEv (s : State) (k : Nat) (f : Hub → Hub) : (s.modHub k f).curEv = s.curEv := rfl
@[simp] theorem State.modHub_net (s : State) (k : Nat) (f : Hub → Hub) : (s.modHub k f).net = s.net := rfl
@[simp] theorem State.modHub_mem (s : State) (k : Nat) (f : Hub → Hub) : (s.modHub k f).mem = s.mem := rfl
@[simp] theorem State.modHub_hostMem (s : State) (k : Nat) (f : Hub → Hub) : (s.modHub k f).hostMem = s.hostMem := rfl
@[simp] theorem State.modHub_poolMem (s : State) (k : Nat) (f : Hub → Hub) : (s.modHub k f).poolMem = s.poolMem := rfl
@[simp] theorem State.modHub_poolPois (s : State) (k : Nat) (f : Hub → Hub) : (s.modHub k f).poolPois = s.poolPois := rfl
@[simp] theorem State.modHub_smeta (s : State) (k : Nat) (f : Hub → Hub) : (s.modHub k f).smeta = s.smeta := rfl
@[simp] theorem State.modHub_hold (s : State) (k : Nat) (f : Hub → Hub) : (s.modHub k f).hold = s.hold := rfl
@[simp] theorem State.modHub_homeTok (s : State) (k : Nat) (f : Hub → Hub) : (s.modHub k f).homeTok = s.homeTok := rfl
@[simp] theorem State.modHub_fences (s : State) (k : Nat) (f : Hub → Hub) : (s.modHub k f).fences = s.fences := rfl
@[simp] theorem State.modHub_clampTab (s : State) (k : Nat) (f : Hub → Hub) : (s.modHub k f).clampTab = s.clampTab := rfl
@[simp] theorem State.modHub_homes (s : State) (k : Nat) (f : Hub → Hub) : (s.modHub k f).homes = s.homes := rfl
@[simp] theorem State.modHub_trecAt (s : State) (k : Nat) (f : Hub → Hub) : (s.modHub k f).trecAt = s.trecAt := rfl
@[simp] theorem State.modHub_recastAct (s : State) (k : Nat) (f : Hub → Hub) : (s.modHub k f).recastAct = s.recastAct := rfl
@[simp] theorem State.modHub_misses (s : State) (k : Nat) (f : Hub → Hub) : (s.modHub k f).misses = s.misses := rfl
@[simp] theorem State.modHub_hints (s : State) (k : Nat) (f : Hub → Hub) : (s.modHub k f).hints = s.hints := rfl
@[simp] theorem State.modHub_l2 (s : State) (k : Nat) (f : Hub → Hub) : (s.modHub k f).l2 = s.l2 := rfl
@[simp] theorem State.modHub_cores (s : State) (k : Nat) (f : Hub → Hub) : (s.modHub k f).cores = s.cores := rfl
@[simp] theorem State.modHub_dies (s : State) (k : Nat) (f : Hub → Hub) : (s.modHub k f).dies = s.dies := rfl
@[simp] theorem State.modHub_devs (s : State) (k : Nat) (f : Hub → Hub) : (s.modHub k f).devs = s.devs := rfl
@[simp] theorem State.modHub_tenants (s : State) (k : Nat) (f : Hub → Hub) : (s.modHub k f).tenants = s.tenants := rfl
@[simp] theorem State.modHub_teamSlots (s : State) (k : Nat) (f : Hub → Hub) : (s.modHub k f).teamSlots = s.teamSlots := rfl
@[simp] theorem State.modHub_cohSlots (s : State) (k : Nat) (f : Hub → Hub) : (s.modHub k f).cohSlots = s.cohSlots := rfl
@[simp] theorem State.modHub_teams (s : State) (k : Nat) (f : Hub → Hub) : (s.modHub k f).teams = s.teams := rfl
@[simp] theorem State.modHub_gangs (s : State) (k : Nat) (f : Hub → Hub) : (s.modHub k f).gangs = s.gangs := rfl
@[simp] theorem State.modHub_accesses (s : State) (k : Nat) (f : Hub → Hub) : (s.modHub k f).accesses = s.accesses := rfl
@[simp] theorem State.modHub_walks (s : State) (k : Nat) (f : Hub → Hub) : (s.modHub k f).walks = s.walks := rfl
@[simp] theorem State.modHub_xfers (s : State) (k : Nat) (f : Hub → Hub) : (s.modHub k f).xfers = s.xfers := rfl
@[simp] theorem State.modHub_mats (s : State) (k : Nat) (f : Hub → Hub) : (s.modHub k f).mats = s.mats := rfl
@[simp] theorem State.modHub_lateColl (s : State) (k : Nat) (f : Hub → Hub) : (s.modHub k f).lateColl = s.lateColl := rfl
@[simp] theorem State.modHub_grants (s : State) (k : Nat) (f : Hub → Hub) : (s.modHub k f).grants = s.grants := rfl
@[simp] theorem State.modHub_irqs (s : State) (k : Nat) (f : Hub → Hub) : (s.modHub k f).irqs = s.irqs := rfl
@[simp] theorem State.modHub_turn (s : State) (k : Nat) (f : Hub → Hub) : (s.modHub k f).turn = s.turn := rfl

@[simp] theorem State.modDev_time (s : State) (k : Nat) (f : Dev → Dev) : (s.modDev k f).time = s.time := rfl
@[simp] theorem State.modDev_agenda (s : State) (k : Nat) (f : Dev → Dev) : (s.modDev k f).agenda = s.agenda := rfl
@[simp] theorem State.modDev_curGang (s : State) (k : Nat) (f : Dev → Dev) : (s.modDev k f).curGang = s.curGang := rfl
@[simp] theorem State.modDev_curSec (s : State) (k : Nat) (f : Dev → Dev) : (s.modDev k f).curSec = s.curSec := rfl
@[simp] theorem State.modDev_fresh (s : State) (k : Nat) (f : Dev → Dev) : (s.modDev k f).fresh = s.fresh := rfl
@[simp] theorem State.modDev_nextId (s : State) (k : Nat) (f : Dev → Dev) : (s.modDev k f).nextId = s.nextId := rfl
@[simp] theorem State.modDev_curEv (s : State) (k : Nat) (f : Dev → Dev) : (s.modDev k f).curEv = s.curEv := rfl
@[simp] theorem State.modDev_net (s : State) (k : Nat) (f : Dev → Dev) : (s.modDev k f).net = s.net := rfl
@[simp] theorem State.modDev_mem (s : State) (k : Nat) (f : Dev → Dev) : (s.modDev k f).mem = s.mem := rfl
@[simp] theorem State.modDev_hostMem (s : State) (k : Nat) (f : Dev → Dev) : (s.modDev k f).hostMem = s.hostMem := rfl
@[simp] theorem State.modDev_poolMem (s : State) (k : Nat) (f : Dev → Dev) : (s.modDev k f).poolMem = s.poolMem := rfl
@[simp] theorem State.modDev_poolPois (s : State) (k : Nat) (f : Dev → Dev) : (s.modDev k f).poolPois = s.poolPois := rfl
@[simp] theorem State.modDev_smeta (s : State) (k : Nat) (f : Dev → Dev) : (s.modDev k f).smeta = s.smeta := rfl
@[simp] theorem State.modDev_hold (s : State) (k : Nat) (f : Dev → Dev) : (s.modDev k f).hold = s.hold := rfl
@[simp] theorem State.modDev_homeTok (s : State) (k : Nat) (f : Dev → Dev) : (s.modDev k f).homeTok = s.homeTok := rfl
@[simp] theorem State.modDev_fences (s : State) (k : Nat) (f : Dev → Dev) : (s.modDev k f).fences = s.fences := rfl
@[simp] theorem State.modDev_clampTab (s : State) (k : Nat) (f : Dev → Dev) : (s.modDev k f).clampTab = s.clampTab := rfl
@[simp] theorem State.modDev_homes (s : State) (k : Nat) (f : Dev → Dev) : (s.modDev k f).homes = s.homes := rfl
@[simp] theorem State.modDev_trecAt (s : State) (k : Nat) (f : Dev → Dev) : (s.modDev k f).trecAt = s.trecAt := rfl
@[simp] theorem State.modDev_recastAct (s : State) (k : Nat) (f : Dev → Dev) : (s.modDev k f).recastAct = s.recastAct := rfl
@[simp] theorem State.modDev_misses (s : State) (k : Nat) (f : Dev → Dev) : (s.modDev k f).misses = s.misses := rfl
@[simp] theorem State.modDev_hints (s : State) (k : Nat) (f : Dev → Dev) : (s.modDev k f).hints = s.hints := rfl
@[simp] theorem State.modDev_l2 (s : State) (k : Nat) (f : Dev → Dev) : (s.modDev k f).l2 = s.l2 := rfl
@[simp] theorem State.modDev_cores (s : State) (k : Nat) (f : Dev → Dev) : (s.modDev k f).cores = s.cores := rfl
@[simp] theorem State.modDev_dies (s : State) (k : Nat) (f : Dev → Dev) : (s.modDev k f).dies = s.dies := rfl
@[simp] theorem State.modDev_hubs (s : State) (k : Nat) (f : Dev → Dev) : (s.modDev k f).hubs = s.hubs := rfl
@[simp] theorem State.modDev_tenants (s : State) (k : Nat) (f : Dev → Dev) : (s.modDev k f).tenants = s.tenants := rfl
@[simp] theorem State.modDev_teamSlots (s : State) (k : Nat) (f : Dev → Dev) : (s.modDev k f).teamSlots = s.teamSlots := rfl
@[simp] theorem State.modDev_cohSlots (s : State) (k : Nat) (f : Dev → Dev) : (s.modDev k f).cohSlots = s.cohSlots := rfl
@[simp] theorem State.modDev_teams (s : State) (k : Nat) (f : Dev → Dev) : (s.modDev k f).teams = s.teams := rfl
@[simp] theorem State.modDev_gangs (s : State) (k : Nat) (f : Dev → Dev) : (s.modDev k f).gangs = s.gangs := rfl
@[simp] theorem State.modDev_accesses (s : State) (k : Nat) (f : Dev → Dev) : (s.modDev k f).accesses = s.accesses := rfl
@[simp] theorem State.modDev_walks (s : State) (k : Nat) (f : Dev → Dev) : (s.modDev k f).walks = s.walks := rfl
@[simp] theorem State.modDev_xfers (s : State) (k : Nat) (f : Dev → Dev) : (s.modDev k f).xfers = s.xfers := rfl
@[simp] theorem State.modDev_mats (s : State) (k : Nat) (f : Dev → Dev) : (s.modDev k f).mats = s.mats := rfl
@[simp] theorem State.modDev_lateColl (s : State) (k : Nat) (f : Dev → Dev) : (s.modDev k f).lateColl = s.lateColl := rfl
@[simp] theorem State.modDev_grants (s : State) (k : Nat) (f : Dev → Dev) : (s.modDev k f).grants = s.grants := rfl
@[simp] theorem State.modDev_irqs (s : State) (k : Nat) (f : Dev → Dev) : (s.modDev k f).irqs = s.irqs := rfl
@[simp] theorem State.modDev_turn (s : State) (k : Nat) (f : Dev → Dev) : (s.modDev k f).turn = s.turn := rfl

@[simp] theorem State.modTenant_time (s : State) (k : Nat) (f : Tenant → Tenant) : (s.modTenant k f).time = s.time := rfl
@[simp] theorem State.modTenant_agenda (s : State) (k : Nat) (f : Tenant → Tenant) : (s.modTenant k f).agenda = s.agenda := rfl
@[simp] theorem State.modTenant_curGang (s : State) (k : Nat) (f : Tenant → Tenant) : (s.modTenant k f).curGang = s.curGang := rfl
@[simp] theorem State.modTenant_curSec (s : State) (k : Nat) (f : Tenant → Tenant) : (s.modTenant k f).curSec = s.curSec := rfl
@[simp] theorem State.modTenant_fresh (s : State) (k : Nat) (f : Tenant → Tenant) : (s.modTenant k f).fresh = s.fresh := rfl
@[simp] theorem State.modTenant_nextId (s : State) (k : Nat) (f : Tenant → Tenant) : (s.modTenant k f).nextId = s.nextId := rfl
@[simp] theorem State.modTenant_curEv (s : State) (k : Nat) (f : Tenant → Tenant) : (s.modTenant k f).curEv = s.curEv := rfl
@[simp] theorem State.modTenant_net (s : State) (k : Nat) (f : Tenant → Tenant) : (s.modTenant k f).net = s.net := rfl
@[simp] theorem State.modTenant_mem (s : State) (k : Nat) (f : Tenant → Tenant) : (s.modTenant k f).mem = s.mem := rfl
@[simp] theorem State.modTenant_hostMem (s : State) (k : Nat) (f : Tenant → Tenant) : (s.modTenant k f).hostMem = s.hostMem := rfl
@[simp] theorem State.modTenant_poolMem (s : State) (k : Nat) (f : Tenant → Tenant) : (s.modTenant k f).poolMem = s.poolMem := rfl
@[simp] theorem State.modTenant_poolPois (s : State) (k : Nat) (f : Tenant → Tenant) : (s.modTenant k f).poolPois = s.poolPois := rfl
@[simp] theorem State.modTenant_smeta (s : State) (k : Nat) (f : Tenant → Tenant) : (s.modTenant k f).smeta = s.smeta := rfl
@[simp] theorem State.modTenant_hold (s : State) (k : Nat) (f : Tenant → Tenant) : (s.modTenant k f).hold = s.hold := rfl
@[simp] theorem State.modTenant_homeTok (s : State) (k : Nat) (f : Tenant → Tenant) : (s.modTenant k f).homeTok = s.homeTok := rfl
@[simp] theorem State.modTenant_fences (s : State) (k : Nat) (f : Tenant → Tenant) : (s.modTenant k f).fences = s.fences := rfl
@[simp] theorem State.modTenant_clampTab (s : State) (k : Nat) (f : Tenant → Tenant) : (s.modTenant k f).clampTab = s.clampTab := rfl
@[simp] theorem State.modTenant_homes (s : State) (k : Nat) (f : Tenant → Tenant) : (s.modTenant k f).homes = s.homes := rfl
@[simp] theorem State.modTenant_trecAt (s : State) (k : Nat) (f : Tenant → Tenant) : (s.modTenant k f).trecAt = s.trecAt := rfl
@[simp] theorem State.modTenant_recastAct (s : State) (k : Nat) (f : Tenant → Tenant) : (s.modTenant k f).recastAct = s.recastAct := rfl
@[simp] theorem State.modTenant_misses (s : State) (k : Nat) (f : Tenant → Tenant) : (s.modTenant k f).misses = s.misses := rfl
@[simp] theorem State.modTenant_hints (s : State) (k : Nat) (f : Tenant → Tenant) : (s.modTenant k f).hints = s.hints := rfl
@[simp] theorem State.modTenant_l2 (s : State) (k : Nat) (f : Tenant → Tenant) : (s.modTenant k f).l2 = s.l2 := rfl
@[simp] theorem State.modTenant_cores (s : State) (k : Nat) (f : Tenant → Tenant) : (s.modTenant k f).cores = s.cores := rfl
@[simp] theorem State.modTenant_dies (s : State) (k : Nat) (f : Tenant → Tenant) : (s.modTenant k f).dies = s.dies := rfl
@[simp] theorem State.modTenant_hubs (s : State) (k : Nat) (f : Tenant → Tenant) : (s.modTenant k f).hubs = s.hubs := rfl
@[simp] theorem State.modTenant_devs (s : State) (k : Nat) (f : Tenant → Tenant) : (s.modTenant k f).devs = s.devs := rfl
@[simp] theorem State.modTenant_teamSlots (s : State) (k : Nat) (f : Tenant → Tenant) : (s.modTenant k f).teamSlots = s.teamSlots := rfl
@[simp] theorem State.modTenant_cohSlots (s : State) (k : Nat) (f : Tenant → Tenant) : (s.modTenant k f).cohSlots = s.cohSlots := rfl
@[simp] theorem State.modTenant_teams (s : State) (k : Nat) (f : Tenant → Tenant) : (s.modTenant k f).teams = s.teams := rfl
@[simp] theorem State.modTenant_gangs (s : State) (k : Nat) (f : Tenant → Tenant) : (s.modTenant k f).gangs = s.gangs := rfl
@[simp] theorem State.modTenant_accesses (s : State) (k : Nat) (f : Tenant → Tenant) : (s.modTenant k f).accesses = s.accesses := rfl
@[simp] theorem State.modTenant_walks (s : State) (k : Nat) (f : Tenant → Tenant) : (s.modTenant k f).walks = s.walks := rfl
@[simp] theorem State.modTenant_xfers (s : State) (k : Nat) (f : Tenant → Tenant) : (s.modTenant k f).xfers = s.xfers := rfl
@[simp] theorem State.modTenant_mats (s : State) (k : Nat) (f : Tenant → Tenant) : (s.modTenant k f).mats = s.mats := rfl
@[simp] theorem State.modTenant_lateColl (s : State) (k : Nat) (f : Tenant → Tenant) : (s.modTenant k f).lateColl = s.lateColl := rfl
@[simp] theorem State.modTenant_grants (s : State) (k : Nat) (f : Tenant → Tenant) : (s.modTenant k f).grants = s.grants := rfl
@[simp] theorem State.modTenant_irqs (s : State) (k : Nat) (f : Tenant → Tenant) : (s.modTenant k f).irqs = s.irqs := rfl
@[simp] theorem State.modTenant_turn (s : State) (k : Nat) (f : Tenant → Tenant) : (s.modTenant k f).turn = s.turn := rfl

@[simp] theorem State.modHome_time (s : State) (k : Nat) (f : HomeUnit → HomeUnit) : (s.modHome k f).time = s.time := rfl
@[simp] theorem State.modHome_agenda (s : State) (k : Nat) (f : HomeUnit → HomeUnit) : (s.modHome k f).agenda = s.agenda := rfl
@[simp] theorem State.modHome_curGang (s : State) (k : Nat) (f : HomeUnit → HomeUnit) : (s.modHome k f).curGang = s.curGang := rfl
@[simp] theorem State.modHome_curSec (s : State) (k : Nat) (f : HomeUnit → HomeUnit) : (s.modHome k f).curSec = s.curSec := rfl
@[simp] theorem State.modHome_fresh (s : State) (k : Nat) (f : HomeUnit → HomeUnit) : (s.modHome k f).fresh = s.fresh := rfl
@[simp] theorem State.modHome_nextId (s : State) (k : Nat) (f : HomeUnit → HomeUnit) : (s.modHome k f).nextId = s.nextId := rfl
@[simp] theorem State.modHome_curEv (s : State) (k : Nat) (f : HomeUnit → HomeUnit) : (s.modHome k f).curEv = s.curEv := rfl
@[simp] theorem State.modHome_net (s : State) (k : Nat) (f : HomeUnit → HomeUnit) : (s.modHome k f).net = s.net := rfl
@[simp] theorem State.modHome_mem (s : State) (k : Nat) (f : HomeUnit → HomeUnit) : (s.modHome k f).mem = s.mem := rfl
@[simp] theorem State.modHome_hostMem (s : State) (k : Nat) (f : HomeUnit → HomeUnit) : (s.modHome k f).hostMem = s.hostMem := rfl
@[simp] theorem State.modHome_poolMem (s : State) (k : Nat) (f : HomeUnit → HomeUnit) : (s.modHome k f).poolMem = s.poolMem := rfl
@[simp] theorem State.modHome_poolPois (s : State) (k : Nat) (f : HomeUnit → HomeUnit) : (s.modHome k f).poolPois = s.poolPois := rfl
@[simp] theorem State.modHome_smeta (s : State) (k : Nat) (f : HomeUnit → HomeUnit) : (s.modHome k f).smeta = s.smeta := rfl
@[simp] theorem State.modHome_hold (s : State) (k : Nat) (f : HomeUnit → HomeUnit) : (s.modHome k f).hold = s.hold := rfl
@[simp] theorem State.modHome_homeTok (s : State) (k : Nat) (f : HomeUnit → HomeUnit) : (s.modHome k f).homeTok = s.homeTok := rfl
@[simp] theorem State.modHome_fences (s : State) (k : Nat) (f : HomeUnit → HomeUnit) : (s.modHome k f).fences = s.fences := rfl
@[simp] theorem State.modHome_clampTab (s : State) (k : Nat) (f : HomeUnit → HomeUnit) : (s.modHome k f).clampTab = s.clampTab := rfl
@[simp] theorem State.modHome_trecAt (s : State) (k : Nat) (f : HomeUnit → HomeUnit) : (s.modHome k f).trecAt = s.trecAt := rfl
@[simp] theorem State.modHome_recastAct (s : State) (k : Nat) (f : HomeUnit → HomeUnit) : (s.modHome k f).recastAct = s.recastAct := rfl
@[simp] theorem State.modHome_misses (s : State) (k : Nat) (f : HomeUnit → HomeUnit) : (s.modHome k f).misses = s.misses := rfl
@[simp] theorem State.modHome_hints (s : State) (k : Nat) (f : HomeUnit → HomeUnit) : (s.modHome k f).hints = s.hints := rfl
@[simp] theorem State.modHome_l2 (s : State) (k : Nat) (f : HomeUnit → HomeUnit) : (s.modHome k f).l2 = s.l2 := rfl
@[simp] theorem State.modHome_cores (s : State) (k : Nat) (f : HomeUnit → HomeUnit) : (s.modHome k f).cores = s.cores := rfl
@[simp] theorem State.modHome_dies (s : State) (k : Nat) (f : HomeUnit → HomeUnit) : (s.modHome k f).dies = s.dies := rfl
@[simp] theorem State.modHome_hubs (s : State) (k : Nat) (f : HomeUnit → HomeUnit) : (s.modHome k f).hubs = s.hubs := rfl
@[simp] theorem State.modHome_devs (s : State) (k : Nat) (f : HomeUnit → HomeUnit) : (s.modHome k f).devs = s.devs := rfl
@[simp] theorem State.modHome_tenants (s : State) (k : Nat) (f : HomeUnit → HomeUnit) : (s.modHome k f).tenants = s.tenants := rfl
@[simp] theorem State.modHome_teamSlots (s : State) (k : Nat) (f : HomeUnit → HomeUnit) : (s.modHome k f).teamSlots = s.teamSlots := rfl
@[simp] theorem State.modHome_cohSlots (s : State) (k : Nat) (f : HomeUnit → HomeUnit) : (s.modHome k f).cohSlots = s.cohSlots := rfl
@[simp] theorem State.modHome_teams (s : State) (k : Nat) (f : HomeUnit → HomeUnit) : (s.modHome k f).teams = s.teams := rfl
@[simp] theorem State.modHome_gangs (s : State) (k : Nat) (f : HomeUnit → HomeUnit) : (s.modHome k f).gangs = s.gangs := rfl
@[simp] theorem State.modHome_accesses (s : State) (k : Nat) (f : HomeUnit → HomeUnit) : (s.modHome k f).accesses = s.accesses := rfl
@[simp] theorem State.modHome_walks (s : State) (k : Nat) (f : HomeUnit → HomeUnit) : (s.modHome k f).walks = s.walks := rfl
@[simp] theorem State.modHome_xfers (s : State) (k : Nat) (f : HomeUnit → HomeUnit) : (s.modHome k f).xfers = s.xfers := rfl
@[simp] theorem State.modHome_mats (s : State) (k : Nat) (f : HomeUnit → HomeUnit) : (s.modHome k f).mats = s.mats := rfl
@[simp] theorem State.modHome_lateColl (s : State) (k : Nat) (f : HomeUnit → HomeUnit) : (s.modHome k f).lateColl = s.lateColl := rfl
@[simp] theorem State.modHome_grants (s : State) (k : Nat) (f : HomeUnit → HomeUnit) : (s.modHome k f).grants = s.grants := rfl
@[simp] theorem State.modHome_irqs (s : State) (k : Nat) (f : HomeUnit → HomeUnit) : (s.modHome k f).irqs = s.irqs := rfl
@[simp] theorem State.modHome_turn (s : State) (k : Nat) (f : HomeUnit → HomeUnit) : (s.modHome k f).turn = s.turn := rfl

@[simp] theorem State.modSmeta_time (s : State) (k : Nat) (f : SMeta → SMeta) : (s.modSmeta k f).time = s.time := rfl
@[simp] theorem State.modSmeta_agenda (s : State) (k : Nat) (f : SMeta → SMeta) : (s.modSmeta k f).agenda = s.agenda := rfl
@[simp] theorem State.modSmeta_curGang (s : State) (k : Nat) (f : SMeta → SMeta) : (s.modSmeta k f).curGang = s.curGang := rfl
@[simp] theorem State.modSmeta_curSec (s : State) (k : Nat) (f : SMeta → SMeta) : (s.modSmeta k f).curSec = s.curSec := rfl
@[simp] theorem State.modSmeta_fresh (s : State) (k : Nat) (f : SMeta → SMeta) : (s.modSmeta k f).fresh = s.fresh := rfl
@[simp] theorem State.modSmeta_nextId (s : State) (k : Nat) (f : SMeta → SMeta) : (s.modSmeta k f).nextId = s.nextId := rfl
@[simp] theorem State.modSmeta_curEv (s : State) (k : Nat) (f : SMeta → SMeta) : (s.modSmeta k f).curEv = s.curEv := rfl
@[simp] theorem State.modSmeta_net (s : State) (k : Nat) (f : SMeta → SMeta) : (s.modSmeta k f).net = s.net := rfl
@[simp] theorem State.modSmeta_mem (s : State) (k : Nat) (f : SMeta → SMeta) : (s.modSmeta k f).mem = s.mem := rfl
@[simp] theorem State.modSmeta_hostMem (s : State) (k : Nat) (f : SMeta → SMeta) : (s.modSmeta k f).hostMem = s.hostMem := rfl
@[simp] theorem State.modSmeta_poolMem (s : State) (k : Nat) (f : SMeta → SMeta) : (s.modSmeta k f).poolMem = s.poolMem := rfl
@[simp] theorem State.modSmeta_poolPois (s : State) (k : Nat) (f : SMeta → SMeta) : (s.modSmeta k f).poolPois = s.poolPois := rfl
@[simp] theorem State.modSmeta_hold (s : State) (k : Nat) (f : SMeta → SMeta) : (s.modSmeta k f).hold = s.hold := rfl
@[simp] theorem State.modSmeta_homeTok (s : State) (k : Nat) (f : SMeta → SMeta) : (s.modSmeta k f).homeTok = s.homeTok := rfl
@[simp] theorem State.modSmeta_fences (s : State) (k : Nat) (f : SMeta → SMeta) : (s.modSmeta k f).fences = s.fences := rfl
@[simp] theorem State.modSmeta_clampTab (s : State) (k : Nat) (f : SMeta → SMeta) : (s.modSmeta k f).clampTab = s.clampTab := rfl
@[simp] theorem State.modSmeta_homes (s : State) (k : Nat) (f : SMeta → SMeta) : (s.modSmeta k f).homes = s.homes := rfl
@[simp] theorem State.modSmeta_trecAt (s : State) (k : Nat) (f : SMeta → SMeta) : (s.modSmeta k f).trecAt = s.trecAt := rfl
@[simp] theorem State.modSmeta_recastAct (s : State) (k : Nat) (f : SMeta → SMeta) : (s.modSmeta k f).recastAct = s.recastAct := rfl
@[simp] theorem State.modSmeta_misses (s : State) (k : Nat) (f : SMeta → SMeta) : (s.modSmeta k f).misses = s.misses := rfl
@[simp] theorem State.modSmeta_hints (s : State) (k : Nat) (f : SMeta → SMeta) : (s.modSmeta k f).hints = s.hints := rfl
@[simp] theorem State.modSmeta_l2 (s : State) (k : Nat) (f : SMeta → SMeta) : (s.modSmeta k f).l2 = s.l2 := rfl
@[simp] theorem State.modSmeta_cores (s : State) (k : Nat) (f : SMeta → SMeta) : (s.modSmeta k f).cores = s.cores := rfl
@[simp] theorem State.modSmeta_dies (s : State) (k : Nat) (f : SMeta → SMeta) : (s.modSmeta k f).dies = s.dies := rfl
@[simp] theorem State.modSmeta_hubs (s : State) (k : Nat) (f : SMeta → SMeta) : (s.modSmeta k f).hubs = s.hubs := rfl
@[simp] theorem State.modSmeta_devs (s : State) (k : Nat) (f : SMeta → SMeta) : (s.modSmeta k f).devs = s.devs := rfl
@[simp] theorem State.modSmeta_tenants (s : State) (k : Nat) (f : SMeta → SMeta) : (s.modSmeta k f).tenants = s.tenants := rfl
@[simp] theorem State.modSmeta_teamSlots (s : State) (k : Nat) (f : SMeta → SMeta) : (s.modSmeta k f).teamSlots = s.teamSlots := rfl
@[simp] theorem State.modSmeta_cohSlots (s : State) (k : Nat) (f : SMeta → SMeta) : (s.modSmeta k f).cohSlots = s.cohSlots := rfl
@[simp] theorem State.modSmeta_teams (s : State) (k : Nat) (f : SMeta → SMeta) : (s.modSmeta k f).teams = s.teams := rfl
@[simp] theorem State.modSmeta_gangs (s : State) (k : Nat) (f : SMeta → SMeta) : (s.modSmeta k f).gangs = s.gangs := rfl
@[simp] theorem State.modSmeta_accesses (s : State) (k : Nat) (f : SMeta → SMeta) : (s.modSmeta k f).accesses = s.accesses := rfl
@[simp] theorem State.modSmeta_walks (s : State) (k : Nat) (f : SMeta → SMeta) : (s.modSmeta k f).walks = s.walks := rfl
@[simp] theorem State.modSmeta_xfers (s : State) (k : Nat) (f : SMeta → SMeta) : (s.modSmeta k f).xfers = s.xfers := rfl
@[simp] theorem State.modSmeta_mats (s : State) (k : Nat) (f : SMeta → SMeta) : (s.modSmeta k f).mats = s.mats := rfl
@[simp] theorem State.modSmeta_lateColl (s : State) (k : Nat) (f : SMeta → SMeta) : (s.modSmeta k f).lateColl = s.lateColl := rfl
@[simp] theorem State.modSmeta_grants (s : State) (k : Nat) (f : SMeta → SMeta) : (s.modSmeta k f).grants = s.grants := rfl
@[simp] theorem State.modSmeta_irqs (s : State) (k : Nat) (f : SMeta → SMeta) : (s.modSmeta k f).irqs = s.irqs := rfl
@[simp] theorem State.modSmeta_turn (s : State) (k : Nat) (f : SMeta → SMeta) : (s.modSmeta k f).turn = s.turn := rfl

@[simp] theorem State.setHold_time (s : State) (sec h : Nat) (x : Hold) : (s.setHold sec h x).time = s.time := rfl
@[simp] theorem State.setHold_agenda (s : State) (sec h : Nat) (x : Hold) : (s.setHold sec h x).agenda = s.agenda := rfl
@[simp] theorem State.setHold_curGang (s : State) (sec h : Nat) (x : Hold) : (s.setHold sec h x).curGang = s.curGang := rfl
@[simp] theorem State.setHold_curSec (s : State) (sec h : Nat) (x : Hold) : (s.setHold sec h x).curSec = s.curSec := rfl
@[simp] theorem State.setHold_fresh (s : State) (sec h : Nat) (x : Hold) : (s.setHold sec h x).fresh = s.fresh := rfl
@[simp] theorem State.setHold_nextId (s : State) (sec h : Nat) (x : Hold) : (s.setHold sec h x).nextId = s.nextId := rfl
@[simp] theorem State.setHold_curEv (s : State) (sec h : Nat) (x : Hold) : (s.setHold sec h x).curEv = s.curEv := rfl
@[simp] theorem State.setHold_net (s : State) (sec h : Nat) (x : Hold) : (s.setHold sec h x).net = s.net := rfl
@[simp] theorem State.setHold_mem (s : State) (sec h : Nat) (x : Hold) : (s.setHold sec h x).mem = s.mem := rfl
@[simp] theorem State.setHold_hostMem (s : State) (sec h : Nat) (x : Hold) : (s.setHold sec h x).hostMem = s.hostMem := rfl
@[simp] theorem State.setHold_poolMem (s : State) (sec h : Nat) (x : Hold) : (s.setHold sec h x).poolMem = s.poolMem := rfl
@[simp] theorem State.setHold_poolPois (s : State) (sec h : Nat) (x : Hold) : (s.setHold sec h x).poolPois = s.poolPois := rfl
@[simp] theorem State.setHold_smeta (s : State) (sec h : Nat) (x : Hold) : (s.setHold sec h x).smeta = s.smeta := rfl
@[simp] theorem State.setHold_homeTok (s : State) (sec h : Nat) (x : Hold) : (s.setHold sec h x).homeTok = s.homeTok := rfl
@[simp] theorem State.setHold_fences (s : State) (sec h : Nat) (x : Hold) : (s.setHold sec h x).fences = s.fences := rfl
@[simp] theorem State.setHold_clampTab (s : State) (sec h : Nat) (x : Hold) : (s.setHold sec h x).clampTab = s.clampTab := rfl
@[simp] theorem State.setHold_homes (s : State) (sec h : Nat) (x : Hold) : (s.setHold sec h x).homes = s.homes := rfl
@[simp] theorem State.setHold_trecAt (s : State) (sec h : Nat) (x : Hold) : (s.setHold sec h x).trecAt = s.trecAt := rfl
@[simp] theorem State.setHold_recastAct (s : State) (sec h : Nat) (x : Hold) : (s.setHold sec h x).recastAct = s.recastAct := rfl
@[simp] theorem State.setHold_misses (s : State) (sec h : Nat) (x : Hold) : (s.setHold sec h x).misses = s.misses := rfl
@[simp] theorem State.setHold_hints (s : State) (sec h : Nat) (x : Hold) : (s.setHold sec h x).hints = s.hints := rfl
@[simp] theorem State.setHold_l2 (s : State) (sec h : Nat) (x : Hold) : (s.setHold sec h x).l2 = s.l2 := rfl
@[simp] theorem State.setHold_cores (s : State) (sec h : Nat) (x : Hold) : (s.setHold sec h x).cores = s.cores := rfl
@[simp] theorem State.setHold_dies (s : State) (sec h : Nat) (x : Hold) : (s.setHold sec h x).dies = s.dies := rfl
@[simp] theorem State.setHold_hubs (s : State) (sec h : Nat) (x : Hold) : (s.setHold sec h x).hubs = s.hubs := rfl
@[simp] theorem State.setHold_devs (s : State) (sec h : Nat) (x : Hold) : (s.setHold sec h x).devs = s.devs := rfl
@[simp] theorem State.setHold_tenants (s : State) (sec h : Nat) (x : Hold) : (s.setHold sec h x).tenants = s.tenants := rfl
@[simp] theorem State.setHold_teamSlots (s : State) (sec h : Nat) (x : Hold) : (s.setHold sec h x).teamSlots = s.teamSlots := rfl
@[simp] theorem State.setHold_cohSlots (s : State) (sec h : Nat) (x : Hold) : (s.setHold sec h x).cohSlots = s.cohSlots := rfl
@[simp] theorem State.setHold_teams (s : State) (sec h : Nat) (x : Hold) : (s.setHold sec h x).teams = s.teams := rfl
@[simp] theorem State.setHold_gangs (s : State) (sec h : Nat) (x : Hold) : (s.setHold sec h x).gangs = s.gangs := rfl
@[simp] theorem State.setHold_accesses (s : State) (sec h : Nat) (x : Hold) : (s.setHold sec h x).accesses = s.accesses := rfl
@[simp] theorem State.setHold_walks (s : State) (sec h : Nat) (x : Hold) : (s.setHold sec h x).walks = s.walks := rfl
@[simp] theorem State.setHold_xfers (s : State) (sec h : Nat) (x : Hold) : (s.setHold sec h x).xfers = s.xfers := rfl
@[simp] theorem State.setHold_mats (s : State) (sec h : Nat) (x : Hold) : (s.setHold sec h x).mats = s.mats := rfl
@[simp] theorem State.setHold_lateColl (s : State) (sec h : Nat) (x : Hold) : (s.setHold sec h x).lateColl = s.lateColl := rfl
@[simp] theorem State.setHold_grants (s : State) (sec h : Nat) (x : Hold) : (s.setHold sec h x).grants = s.grants := rfl
@[simp] theorem State.setHold_irqs (s : State) (sec h : Nat) (x : Hold) : (s.setHold sec h x).irqs = s.irqs := rfl
@[simp] theorem State.setHold_turn (s : State) (sec h : Nat) (x : Hold) : (s.setHold sec h x).turn = s.turn := rfl

@[simp] theorem State.setHomeTok_time (s : State) (sec : Nat) (x : Nat × Bool) : (s.setHomeTok sec x).time = s.time := rfl
@[simp] theorem State.setHomeTok_agenda (s : State) (sec : Nat) (x : Nat × Bool) : (s.setHomeTok sec x).agenda = s.agenda := rfl
@[simp] theorem State.setHomeTok_curGang (s : State) (sec : Nat) (x : Nat × Bool) : (s.setHomeTok sec x).curGang = s.curGang := rfl
@[simp] theorem State.setHomeTok_curSec (s : State) (sec : Nat) (x : Nat × Bool) : (s.setHomeTok sec x).curSec = s.curSec := rfl
@[simp] theorem State.setHomeTok_fresh (s : State) (sec : Nat) (x : Nat × Bool) : (s.setHomeTok sec x).fresh = s.fresh := rfl
@[simp] theorem State.setHomeTok_nextId (s : State) (sec : Nat) (x : Nat × Bool) : (s.setHomeTok sec x).nextId = s.nextId := rfl
@[simp] theorem State.setHomeTok_curEv (s : State) (sec : Nat) (x : Nat × Bool) : (s.setHomeTok sec x).curEv = s.curEv := rfl
@[simp] theorem State.setHomeTok_net (s : State) (sec : Nat) (x : Nat × Bool) : (s.setHomeTok sec x).net = s.net := rfl
@[simp] theorem State.setHomeTok_mem (s : State) (sec : Nat) (x : Nat × Bool) : (s.setHomeTok sec x).mem = s.mem := rfl
@[simp] theorem State.setHomeTok_hostMem (s : State) (sec : Nat) (x : Nat × Bool) : (s.setHomeTok sec x).hostMem = s.hostMem := rfl
@[simp] theorem State.setHomeTok_poolMem (s : State) (sec : Nat) (x : Nat × Bool) : (s.setHomeTok sec x).poolMem = s.poolMem := rfl
@[simp] theorem State.setHomeTok_poolPois (s : State) (sec : Nat) (x : Nat × Bool) : (s.setHomeTok sec x).poolPois = s.poolPois := rfl
@[simp] theorem State.setHomeTok_smeta (s : State) (sec : Nat) (x : Nat × Bool) : (s.setHomeTok sec x).smeta = s.smeta := rfl
@[simp] theorem State.setHomeTok_hold (s : State) (sec : Nat) (x : Nat × Bool) : (s.setHomeTok sec x).hold = s.hold := rfl
@[simp] theorem State.setHomeTok_fences (s : State) (sec : Nat) (x : Nat × Bool) : (s.setHomeTok sec x).fences = s.fences := rfl
@[simp] theorem State.setHomeTok_clampTab (s : State) (sec : Nat) (x : Nat × Bool) : (s.setHomeTok sec x).clampTab = s.clampTab := rfl
@[simp] theorem State.setHomeTok_homes (s : State) (sec : Nat) (x : Nat × Bool) : (s.setHomeTok sec x).homes = s.homes := rfl
@[simp] theorem State.setHomeTok_trecAt (s : State) (sec : Nat) (x : Nat × Bool) : (s.setHomeTok sec x).trecAt = s.trecAt := rfl
@[simp] theorem State.setHomeTok_recastAct (s : State) (sec : Nat) (x : Nat × Bool) : (s.setHomeTok sec x).recastAct = s.recastAct := rfl
@[simp] theorem State.setHomeTok_misses (s : State) (sec : Nat) (x : Nat × Bool) : (s.setHomeTok sec x).misses = s.misses := rfl
@[simp] theorem State.setHomeTok_hints (s : State) (sec : Nat) (x : Nat × Bool) : (s.setHomeTok sec x).hints = s.hints := rfl
@[simp] theorem State.setHomeTok_l2 (s : State) (sec : Nat) (x : Nat × Bool) : (s.setHomeTok sec x).l2 = s.l2 := rfl
@[simp] theorem State.setHomeTok_cores (s : State) (sec : Nat) (x : Nat × Bool) : (s.setHomeTok sec x).cores = s.cores := rfl
@[simp] theorem State.setHomeTok_dies (s : State) (sec : Nat) (x : Nat × Bool) : (s.setHomeTok sec x).dies = s.dies := rfl
@[simp] theorem State.setHomeTok_hubs (s : State) (sec : Nat) (x : Nat × Bool) : (s.setHomeTok sec x).hubs = s.hubs := rfl
@[simp] theorem State.setHomeTok_devs (s : State) (sec : Nat) (x : Nat × Bool) : (s.setHomeTok sec x).devs = s.devs := rfl
@[simp] theorem State.setHomeTok_tenants (s : State) (sec : Nat) (x : Nat × Bool) : (s.setHomeTok sec x).tenants = s.tenants := rfl
@[simp] theorem State.setHomeTok_teamSlots (s : State) (sec : Nat) (x : Nat × Bool) : (s.setHomeTok sec x).teamSlots = s.teamSlots := rfl
@[simp] theorem State.setHomeTok_cohSlots (s : State) (sec : Nat) (x : Nat × Bool) : (s.setHomeTok sec x).cohSlots = s.cohSlots := rfl
@[simp] theorem State.setHomeTok_teams (s : State) (sec : Nat) (x : Nat × Bool) : (s.setHomeTok sec x).teams = s.teams := rfl
@[simp] theorem State.setHomeTok_gangs (s : State) (sec : Nat) (x : Nat × Bool) : (s.setHomeTok sec x).gangs = s.gangs := rfl
@[simp] theorem State.setHomeTok_accesses (s : State) (sec : Nat) (x : Nat × Bool) : (s.setHomeTok sec x).accesses = s.accesses := rfl
@[simp] theorem State.setHomeTok_walks (s : State) (sec : Nat) (x : Nat × Bool) : (s.setHomeTok sec x).walks = s.walks := rfl
@[simp] theorem State.setHomeTok_xfers (s : State) (sec : Nat) (x : Nat × Bool) : (s.setHomeTok sec x).xfers = s.xfers := rfl
@[simp] theorem State.setHomeTok_mats (s : State) (sec : Nat) (x : Nat × Bool) : (s.setHomeTok sec x).mats = s.mats := rfl
@[simp] theorem State.setHomeTok_lateColl (s : State) (sec : Nat) (x : Nat × Bool) : (s.setHomeTok sec x).lateColl = s.lateColl := rfl
@[simp] theorem State.setHomeTok_grants (s : State) (sec : Nat) (x : Nat × Bool) : (s.setHomeTok sec x).grants = s.grants := rfl
@[simp] theorem State.setHomeTok_irqs (s : State) (sec : Nat) (x : Nat × Bool) : (s.setHomeTok sec x).irqs = s.irqs := rfl
@[simp] theorem State.setHomeTok_turn (s : State) (sec : Nat) (x : Nat × Bool) : (s.setHomeTok sec x).turn = s.turn := rfl

@[simp] theorem State.send_time (s : State) (e : Ev) : (s.send e).time = s.time := rfl
@[simp] theorem State.send_agenda (s : State) (e : Ev) : (s.send e).agenda = s.agenda := rfl
@[simp] theorem State.send_curGang (s : State) (e : Ev) : (s.send e).curGang = s.curGang := rfl
@[simp] theorem State.send_curSec (s : State) (e : Ev) : (s.send e).curSec = s.curSec := rfl
@[simp] theorem State.send_fresh (s : State) (e : Ev) : (s.send e).fresh = s.fresh := rfl
@[simp] theorem State.send_nextId (s : State) (e : Ev) : (s.send e).nextId = s.nextId := rfl
@[simp] theorem State.send_curEv (s : State) (e : Ev) : (s.send e).curEv = s.curEv := rfl
@[simp] theorem State.send_mem (s : State) (e : Ev) : (s.send e).mem = s.mem := rfl
@[simp] theorem State.send_hostMem (s : State) (e : Ev) : (s.send e).hostMem = s.hostMem := rfl
@[simp] theorem State.send_poolMem (s : State) (e : Ev) : (s.send e).poolMem = s.poolMem := rfl
@[simp] theorem State.send_poolPois (s : State) (e : Ev) : (s.send e).poolPois = s.poolPois := rfl
@[simp] theorem State.send_smeta (s : State) (e : Ev) : (s.send e).smeta = s.smeta := rfl
@[simp] theorem State.send_hold (s : State) (e : Ev) : (s.send e).hold = s.hold := rfl
@[simp] theorem State.send_homeTok (s : State) (e : Ev) : (s.send e).homeTok = s.homeTok := rfl
@[simp] theorem State.send_fences (s : State) (e : Ev) : (s.send e).fences = s.fences := rfl
@[simp] theorem State.send_clampTab (s : State) (e : Ev) : (s.send e).clampTab = s.clampTab := rfl
@[simp] theorem State.send_homes (s : State) (e : Ev) : (s.send e).homes = s.homes := rfl
@[simp] theorem State.send_trecAt (s : State) (e : Ev) : (s.send e).trecAt = s.trecAt := rfl
@[simp] theorem State.send_recastAct (s : State) (e : Ev) : (s.send e).recastAct = s.recastAct := rfl
@[simp] theorem State.send_misses (s : State) (e : Ev) : (s.send e).misses = s.misses := rfl
@[simp] theorem State.send_hints (s : State) (e : Ev) : (s.send e).hints = s.hints := rfl
@[simp] theorem State.send_l2 (s : State) (e : Ev) : (s.send e).l2 = s.l2 := rfl
@[simp] theorem State.send_cores (s : State) (e : Ev) : (s.send e).cores = s.cores := rfl
@[simp] theorem State.send_dies (s : State) (e : Ev) : (s.send e).dies = s.dies := rfl
@[simp] theorem State.send_hubs (s : State) (e : Ev) : (s.send e).hubs = s.hubs := rfl
@[simp] theorem State.send_devs (s : State) (e : Ev) : (s.send e).devs = s.devs := rfl
@[simp] theorem State.send_tenants (s : State) (e : Ev) : (s.send e).tenants = s.tenants := rfl
@[simp] theorem State.send_teamSlots (s : State) (e : Ev) : (s.send e).teamSlots = s.teamSlots := rfl
@[simp] theorem State.send_cohSlots (s : State) (e : Ev) : (s.send e).cohSlots = s.cohSlots := rfl
@[simp] theorem State.send_teams (s : State) (e : Ev) : (s.send e).teams = s.teams := rfl
@[simp] theorem State.send_gangs (s : State) (e : Ev) : (s.send e).gangs = s.gangs := rfl
@[simp] theorem State.send_accesses (s : State) (e : Ev) : (s.send e).accesses = s.accesses := rfl
@[simp] theorem State.send_walks (s : State) (e : Ev) : (s.send e).walks = s.walks := rfl
@[simp] theorem State.send_xfers (s : State) (e : Ev) : (s.send e).xfers = s.xfers := rfl
@[simp] theorem State.send_mats (s : State) (e : Ev) : (s.send e).mats = s.mats := rfl
@[simp] theorem State.send_lateColl (s : State) (e : Ev) : (s.send e).lateColl = s.lateColl := rfl
@[simp] theorem State.send_grants (s : State) (e : Ev) : (s.send e).grants = s.grants := rfl
@[simp] theorem State.send_irqs (s : State) (e : Ev) : (s.send e).irqs = s.irqs := rfl
@[simp] theorem State.send_turn (s : State) (e : Ev) : (s.send e).turn = s.turn := rfl

@[simp] theorem State.modGang_time (s : State) (g : Nat) (f : Gang → Gang) : (s.modGang g f).time = s.time := by unfold State.modGang; split <;> rfl
@[simp] theorem State.modGang_agenda (s : State) (g : Nat) (f : Gang → Gang) : (s.modGang g f).agenda = s.agenda := by unfold State.modGang; split <;> rfl
@[simp] theorem State.modGang_curGang (s : State) (g : Nat) (f : Gang → Gang) : (s.modGang g f).curGang = s.curGang := by unfold State.modGang; split <;> rfl
@[simp] theorem State.modGang_curSec (s : State) (g : Nat) (f : Gang → Gang) : (s.modGang g f).curSec = s.curSec := by unfold State.modGang; split <;> rfl
@[simp] theorem State.modGang_fresh (s : State) (g : Nat) (f : Gang → Gang) : (s.modGang g f).fresh = s.fresh := by unfold State.modGang; split <;> rfl
@[simp] theorem State.modGang_nextId (s : State) (g : Nat) (f : Gang → Gang) : (s.modGang g f).nextId = s.nextId := by unfold State.modGang; split <;> rfl
@[simp] theorem State.modGang_curEv (s : State) (g : Nat) (f : Gang → Gang) : (s.modGang g f).curEv = s.curEv := by unfold State.modGang; split <;> rfl
@[simp] theorem State.modGang_net (s : State) (g : Nat) (f : Gang → Gang) : (s.modGang g f).net = s.net := by unfold State.modGang; split <;> rfl
@[simp] theorem State.modGang_mem (s : State) (g : Nat) (f : Gang → Gang) : (s.modGang g f).mem = s.mem := by unfold State.modGang; split <;> rfl
@[simp] theorem State.modGang_hostMem (s : State) (g : Nat) (f : Gang → Gang) : (s.modGang g f).hostMem = s.hostMem := by unfold State.modGang; split <;> rfl
@[simp] theorem State.modGang_poolMem (s : State) (g : Nat) (f : Gang → Gang) : (s.modGang g f).poolMem = s.poolMem := by unfold State.modGang; split <;> rfl
@[simp] theorem State.modGang_poolPois (s : State) (g : Nat) (f : Gang → Gang) : (s.modGang g f).poolPois = s.poolPois := by unfold State.modGang; split <;> rfl
@[simp] theorem State.modGang_smeta (s : State) (g : Nat) (f : Gang → Gang) : (s.modGang g f).smeta = s.smeta := by unfold State.modGang; split <;> rfl
@[simp] theorem State.modGang_hold (s : State) (g : Nat) (f : Gang → Gang) : (s.modGang g f).hold = s.hold := by unfold State.modGang; split <;> rfl
@[simp] theorem State.modGang_homeTok (s : State) (g : Nat) (f : Gang → Gang) : (s.modGang g f).homeTok = s.homeTok := by unfold State.modGang; split <;> rfl
@[simp] theorem State.modGang_fences (s : State) (g : Nat) (f : Gang → Gang) : (s.modGang g f).fences = s.fences := by unfold State.modGang; split <;> rfl
@[simp] theorem State.modGang_clampTab (s : State) (g : Nat) (f : Gang → Gang) : (s.modGang g f).clampTab = s.clampTab := by unfold State.modGang; split <;> rfl
@[simp] theorem State.modGang_homes (s : State) (g : Nat) (f : Gang → Gang) : (s.modGang g f).homes = s.homes := by unfold State.modGang; split <;> rfl
@[simp] theorem State.modGang_trecAt (s : State) (g : Nat) (f : Gang → Gang) : (s.modGang g f).trecAt = s.trecAt := by unfold State.modGang; split <;> rfl
@[simp] theorem State.modGang_recastAct (s : State) (g : Nat) (f : Gang → Gang) : (s.modGang g f).recastAct = s.recastAct := by unfold State.modGang; split <;> rfl
@[simp] theorem State.modGang_misses (s : State) (g : Nat) (f : Gang → Gang) : (s.modGang g f).misses = s.misses := by unfold State.modGang; split <;> rfl
@[simp] theorem State.modGang_hints (s : State) (g : Nat) (f : Gang → Gang) : (s.modGang g f).hints = s.hints := by unfold State.modGang; split <;> rfl
@[simp] theorem State.modGang_l2 (s : State) (g : Nat) (f : Gang → Gang) : (s.modGang g f).l2 = s.l2 := by unfold State.modGang; split <;> rfl
@[simp] theorem State.modGang_cores (s : State) (g : Nat) (f : Gang → Gang) : (s.modGang g f).cores = s.cores := by unfold State.modGang; split <;> rfl
@[simp] theorem State.modGang_dies (s : State) (g : Nat) (f : Gang → Gang) : (s.modGang g f).dies = s.dies := by unfold State.modGang; split <;> rfl
@[simp] theorem State.modGang_hubs (s : State) (g : Nat) (f : Gang → Gang) : (s.modGang g f).hubs = s.hubs := by unfold State.modGang; split <;> rfl
@[simp] theorem State.modGang_devs (s : State) (g : Nat) (f : Gang → Gang) : (s.modGang g f).devs = s.devs := by unfold State.modGang; split <;> rfl
@[simp] theorem State.modGang_tenants (s : State) (g : Nat) (f : Gang → Gang) : (s.modGang g f).tenants = s.tenants := by unfold State.modGang; split <;> rfl
@[simp] theorem State.modGang_teamSlots (s : State) (g : Nat) (f : Gang → Gang) : (s.modGang g f).teamSlots = s.teamSlots := by unfold State.modGang; split <;> rfl
@[simp] theorem State.modGang_cohSlots (s : State) (g : Nat) (f : Gang → Gang) : (s.modGang g f).cohSlots = s.cohSlots := by unfold State.modGang; split <;> rfl
@[simp] theorem State.modGang_teams (s : State) (g : Nat) (f : Gang → Gang) : (s.modGang g f).teams = s.teams := by unfold State.modGang; split <;> rfl
@[simp] theorem State.modGang_accesses (s : State) (g : Nat) (f : Gang → Gang) : (s.modGang g f).accesses = s.accesses := by unfold State.modGang; split <;> rfl
@[simp] theorem State.modGang_walks (s : State) (g : Nat) (f : Gang → Gang) : (s.modGang g f).walks = s.walks := by unfold State.modGang; split <;> rfl
@[simp] theorem State.modGang_xfers (s : State) (g : Nat) (f : Gang → Gang) : (s.modGang g f).xfers = s.xfers := by unfold State.modGang; split <;> rfl
@[simp] theorem State.modGang_mats (s : State) (g : Nat) (f : Gang → Gang) : (s.modGang g f).mats = s.mats := by unfold State.modGang; split <;> rfl
@[simp] theorem State.modGang_lateColl (s : State) (g : Nat) (f : Gang → Gang) : (s.modGang g f).lateColl = s.lateColl := by unfold State.modGang; split <;> rfl
@[simp] theorem State.modGang_grants (s : State) (g : Nat) (f : Gang → Gang) : (s.modGang g f).grants = s.grants := by unfold State.modGang; split <;> rfl
@[simp] theorem State.modGang_irqs (s : State) (g : Nat) (f : Gang → Gang) : (s.modGang g f).irqs = s.irqs := by unfold State.modGang; split <;> rfl
@[simp] theorem State.modGang_turn (s : State) (g : Nat) (f : Gang → Gang) : (s.modGang g f).turn = s.turn := by unfold State.modGang; split <;> rfl

@[simp] theorem State.modTeam_time (s : State) (k : Nat) (f : Team → Team) : (s.modTeam k f).time = s.time := by unfold State.modTeam; split <;> rfl
@[simp] theorem State.modTeam_agenda (s : State) (k : Nat) (f : Team → Team) : (s.modTeam k f).agenda = s.agenda := by unfold State.modTeam; split <;> rfl
@[simp] theorem State.modTeam_curGang (s : State) (k : Nat) (f : Team → Team) : (s.modTeam k f).curGang = s.curGang := by unfold State.modTeam; split <;> rfl
@[simp] theorem State.modTeam_curSec (s : State) (k : Nat) (f : Team → Team) : (s.modTeam k f).curSec = s.curSec := by unfold State.modTeam; split <;> rfl
@[simp] theorem State.modTeam_fresh (s : State) (k : Nat) (f : Team → Team) : (s.modTeam k f).fresh = s.fresh := by unfold State.modTeam; split <;> rfl
@[simp] theorem State.modTeam_nextId (s : State) (k : Nat) (f : Team → Team) : (s.modTeam k f).nextId = s.nextId := by unfold State.modTeam; split <;> rfl
@[simp] theorem State.modTeam_curEv (s : State) (k : Nat) (f : Team → Team) : (s.modTeam k f).curEv = s.curEv := by unfold State.modTeam; split <;> rfl
@[simp] theorem State.modTeam_net (s : State) (k : Nat) (f : Team → Team) : (s.modTeam k f).net = s.net := by unfold State.modTeam; split <;> rfl
@[simp] theorem State.modTeam_mem (s : State) (k : Nat) (f : Team → Team) : (s.modTeam k f).mem = s.mem := by unfold State.modTeam; split <;> rfl
@[simp] theorem State.modTeam_hostMem (s : State) (k : Nat) (f : Team → Team) : (s.modTeam k f).hostMem = s.hostMem := by unfold State.modTeam; split <;> rfl
@[simp] theorem State.modTeam_poolMem (s : State) (k : Nat) (f : Team → Team) : (s.modTeam k f).poolMem = s.poolMem := by unfold State.modTeam; split <;> rfl
@[simp] theorem State.modTeam_poolPois (s : State) (k : Nat) (f : Team → Team) : (s.modTeam k f).poolPois = s.poolPois := by unfold State.modTeam; split <;> rfl
@[simp] theorem State.modTeam_smeta (s : State) (k : Nat) (f : Team → Team) : (s.modTeam k f).smeta = s.smeta := by unfold State.modTeam; split <;> rfl
@[simp] theorem State.modTeam_hold (s : State) (k : Nat) (f : Team → Team) : (s.modTeam k f).hold = s.hold := by unfold State.modTeam; split <;> rfl
@[simp] theorem State.modTeam_homeTok (s : State) (k : Nat) (f : Team → Team) : (s.modTeam k f).homeTok = s.homeTok := by unfold State.modTeam; split <;> rfl
@[simp] theorem State.modTeam_fences (s : State) (k : Nat) (f : Team → Team) : (s.modTeam k f).fences = s.fences := by unfold State.modTeam; split <;> rfl
@[simp] theorem State.modTeam_clampTab (s : State) (k : Nat) (f : Team → Team) : (s.modTeam k f).clampTab = s.clampTab := by unfold State.modTeam; split <;> rfl
@[simp] theorem State.modTeam_homes (s : State) (k : Nat) (f : Team → Team) : (s.modTeam k f).homes = s.homes := by unfold State.modTeam; split <;> rfl
@[simp] theorem State.modTeam_trecAt (s : State) (k : Nat) (f : Team → Team) : (s.modTeam k f).trecAt = s.trecAt := by unfold State.modTeam; split <;> rfl
@[simp] theorem State.modTeam_recastAct (s : State) (k : Nat) (f : Team → Team) : (s.modTeam k f).recastAct = s.recastAct := by unfold State.modTeam; split <;> rfl
@[simp] theorem State.modTeam_misses (s : State) (k : Nat) (f : Team → Team) : (s.modTeam k f).misses = s.misses := by unfold State.modTeam; split <;> rfl
@[simp] theorem State.modTeam_hints (s : State) (k : Nat) (f : Team → Team) : (s.modTeam k f).hints = s.hints := by unfold State.modTeam; split <;> rfl
@[simp] theorem State.modTeam_l2 (s : State) (k : Nat) (f : Team → Team) : (s.modTeam k f).l2 = s.l2 := by unfold State.modTeam; split <;> rfl
@[simp] theorem State.modTeam_cores (s : State) (k : Nat) (f : Team → Team) : (s.modTeam k f).cores = s.cores := by unfold State.modTeam; split <;> rfl
@[simp] theorem State.modTeam_dies (s : State) (k : Nat) (f : Team → Team) : (s.modTeam k f).dies = s.dies := by unfold State.modTeam; split <;> rfl
@[simp] theorem State.modTeam_hubs (s : State) (k : Nat) (f : Team → Team) : (s.modTeam k f).hubs = s.hubs := by unfold State.modTeam; split <;> rfl
@[simp] theorem State.modTeam_devs (s : State) (k : Nat) (f : Team → Team) : (s.modTeam k f).devs = s.devs := by unfold State.modTeam; split <;> rfl
@[simp] theorem State.modTeam_tenants (s : State) (k : Nat) (f : Team → Team) : (s.modTeam k f).tenants = s.tenants := by unfold State.modTeam; split <;> rfl
@[simp] theorem State.modTeam_teamSlots (s : State) (k : Nat) (f : Team → Team) : (s.modTeam k f).teamSlots = s.teamSlots := by unfold State.modTeam; split <;> rfl
@[simp] theorem State.modTeam_cohSlots (s : State) (k : Nat) (f : Team → Team) : (s.modTeam k f).cohSlots = s.cohSlots := by unfold State.modTeam; split <;> rfl
@[simp] theorem State.modTeam_gangs (s : State) (k : Nat) (f : Team → Team) : (s.modTeam k f).gangs = s.gangs := by unfold State.modTeam; split <;> rfl
@[simp] theorem State.modTeam_accesses (s : State) (k : Nat) (f : Team → Team) : (s.modTeam k f).accesses = s.accesses := by unfold State.modTeam; split <;> rfl
@[simp] theorem State.modTeam_walks (s : State) (k : Nat) (f : Team → Team) : (s.modTeam k f).walks = s.walks := by unfold State.modTeam; split <;> rfl
@[simp] theorem State.modTeam_xfers (s : State) (k : Nat) (f : Team → Team) : (s.modTeam k f).xfers = s.xfers := by unfold State.modTeam; split <;> rfl
@[simp] theorem State.modTeam_mats (s : State) (k : Nat) (f : Team → Team) : (s.modTeam k f).mats = s.mats := by unfold State.modTeam; split <;> rfl
@[simp] theorem State.modTeam_lateColl (s : State) (k : Nat) (f : Team → Team) : (s.modTeam k f).lateColl = s.lateColl := by unfold State.modTeam; split <;> rfl
@[simp] theorem State.modTeam_grants (s : State) (k : Nat) (f : Team → Team) : (s.modTeam k f).grants = s.grants := by unfold State.modTeam; split <;> rfl
@[simp] theorem State.modTeam_irqs (s : State) (k : Nat) (f : Team → Team) : (s.modTeam k f).irqs = s.irqs := by unfold State.modTeam; split <;> rfl
@[simp] theorem State.modTeam_turn (s : State) (k : Nat) (f : Team → Team) : (s.modTeam k f).turn = s.turn := by unfold State.modTeam; split <;> rfl

@[simp] theorem State.modRegs_time (s : State) (g : Nat) (f : Regs → Regs) : (s.modRegs g f).time = s.time := State.modGang_time _ _ _
@[simp] theorem State.modRegs_agenda (s : State) (g : Nat) (f : Regs → Regs) : (s.modRegs g f).agenda = s.agenda := State.modGang_agenda _ _ _
@[simp] theorem State.modRegs_curGang (s : State) (g : Nat) (f : Regs → Regs) : (s.modRegs g f).curGang = s.curGang := State.modGang_curGang _ _ _
@[simp] theorem State.modRegs_curSec (s : State) (g : Nat) (f : Regs → Regs) : (s.modRegs g f).curSec = s.curSec := State.modGang_curSec _ _ _
@[simp] theorem State.modRegs_fresh (s : State) (g : Nat) (f : Regs → Regs) : (s.modRegs g f).fresh = s.fresh := State.modGang_fresh _ _ _
@[simp] theorem State.modRegs_nextId (s : State) (g : Nat) (f : Regs → Regs) : (s.modRegs g f).nextId = s.nextId := State.modGang_nextId _ _ _
@[simp] theorem State.modRegs_curEv (s : State) (g : Nat) (f : Regs → Regs) : (s.modRegs g f).curEv = s.curEv := State.modGang_curEv _ _ _
@[simp] theorem State.modRegs_net (s : State) (g : Nat) (f : Regs → Regs) : (s.modRegs g f).net = s.net := State.modGang_net _ _ _
@[simp] theorem State.modRegs_mem (s : State) (g : Nat) (f : Regs → Regs) : (s.modRegs g f).mem = s.mem := State.modGang_mem _ _ _
@[simp] theorem State.modRegs_hostMem (s : State) (g : Nat) (f : Regs → Regs) : (s.modRegs g f).hostMem = s.hostMem := State.modGang_hostMem _ _ _
@[simp] theorem State.modRegs_poolMem (s : State) (g : Nat) (f : Regs → Regs) : (s.modRegs g f).poolMem = s.poolMem := State.modGang_poolMem _ _ _
@[simp] theorem State.modRegs_poolPois (s : State) (g : Nat) (f : Regs → Regs) : (s.modRegs g f).poolPois = s.poolPois := State.modGang_poolPois _ _ _
@[simp] theorem State.modRegs_smeta (s : State) (g : Nat) (f : Regs → Regs) : (s.modRegs g f).smeta = s.smeta := State.modGang_smeta _ _ _
@[simp] theorem State.modRegs_hold (s : State) (g : Nat) (f : Regs → Regs) : (s.modRegs g f).hold = s.hold := State.modGang_hold _ _ _
@[simp] theorem State.modRegs_homeTok (s : State) (g : Nat) (f : Regs → Regs) : (s.modRegs g f).homeTok = s.homeTok := State.modGang_homeTok _ _ _
@[simp] theorem State.modRegs_fences (s : State) (g : Nat) (f : Regs → Regs) : (s.modRegs g f).fences = s.fences := State.modGang_fences _ _ _
@[simp] theorem State.modRegs_clampTab (s : State) (g : Nat) (f : Regs → Regs) : (s.modRegs g f).clampTab = s.clampTab := State.modGang_clampTab _ _ _
@[simp] theorem State.modRegs_homes (s : State) (g : Nat) (f : Regs → Regs) : (s.modRegs g f).homes = s.homes := State.modGang_homes _ _ _
@[simp] theorem State.modRegs_trecAt (s : State) (g : Nat) (f : Regs → Regs) : (s.modRegs g f).trecAt = s.trecAt := State.modGang_trecAt _ _ _
@[simp] theorem State.modRegs_recastAct (s : State) (g : Nat) (f : Regs → Regs) : (s.modRegs g f).recastAct = s.recastAct := State.modGang_recastAct _ _ _
@[simp] theorem State.modRegs_misses (s : State) (g : Nat) (f : Regs → Regs) : (s.modRegs g f).misses = s.misses := State.modGang_misses _ _ _
@[simp] theorem State.modRegs_hints (s : State) (g : Nat) (f : Regs → Regs) : (s.modRegs g f).hints = s.hints := State.modGang_hints _ _ _
@[simp] theorem State.modRegs_l2 (s : State) (g : Nat) (f : Regs → Regs) : (s.modRegs g f).l2 = s.l2 := State.modGang_l2 _ _ _
@[simp] theorem State.modRegs_cores (s : State) (g : Nat) (f : Regs → Regs) : (s.modRegs g f).cores = s.cores := State.modGang_cores _ _ _
@[simp] theorem State.modRegs_dies (s : State) (g : Nat) (f : Regs → Regs) : (s.modRegs g f).dies = s.dies := State.modGang_dies _ _ _
@[simp] theorem State.modRegs_hubs (s : State) (g : Nat) (f : Regs → Regs) : (s.modRegs g f).hubs = s.hubs := State.modGang_hubs _ _ _
@[simp] theorem State.modRegs_devs (s : State) (g : Nat) (f : Regs → Regs) : (s.modRegs g f).devs = s.devs := State.modGang_devs _ _ _
@[simp] theorem State.modRegs_tenants (s : State) (g : Nat) (f : Regs → Regs) : (s.modRegs g f).tenants = s.tenants := State.modGang_tenants _ _ _
@[simp] theorem State.modRegs_teamSlots (s : State) (g : Nat) (f : Regs → Regs) : (s.modRegs g f).teamSlots = s.teamSlots := State.modGang_teamSlots _ _ _
@[simp] theorem State.modRegs_cohSlots (s : State) (g : Nat) (f : Regs → Regs) : (s.modRegs g f).cohSlots = s.cohSlots := State.modGang_cohSlots _ _ _
@[simp] theorem State.modRegs_teams (s : State) (g : Nat) (f : Regs → Regs) : (s.modRegs g f).teams = s.teams := State.modGang_teams _ _ _
@[simp] theorem State.modRegs_accesses (s : State) (g : Nat) (f : Regs → Regs) : (s.modRegs g f).accesses = s.accesses := State.modGang_accesses _ _ _
@[simp] theorem State.modRegs_walks (s : State) (g : Nat) (f : Regs → Regs) : (s.modRegs g f).walks = s.walks := State.modGang_walks _ _ _
@[simp] theorem State.modRegs_xfers (s : State) (g : Nat) (f : Regs → Regs) : (s.modRegs g f).xfers = s.xfers := State.modGang_xfers _ _ _
@[simp] theorem State.modRegs_mats (s : State) (g : Nat) (f : Regs → Regs) : (s.modRegs g f).mats = s.mats := State.modGang_mats _ _ _
@[simp] theorem State.modRegs_lateColl (s : State) (g : Nat) (f : Regs → Regs) : (s.modRegs g f).lateColl = s.lateColl := State.modGang_lateColl _ _ _
@[simp] theorem State.modRegs_grants (s : State) (g : Nat) (f : Regs → Regs) : (s.modRegs g f).grants = s.grants := State.modGang_grants _ _ _
@[simp] theorem State.modRegs_irqs (s : State) (g : Nat) (f : Regs → Regs) : (s.modRegs g f).irqs = s.irqs := State.modGang_irqs _ _ _
@[simp] theorem State.modRegs_turn (s : State) (g : Nat) (f : Regs → Regs) : (s.modRegs g f).turn = s.turn := State.modGang_turn _ _ _

@[simp] theorem State.gang?_setGang (s : State) (g : Nat) (x : Gang) : (s.setGang g x).gang? g = some x := by
  simp [State.gang?, State.setGang]
theorem State.gang?_setGang_other (s : State) {g h : Nat} (x : Gang) (e : h ≠ g) : (s.setGang g x).gang? h = s.gang? h := by
  simp [State.gang?, State.setGang, Store.get_set_other _ _ _ e]
@[simp] theorem State.team?_setTeam (s : State) (k : Nat) (x : Team) : (s.setTeam k x).team? k = some x := by
  simp [State.team?, State.setTeam]
theorem State.team?_setTeam_other (s : State) {k j : Nat} (x : Team) (e : j ≠ k) : (s.setTeam k x).team? j = s.team? j := by
  simp [State.team?, State.setTeam, Store.get_set_other _ _ _ e]
theorem State.modGang_some {s : State} {g : Nat} {x : Gang} (h : s.gang? g = some x) (f : Gang → Gang) :
    s.modGang g f = s.setGang g (f x) := by simp [State.modGang, h]
theorem State.modGang_none {s : State} {g : Nat} (h : s.gang? g = none) (f : Gang → Gang) : s.modGang g f = s := by
  simp [State.modGang, h]
@[simp] theorem State.gang?_modGang (s : State) (g : Nat) (f : Gang → Gang) : (s.modGang g f).gang? g = (s.gang? g).map f := by
  unfold State.modGang; split <;> simp_all
theorem State.gang?_modGang_other (s : State) {g h : Nat} (f : Gang → Gang) (e : h ≠ g) : (s.modGang g f).gang? h = s.gang? h := by
  unfold State.modGang; split
  · exact State.gang?_setGang_other s _ e
  · rfl
theorem State.modTeam_some {s : State} {k : Nat} {x : Team} (h : s.team? k = some x) (f : Team → Team) :
    s.modTeam k f = s.setTeam k (f x) := by simp [State.modTeam, h]
@[simp] theorem State.team?_modTeam (s : State) (k : Nat) (f : Team → Team) : (s.modTeam k f).team? k = (s.team? k).map f := by
  unfold State.modTeam; split <;> simp_all
@[simp] theorem State.gang?_modRegs (s : State) (g : Nat) (f : Regs → Regs) :
    (s.modRegs g f).gang? g = (s.gang? g).map fun x => { x with regs := f x.regs } := State.gang?_modGang s g _
@[simp] theorem State.cohort?_modCohort (s : State) (k : Nat) (f : Cohort → Cohort) :
    (s.modCohort k f).cohort? k = (s.cohort? k).map f := by simp [State.modCohort, State.cohort?]
@[simp] theorem State.core_modCore (s : State) (k : Nat) (f : Core → Core) : (s.modCore k f).core k = f (s.core k) := Store.get_upd_same _ _ _ _
theorem State.core_modCore_other (s : State) {k j : Nat} (f : Core → Core) (e : j ≠ k) : (s.modCore k f).core j = s.core j := Store.get_upd_other _ _ _ e
@[simp] theorem State.die_modDie (s : State) (k : Nat) (f : Die → Die) : (s.modDie k f).die k = f (s.die k) := Store.get_upd_same _ _ _ _
theorem State.die_modDie_other (s : State) {k j : Nat} (f : Die → Die) (e : j ≠ k) : (s.modDie k f).die j = s.die j := Store.get_upd_other _ _ _ e
@[simp] theorem State.hub_modHub (s : State) (k : Nat) (f : Hub → Hub) : (s.modHub k f).hub k = f (s.hub k) := Store.get_upd_same _ _ _ _
theorem State.hub_modHub_other (s : State) {k j : Nat} (f : Hub → Hub) (e : j ≠ k) : (s.modHub k f).hub j = s.hub j := Store.get_upd_other _ _ _ e
@[simp] theorem State.dev_modDev (s : State) (k : Nat) (f : Dev → Dev) : (s.modDev k f).dev k = f (s.dev k) := Store.get_upd_same _ _ _ _
theorem State.dev_modDev_other (s : State) {k j : Nat} (f : Dev → Dev) (e : j ≠ k) : (s.modDev k f).dev j = s.dev j := Store.get_upd_other _ _ _ e
@[simp] theorem State.tenant_modTenant (s : State) (k : Nat) (f : Tenant → Tenant) : (s.modTenant k f).tenant k = f (s.tenant k) := Store.get_upd_same _ _ _ _
theorem State.tenant_modTenant_other (s : State) {k j : Nat} (f : Tenant → Tenant) (e : j ≠ k) : (s.modTenant k f).tenant j = s.tenant j := Store.get_upd_other _ _ _ e
@[simp] theorem State.home_modHome (s : State) (k : Nat) (f : HomeUnit → HomeUnit) : (s.modHome k f).home k = f (s.home k) := Store.get_upd_same _ _ _ _
theorem State.home_modHome_other (s : State) {k j : Nat} (f : HomeUnit → HomeUnit) (e : j ≠ k) : (s.modHome k f).home j = s.home j := Store.get_upd_other _ _ _ e
@[simp] theorem State.smetaOf_modSmeta (s : State) (k : Nat) (f : SMeta → SMeta) : (s.modSmeta k f).smetaOf k = f (s.smetaOf k) := Store.get_upd_same _ _ _ _
theorem State.smetaOf_modSmeta_other (s : State) {k j : Nat} (f : SMeta → SMeta) (e : j ≠ k) : (s.modSmeta k f).smetaOf j = s.smetaOf j := Store.get_upd_other _ _ _ e
@[simp] theorem State.holdOf_setHold (s : State) (sec h : Nat) (x : Hold) : (s.setHold sec h x).holdOf sec h = x := Store.get_set_same _ _ _ _
@[simp] theorem State.homeTokOf_setHomeTok (s : State) (sec : Nat) (x : Nat × Bool) : (s.setHomeTok sec x).homeTokOf sec = x :=
  Store.get_set_same _ _ _ _
@[simp] theorem State.net_send (s : State) (e : Ev) : (s.send e).net = s.net ++ [e] := rfl

@[simp] theorem State.setGang_read_team (s : State) (g : Nat) (x : Gang) (j : Nat) : (s.setGang g x).team? j = s.team? j := rfl
@[simp] theorem State.setGang_read_cohort (s : State) (g : Nat) (x : Gang) (j : Nat) : (s.setGang g x).cohort? j = s.cohort? j := rfl
@[simp] theorem State.setGang_read_core (s : State) (g : Nat) (x : Gang) (j : Nat) : (s.setGang g x).core j = s.core j := rfl
@[simp] theorem State.setGang_read_die (s : State) (g : Nat) (x : Gang) (j : Nat) : (s.setGang g x).die j = s.die j := rfl
@[simp] theorem State.setGang_read_hub (s : State) (g : Nat) (x : Gang) (j : Nat) : (s.setGang g x).hub j = s.hub j := rfl
@[simp] theorem State.setGang_read_dev (s : State) (g : Nat) (x : Gang) (j : Nat) : (s.setGang g x).dev j = s.dev j := rfl
@[simp] theorem State.setGang_read_tenant (s : State) (g : Nat) (x : Gang) (j : Nat) : (s.setGang g x).tenant j = s.tenant j := rfl
@[simp] theorem State.setGang_read_home (s : State) (g : Nat) (x : Gang) (j : Nat) : (s.setGang g x).home j = s.home j := rfl
@[simp] theorem State.setGang_read_smetaOf (s : State) (g : Nat) (x : Gang) (j : Nat) : (s.setGang g x).smetaOf j = s.smetaOf j := rfl
@[simp] theorem State.setGang_read_holdOf (s : State) (g : Nat) (x : Gang) (j i : Nat) : (s.setGang g x).holdOf j i = s.holdOf j i := rfl
@[simp] theorem State.setGang_read_homeTokOf (s : State) (g : Nat) (x : Gang) (j : Nat) : (s.setGang g x).homeTokOf j = s.homeTokOf j := rfl
@[simp] theorem State.setTeam_read_gang (s : State) (k : Nat) (x : Team) (j : Nat) : (s.setTeam k x).gang? j = s.gang? j := rfl
@[simp] theorem State.setTeam_read_cohort (s : State) (k : Nat) (x : Team) (j : Nat) : (s.setTeam k x).cohort? j = s.cohort? j := rfl
@[simp] theorem State.setTeam_read_core (s : State) (k : Nat) (x : Team) (j : Nat) : (s.setTeam k x).core j = s.core j := rfl
@[simp] theorem State.setTeam_read_die (s : State) (k : Nat) (x : Team) (j : Nat) : (s.setTeam k x).die j = s.die j := rfl
@[simp] theorem State.setTeam_read_hub (s : State) (k : Nat) (x : Team) (j : Nat) : (s.setTeam k x).hub j = s.hub j := rfl
@[simp] theorem State.setTeam_read_dev (s : State) (k : Nat) (x : Team) (j : Nat) : (s.setTeam k x).dev j = s.dev j := rfl
@[simp] theorem State.setTeam_read_tenant (s : State) (k : Nat) (x : Team) (j : Nat) : (s.setTeam k x).tenant j = s.tenant j := rfl
@[simp] theorem State.setTeam_read_home (s : State) (k : Nat) (x : Team) (j : Nat) : (s.setTeam k x).home j = s.home j := rfl
@[simp] theorem State.setTeam_read_smetaOf (s : State) (k : Nat) (x : Team) (j : Nat) : (s.setTeam k x).smetaOf j = s.smetaOf j := rfl
@[simp] theorem State.setTeam_read_holdOf (s : State) (k : Nat) (x : Team) (j i : Nat) : (s.setTeam k x).holdOf j i = s.holdOf j i := rfl
@[simp] theorem State.setTeam_read_homeTokOf (s : State) (k : Nat) (x : Team) (j : Nat) : (s.setTeam k x).homeTokOf j = s.homeTokOf j := rfl
@[simp] theorem State.modCohort_read_gang (s : State) (k : Nat) (f : Cohort → Cohort) (j : Nat) : (s.modCohort k f).gang? j = s.gang? j := rfl
@[simp] theorem State.modCohort_read_team (s : State) (k : Nat) (f : Cohort → Cohort) (j : Nat) : (s.modCohort k f).team? j = s.team? j := rfl
@[simp] theorem State.modCohort_read_core (s : State) (k : Nat) (f : Cohort → Cohort) (j : Nat) : (s.modCohort k f).core j = s.core j := rfl
@[simp] theorem State.modCohort_read_die (s : State) (k : Nat) (f : Cohort → Cohort) (j : Nat) : (s.modCohort k f).die j = s.die j := rfl
@[simp] theorem State.modCohort_read_hub (s : State) (k : Nat) (f : Cohort → Cohort) (j : Nat) : (s.modCohort k f).hub j = s.hub j := rfl
@[simp] theorem State.modCohort_read_dev (s : State) (k : Nat) (f : Cohort → Cohort) (j : Nat) : (s.modCohort k f).dev j = s.dev j := rfl
@[simp] theorem State.modCohort_read_tenant (s : State) (k : Nat) (f : Cohort → Cohort) (j : Nat) : (s.modCohort k f).tenant j = s.tenant j := rfl
@[simp] theorem State.modCohort_read_home (s : State) (k : Nat) (f : Cohort → Cohort) (j : Nat) : (s.modCohort k f).home j = s.home j := rfl
@[simp] theorem State.modCohort_read_smetaOf (s : State) (k : Nat) (f : Cohort → Cohort) (j : Nat) : (s.modCohort k f).smetaOf j = s.smetaOf j := rfl
@[simp] theorem State.modCohort_read_holdOf (s : State) (k : Nat) (f : Cohort → Cohort) (j i : Nat) : (s.modCohort k f).holdOf j i = s.holdOf j i := rfl
@[simp] theorem State.modCohort_read_homeTokOf (s : State) (k : Nat) (f : Cohort → Cohort) (j : Nat) : (s.modCohort k f).homeTokOf j = s.homeTokOf j := rfl
@[simp] theorem State.modCore_read_gang (s : State) (k : Nat) (f : Core → Core) (j : Nat) : (s.modCore k f).gang? j = s.gang? j := rfl
@[simp] theorem State.modCore_read_team (s : State) (k : Nat) (f : Core → Core) (j : Nat) : (s.modCore k f).team? j = s.team? j := rfl
@[simp] theorem State.modCore_read_cohort (s : State) (k : Nat) (f : Core → Core) (j : Nat) : (s.modCore k f).cohort? j = s.cohort? j := rfl
@[simp] theorem State.modCore_read_die (s : State) (k : Nat) (f : Core → Core) (j : Nat) : (s.modCore k f).die j = s.die j := rfl
@[simp] theorem State.modCore_read_hub (s : State) (k : Nat) (f : Core → Core) (j : Nat) : (s.modCore k f).hub j = s.hub j := rfl
@[simp] theorem State.modCore_read_dev (s : State) (k : Nat) (f : Core → Core) (j : Nat) : (s.modCore k f).dev j = s.dev j := rfl
@[simp] theorem State.modCore_read_tenant (s : State) (k : Nat) (f : Core → Core) (j : Nat) : (s.modCore k f).tenant j = s.tenant j := rfl
@[simp] theorem State.modCore_read_home (s : State) (k : Nat) (f : Core → Core) (j : Nat) : (s.modCore k f).home j = s.home j := rfl
@[simp] theorem State.modCore_read_smetaOf (s : State) (k : Nat) (f : Core → Core) (j : Nat) : (s.modCore k f).smetaOf j = s.smetaOf j := rfl
@[simp] theorem State.modCore_read_holdOf (s : State) (k : Nat) (f : Core → Core) (j i : Nat) : (s.modCore k f).holdOf j i = s.holdOf j i := rfl
@[simp] theorem State.modCore_read_homeTokOf (s : State) (k : Nat) (f : Core → Core) (j : Nat) : (s.modCore k f).homeTokOf j = s.homeTokOf j := rfl
@[simp] theorem State.modDie_read_gang (s : State) (k : Nat) (f : Die → Die) (j : Nat) : (s.modDie k f).gang? j = s.gang? j := rfl
@[simp] theorem State.modDie_read_team (s : State) (k : Nat) (f : Die → Die) (j : Nat) : (s.modDie k f).team? j = s.team? j := rfl
@[simp] theorem State.modDie_read_cohort (s : State) (k : Nat) (f : Die → Die) (j : Nat) : (s.modDie k f).cohort? j = s.cohort? j := rfl
@[simp] theorem State.modDie_read_core (s : State) (k : Nat) (f : Die → Die) (j : Nat) : (s.modDie k f).core j = s.core j := rfl
@[simp] theorem State.modDie_read_hub (s : State) (k : Nat) (f : Die → Die) (j : Nat) : (s.modDie k f).hub j = s.hub j := rfl
@[simp] theorem State.modDie_read_dev (s : State) (k : Nat) (f : Die → Die) (j : Nat) : (s.modDie k f).dev j = s.dev j := rfl
@[simp] theorem State.modDie_read_tenant (s : State) (k : Nat) (f : Die → Die) (j : Nat) : (s.modDie k f).tenant j = s.tenant j := rfl
@[simp] theorem State.modDie_read_home (s : State) (k : Nat) (f : Die → Die) (j : Nat) : (s.modDie k f).home j = s.home j := rfl
@[simp] theorem State.modDie_read_smetaOf (s : State) (k : Nat) (f : Die → Die) (j : Nat) : (s.modDie k f).smetaOf j = s.smetaOf j := rfl
@[simp] theorem State.modDie_read_holdOf (s : State) (k : Nat) (f : Die → Die) (j i : Nat) : (s.modDie k f).holdOf j i = s.holdOf j i := rfl
@[simp] theorem State.modDie_read_homeTokOf (s : State) (k : Nat) (f : Die → Die) (j : Nat) : (s.modDie k f).homeTokOf j = s.homeTokOf j := rfl
@[simp] theorem State.modHub_read_gang (s : State) (k : Nat) (f : Hub → Hub) (j : Nat) : (s.modHub k f).gang? j = s.gang? j := rfl
@[simp] theorem State.modHub_read_team (s : State) (k : Nat) (f : Hub → Hub) (j : Nat) : (s.modHub k f).team? j = s.team? j := rfl
@[simp] theorem State.modHub_read_cohort (s : State) (k : Nat) (f : Hub → Hub) (j : Nat) : (s.modHub k f).cohort? j = s.cohort? j := rfl
@[simp] theorem State.modHub_read_core (s : State) (k : Nat) (f : Hub → Hub) (j : Nat) : (s.modHub k f).core j = s.core j := rfl
@[simp] theorem State.modHub_read_die (s : State) (k : Nat) (f : Hub → Hub) (j : Nat) : (s.modHub k f).die j = s.die j := rfl
@[simp] theorem State.modHub_read_dev (s : State) (k : Nat) (f : Hub → Hub) (j : Nat) : (s.modHub k f).dev j = s.dev j := rfl
@[simp] theorem State.modHub_read_tenant (s : State) (k : Nat) (f : Hub → Hub) (j : Nat) : (s.modHub k f).tenant j = s.tenant j := rfl
@[simp] theorem State.modHub_read_home (s : State) (k : Nat) (f : Hub → Hub) (j : Nat) : (s.modHub k f).home j = s.home j := rfl
@[simp] theorem State.modHub_read_smetaOf (s : State) (k : Nat) (f : Hub → Hub) (j : Nat) : (s.modHub k f).smetaOf j = s.smetaOf j := rfl
@[simp] theorem State.modHub_read_holdOf (s : State) (k : Nat) (f : Hub → Hub) (j i : Nat) : (s.modHub k f).holdOf j i = s.holdOf j i := rfl
@[simp] theorem State.modHub_read_homeTokOf (s : State) (k : Nat) (f : Hub → Hub) (j : Nat) : (s.modHub k f).homeTokOf j = s.homeTokOf j := rfl
@[simp] theorem State.modDev_read_gang (s : State) (k : Nat) (f : Dev → Dev) (j : Nat) : (s.modDev k f).gang? j = s.gang? j := rfl
@[simp] theorem State.modDev_read_team (s : State) (k : Nat) (f : Dev → Dev) (j : Nat) : (s.modDev k f).team? j = s.team? j := rfl
@[simp] theorem State.modDev_read_cohort (s : State) (k : Nat) (f : Dev → Dev) (j : Nat) : (s.modDev k f).cohort? j = s.cohort? j := rfl
@[simp] theorem State.modDev_read_core (s : State) (k : Nat) (f : Dev → Dev) (j : Nat) : (s.modDev k f).core j = s.core j := rfl
@[simp] theorem State.modDev_read_die (s : State) (k : Nat) (f : Dev → Dev) (j : Nat) : (s.modDev k f).die j = s.die j := rfl
@[simp] theorem State.modDev_read_hub (s : State) (k : Nat) (f : Dev → Dev) (j : Nat) : (s.modDev k f).hub j = s.hub j := rfl
@[simp] theorem State.modDev_read_tenant (s : State) (k : Nat) (f : Dev → Dev) (j : Nat) : (s.modDev k f).tenant j = s.tenant j := rfl
@[simp] theorem State.modDev_read_home (s : State) (k : Nat) (f : Dev → Dev) (j : Nat) : (s.modDev k f).home j = s.home j := rfl
@[simp] theorem State.modDev_read_smetaOf (s : State) (k : Nat) (f : Dev → Dev) (j : Nat) : (s.modDev k f).smetaOf j = s.smetaOf j := rfl
@[simp] theorem State.modDev_read_holdOf (s : State) (k : Nat) (f : Dev → Dev) (j i : Nat) : (s.modDev k f).holdOf j i = s.holdOf j i := rfl
@[simp] theorem State.modDev_read_homeTokOf (s : State) (k : Nat) (f : Dev → Dev) (j : Nat) : (s.modDev k f).homeTokOf j = s.homeTokOf j := rfl
@[simp] theorem State.modTenant_read_gang (s : State) (k : Nat) (f : Tenant → Tenant) (j : Nat) : (s.modTenant k f).gang? j = s.gang? j := rfl
@[simp] theorem State.modTenant_read_team (s : State) (k : Nat) (f : Tenant → Tenant) (j : Nat) : (s.modTenant k f).team? j = s.team? j := rfl
@[simp] theorem State.modTenant_read_cohort (s : State) (k : Nat) (f : Tenant → Tenant) (j : Nat) : (s.modTenant k f).cohort? j = s.cohort? j := rfl
@[simp] theorem State.modTenant_read_core (s : State) (k : Nat) (f : Tenant → Tenant) (j : Nat) : (s.modTenant k f).core j = s.core j := rfl
@[simp] theorem State.modTenant_read_die (s : State) (k : Nat) (f : Tenant → Tenant) (j : Nat) : (s.modTenant k f).die j = s.die j := rfl
@[simp] theorem State.modTenant_read_hub (s : State) (k : Nat) (f : Tenant → Tenant) (j : Nat) : (s.modTenant k f).hub j = s.hub j := rfl
@[simp] theorem State.modTenant_read_dev (s : State) (k : Nat) (f : Tenant → Tenant) (j : Nat) : (s.modTenant k f).dev j = s.dev j := rfl
@[simp] theorem State.modTenant_read_home (s : State) (k : Nat) (f : Tenant → Tenant) (j : Nat) : (s.modTenant k f).home j = s.home j := rfl
@[simp] theorem State.modTenant_read_smetaOf (s : State) (k : Nat) (f : Tenant → Tenant) (j : Nat) : (s.modTenant k f).smetaOf j = s.smetaOf j := rfl
@[simp] theorem State.modTenant_read_holdOf (s : State) (k : Nat) (f : Tenant → Tenant) (j i : Nat) : (s.modTenant k f).holdOf j i = s.holdOf j i := rfl
@[simp] theorem State.modTenant_read_homeTokOf (s : State) (k : Nat) (f : Tenant → Tenant) (j : Nat) : (s.modTenant k f).homeTokOf j = s.homeTokOf j := rfl
@[simp] theorem State.modHome_read_gang (s : State) (k : Nat) (f : HomeUnit → HomeUnit) (j : Nat) : (s.modHome k f).gang? j = s.gang? j := rfl
@[simp] theorem State.modHome_read_team (s : State) (k : Nat) (f : HomeUnit → HomeUnit) (j : Nat) : (s.modHome k f).team? j = s.team? j := rfl
@[simp] theorem State.modHome_read_cohort (s : State) (k : Nat) (f : HomeUnit → HomeUnit) (j : Nat) : (s.modHome k f).cohort? j = s.cohort? j := rfl
@[simp] theorem State.modHome_read_core (s : State) (k : Nat) (f : HomeUnit → HomeUnit) (j : Nat) : (s.modHome k f).core j = s.core j := rfl
@[simp] theorem State.modHome_read_die (s : State) (k : Nat) (f : HomeUnit → HomeUnit) (j : Nat) : (s.modHome k f).die j = s.die j := rfl
@[simp] theorem State.modHome_read_hub (s : State) (k : Nat) (f : HomeUnit → HomeUnit) (j : Nat) : (s.modHome k f).hub j = s.hub j := rfl
@[simp] theorem State.modHome_read_dev (s : State) (k : Nat) (f : HomeUnit → HomeUnit) (j : Nat) : (s.modHome k f).dev j = s.dev j := rfl
@[simp] theorem State.modHome_read_tenant (s : State) (k : Nat) (f : HomeUnit → HomeUnit) (j : Nat) : (s.modHome k f).tenant j = s.tenant j := rfl
@[simp] theorem State.modHome_read_smetaOf (s : State) (k : Nat) (f : HomeUnit → HomeUnit) (j : Nat) : (s.modHome k f).smetaOf j = s.smetaOf j := rfl
@[simp] theorem State.modHome_read_holdOf (s : State) (k : Nat) (f : HomeUnit → HomeUnit) (j i : Nat) : (s.modHome k f).holdOf j i = s.holdOf j i := rfl
@[simp] theorem State.modHome_read_homeTokOf (s : State) (k : Nat) (f : HomeUnit → HomeUnit) (j : Nat) : (s.modHome k f).homeTokOf j = s.homeTokOf j := rfl
@[simp] theorem State.modSmeta_read_gang (s : State) (k : Nat) (f : SMeta → SMeta) (j : Nat) : (s.modSmeta k f).gang? j = s.gang? j := rfl
@[simp] theorem State.modSmeta_read_team (s : State) (k : Nat) (f : SMeta → SMeta) (j : Nat) : (s.modSmeta k f).team? j = s.team? j := rfl
@[simp] theorem State.modSmeta_read_cohort (s : State) (k : Nat) (f : SMeta → SMeta) (j : Nat) : (s.modSmeta k f).cohort? j = s.cohort? j := rfl
@[simp] theorem State.modSmeta_read_core (s : State) (k : Nat) (f : SMeta → SMeta) (j : Nat) : (s.modSmeta k f).core j = s.core j := rfl
@[simp] theorem State.modSmeta_read_die (s : State) (k : Nat) (f : SMeta → SMeta) (j : Nat) : (s.modSmeta k f).die j = s.die j := rfl
@[simp] theorem State.modSmeta_read_hub (s : State) (k : Nat) (f : SMeta → SMeta) (j : Nat) : (s.modSmeta k f).hub j = s.hub j := rfl
@[simp] theorem State.modSmeta_read_dev (s : State) (k : Nat) (f : SMeta → SMeta) (j : Nat) : (s.modSmeta k f).dev j = s.dev j := rfl
@[simp] theorem State.modSmeta_read_tenant (s : State) (k : Nat) (f : SMeta → SMeta) (j : Nat) : (s.modSmeta k f).tenant j = s.tenant j := rfl
@[simp] theorem State.modSmeta_read_home (s : State) (k : Nat) (f : SMeta → SMeta) (j : Nat) : (s.modSmeta k f).home j = s.home j := rfl
@[simp] theorem State.modSmeta_read_holdOf (s : State) (k : Nat) (f : SMeta → SMeta) (j i : Nat) : (s.modSmeta k f).holdOf j i = s.holdOf j i := rfl
@[simp] theorem State.modSmeta_read_homeTokOf (s : State) (k : Nat) (f : SMeta → SMeta) (j : Nat) : (s.modSmeta k f).homeTokOf j = s.homeTokOf j := rfl
@[simp] theorem State.setHold_read_gang (s : State) (sec h : Nat) (x : Hold) (j : Nat) : (s.setHold sec h x).gang? j = s.gang? j := rfl
@[simp] theorem State.setHold_read_team (s : State) (sec h : Nat) (x : Hold) (j : Nat) : (s.setHold sec h x).team? j = s.team? j := rfl
@[simp] theorem State.setHold_read_cohort (s : State) (sec h : Nat) (x : Hold) (j : Nat) : (s.setHold sec h x).cohort? j = s.cohort? j := rfl
@[simp] theorem State.setHold_read_core (s : State) (sec h : Nat) (x : Hold) (j : Nat) : (s.setHold sec h x).core j = s.core j := rfl
@[simp] theorem State.setHold_read_die (s : State) (sec h : Nat) (x : Hold) (j : Nat) : (s.setHold sec h x).die j = s.die j := rfl
@[simp] theorem State.setHold_read_hub (s : State) (sec h : Nat) (x : Hold) (j : Nat) : (s.setHold sec h x).hub j = s.hub j := rfl
@[simp] theorem State.setHold_read_dev (s : State) (sec h : Nat) (x : Hold) (j : Nat) : (s.setHold sec h x).dev j = s.dev j := rfl
@[simp] theorem State.setHold_read_tenant (s : State) (sec h : Nat) (x : Hold) (j : Nat) : (s.setHold sec h x).tenant j = s.tenant j := rfl
@[simp] theorem State.setHold_read_home (s : State) (sec h : Nat) (x : Hold) (j : Nat) : (s.setHold sec h x).home j = s.home j := rfl
@[simp] theorem State.setHold_read_smetaOf (s : State) (sec h : Nat) (x : Hold) (j : Nat) : (s.setHold sec h x).smetaOf j = s.smetaOf j := rfl
@[simp] theorem State.setHold_read_homeTokOf (s : State) (sec h : Nat) (x : Hold) (j : Nat) : (s.setHold sec h x).homeTokOf j = s.homeTokOf j := rfl
@[simp] theorem State.setHomeTok_read_gang (s : State) (sec : Nat) (x : Nat × Bool) (j : Nat) : (s.setHomeTok sec x).gang? j = s.gang? j := rfl
@[simp] theorem State.setHomeTok_read_team (s : State) (sec : Nat) (x : Nat × Bool) (j : Nat) : (s.setHomeTok sec x).team? j = s.team? j := rfl
@[simp] theorem State.setHomeTok_read_cohort (s : State) (sec : Nat) (x : Nat × Bool) (j : Nat) : (s.setHomeTok sec x).cohort? j = s.cohort? j := rfl
@[simp] theorem State.setHomeTok_read_core (s : State) (sec : Nat) (x : Nat × Bool) (j : Nat) : (s.setHomeTok sec x).core j = s.core j := rfl
@[simp] theorem State.setHomeTok_read_die (s : State) (sec : Nat) (x : Nat × Bool) (j : Nat) : (s.setHomeTok sec x).die j = s.die j := rfl
@[simp] theorem State.setHomeTok_read_hub (s : State) (sec : Nat) (x : Nat × Bool) (j : Nat) : (s.setHomeTok sec x).hub j = s.hub j := rfl
@[simp] theorem State.setHomeTok_read_dev (s : State) (sec : Nat) (x : Nat × Bool) (j : Nat) : (s.setHomeTok sec x).dev j = s.dev j := rfl
@[simp] theorem State.setHomeTok_read_tenant (s : State) (sec : Nat) (x : Nat × Bool) (j : Nat) : (s.setHomeTok sec x).tenant j = s.tenant j := rfl
@[simp] theorem State.setHomeTok_read_home (s : State) (sec : Nat) (x : Nat × Bool) (j : Nat) : (s.setHomeTok sec x).home j = s.home j := rfl
@[simp] theorem State.setHomeTok_read_smetaOf (s : State) (sec : Nat) (x : Nat × Bool) (j : Nat) : (s.setHomeTok sec x).smetaOf j = s.smetaOf j := rfl
@[simp] theorem State.setHomeTok_read_holdOf (s : State) (sec : Nat) (x : Nat × Bool) (j i : Nat) : (s.setHomeTok sec x).holdOf j i = s.holdOf j i := rfl
@[simp] theorem State.send_read_gang (s : State) (e : Ev) (j : Nat) : (s.send e).gang? j = s.gang? j := rfl
@[simp] theorem State.send_read_team (s : State) (e : Ev) (j : Nat) : (s.send e).team? j = s.team? j := rfl
@[simp] theorem State.send_read_cohort (s : State) (e : Ev) (j : Nat) : (s.send e).cohort? j = s.cohort? j := rfl
@[simp] theorem State.send_read_core (s : State) (e : Ev) (j : Nat) : (s.send e).core j = s.core j := rfl
@[simp] theorem State.send_read_die (s : State) (e : Ev) (j : Nat) : (s.send e).die j = s.die j := rfl
@[simp] theorem State.send_read_hub (s : State) (e : Ev) (j : Nat) : (s.send e).hub j = s.hub j := rfl
@[simp] theorem State.send_read_dev (s : State) (e : Ev) (j : Nat) : (s.send e).dev j = s.dev j := rfl
@[simp] theorem State.send_read_tenant (s : State) (e : Ev) (j : Nat) : (s.send e).tenant j = s.tenant j := rfl
@[simp] theorem State.send_read_home (s : State) (e : Ev) (j : Nat) : (s.send e).home j = s.home j := rfl
@[simp] theorem State.send_read_smetaOf (s : State) (e : Ev) (j : Nat) : (s.send e).smetaOf j = s.smetaOf j := rfl
@[simp] theorem State.send_read_holdOf (s : State) (e : Ev) (j i : Nat) : (s.send e).holdOf j i = s.holdOf j i := rfl
@[simp] theorem State.send_read_homeTokOf (s : State) (e : Ev) (j : Nat) : (s.send e).homeTokOf j = s.homeTokOf j := rfl
@[simp] theorem State.modGang_read_team (s : State) (g : Nat) (f : Gang → Gang) (j : Nat) : (s.modGang g f).team? j = s.team? j := by unfold State.modGang; split <;> rfl
@[simp] theorem State.modGang_read_cohort (s : State) (g : Nat) (f : Gang → Gang) (j : Nat) : (s.modGang g f).cohort? j = s.cohort? j := by unfold State.modGang; split <;> rfl
@[simp] theorem State.modGang_read_core (s : State) (g : Nat) (f : Gang → Gang) (j : Nat) : (s.modGang g f).core j = s.core j := by unfold State.modGang; split <;> rfl
@[simp] theorem State.modGang_read_die (s : State) (g : Nat) (f : Gang → Gang) (j : Nat) : (s.modGang g f).die j = s.die j := by unfold State.modGang; split <;> rfl
@[simp] theorem State.modGang_read_hub (s : State) (g : Nat) (f : Gang → Gang) (j : Nat) : (s.modGang g f).hub j = s.hub j := by unfold State.modGang; split <;> rfl
@[simp] theorem State.modGang_read_dev (s : State) (g : Nat) (f : Gang → Gang) (j : Nat) : (s.modGang g f).dev j = s.dev j := by unfold State.modGang; split <;> rfl
@[simp] theorem State.modGang_read_tenant (s : State) (g : Nat) (f : Gang → Gang) (j : Nat) : (s.modGang g f).tenant j = s.tenant j := by unfold State.modGang; split <;> rfl
@[simp] theorem State.modGang_read_home (s : State) (g : Nat) (f : Gang → Gang) (j : Nat) : (s.modGang g f).home j = s.home j := by unfold State.modGang; split <;> rfl
@[simp] theorem State.modGang_read_smetaOf (s : State) (g : Nat) (f : Gang → Gang) (j : Nat) : (s.modGang g f).smetaOf j = s.smetaOf j := by unfold State.modGang; split <;> rfl
@[simp] theorem State.modGang_read_holdOf (s : State) (g : Nat) (f : Gang → Gang) (j i : Nat) : (s.modGang g f).holdOf j i = s.holdOf j i := by unfold State.modGang; split <;> rfl
@[simp] theorem State.modGang_read_homeTokOf (s : State) (g : Nat) (f : Gang → Gang) (j : Nat) : (s.modGang g f).homeTokOf j = s.homeTokOf j := by unfold State.modGang; split <;> rfl
@[simp] theorem State.modTeam_read_gang (s : State) (k : Nat) (f : Team → Team) (j : Nat) : (s.modTeam k f).gang? j = s.gang? j := by unfold State.modTeam; split <;> rfl
@[simp] theorem State.modTeam_read_cohort (s : State) (k : Nat) (f : Team → Team) (j : Nat) : (s.modTeam k f).cohort? j = s.cohort? j := by unfold State.modTeam; split <;> rfl
@[simp] theorem State.modTeam_read_core (s : State) (k : Nat) (f : Team → Team) (j : Nat) : (s.modTeam k f).core j = s.core j := by unfold State.modTeam; split <;> rfl
@[simp] theorem State.modTeam_read_die (s : State) (k : Nat) (f : Team → Team) (j : Nat) : (s.modTeam k f).die j = s.die j := by unfold State.modTeam; split <;> rfl
@[simp] theorem State.modTeam_read_hub (s : State) (k : Nat) (f : Team → Team) (j : Nat) : (s.modTeam k f).hub j = s.hub j := by unfold State.modTeam; split <;> rfl
@[simp] theorem State.modTeam_read_dev (s : State) (k : Nat) (f : Team → Team) (j : Nat) : (s.modTeam k f).dev j = s.dev j := by unfold State.modTeam; split <;> rfl
@[simp] theorem State.modTeam_read_tenant (s : State) (k : Nat) (f : Team → Team) (j : Nat) : (s.modTeam k f).tenant j = s.tenant j := by unfold State.modTeam; split <;> rfl
@[simp] theorem State.modTeam_read_home (s : State) (k : Nat) (f : Team → Team) (j : Nat) : (s.modTeam k f).home j = s.home j := by unfold State.modTeam; split <;> rfl
@[simp] theorem State.modTeam_read_smetaOf (s : State) (k : Nat) (f : Team → Team) (j : Nat) : (s.modTeam k f).smetaOf j = s.smetaOf j := by unfold State.modTeam; split <;> rfl
@[simp] theorem State.modTeam_read_holdOf (s : State) (k : Nat) (f : Team → Team) (j i : Nat) : (s.modTeam k f).holdOf j i = s.holdOf j i := by unfold State.modTeam; split <;> rfl
@[simp] theorem State.modTeam_read_homeTokOf (s : State) (k : Nat) (f : Team → Team) (j : Nat) : (s.modTeam k f).homeTokOf j = s.homeTokOf j := by unfold State.modTeam; split <;> rfl
@[simp] theorem State.modRegs_read_team (s : State) (g : Nat) (f : Regs → Regs) (j : Nat) : (s.modRegs g f).team? j = s.team? j := State.modGang_read_team _ _ _ _
@[simp] theorem State.modRegs_read_cohort (s : State) (g : Nat) (f : Regs → Regs) (j : Nat) : (s.modRegs g f).cohort? j = s.cohort? j := State.modGang_read_cohort _ _ _ _
@[simp] theorem State.modRegs_read_core (s : State) (g : Nat) (f : Regs → Regs) (j : Nat) : (s.modRegs g f).core j = s.core j := State.modGang_read_core _ _ _ _
@[simp] theorem State.modRegs_read_die (s : State) (g : Nat) (f : Regs → Regs) (j : Nat) : (s.modRegs g f).die j = s.die j := State.modGang_read_die _ _ _ _
@[simp] theorem State.modRegs_read_hub (s : State) (g : Nat) (f : Regs → Regs) (j : Nat) : (s.modRegs g f).hub j = s.hub j := State.modGang_read_hub _ _ _ _
@[simp] theorem State.modRegs_read_dev (s : State) (g : Nat) (f : Regs → Regs) (j : Nat) : (s.modRegs g f).dev j = s.dev j := State.modGang_read_dev _ _ _ _
@[simp] theorem State.modRegs_read_tenant (s : State) (g : Nat) (f : Regs → Regs) (j : Nat) : (s.modRegs g f).tenant j = s.tenant j := State.modGang_read_tenant _ _ _ _
@[simp] theorem State.modRegs_read_home (s : State) (g : Nat) (f : Regs → Regs) (j : Nat) : (s.modRegs g f).home j = s.home j := State.modGang_read_home _ _ _ _
@[simp] theorem State.modRegs_read_smetaOf (s : State) (g : Nat) (f : Regs → Regs) (j : Nat) : (s.modRegs g f).smetaOf j = s.smetaOf j := State.modGang_read_smetaOf _ _ _ _
@[simp] theorem State.modRegs_read_holdOf (s : State) (g : Nat) (f : Regs → Regs) (j i : Nat) : (s.modRegs g f).holdOf j i = s.holdOf j i := State.modGang_read_holdOf _ _ _ _ _
@[simp] theorem State.modRegs_read_homeTokOf (s : State) (g : Nat) (f : Regs → Regs) (j : Nat) : (s.modRegs g f).homeTokOf j = s.homeTokOf j := State.modGang_read_homeTokOf _ _ _ _

/-! What setting a slot's wait leaves of a gang. -/

@[simp] theorem Gang.setWait_team (g : Gang) (b : Bool) (w : Wait) : (g.setWait b w).team = g.team := by cases b <;> rfl
@[simp] theorem Gang.setWait_idx (g : Gang) (b : Bool) (w : Wait) : (g.setWait b w).idx = g.idx := by cases b <;> rfl
@[simp] theorem Gang.setWait_role (g : Gang) (b : Bool) (w : Wait) : (g.setWait b w).role = g.role := by cases b <;> rfl
@[simp] theorem Gang.setWait_core (g : Gang) (b : Bool) (w : Wait) : (g.setWait b w).core = g.core := by cases b <;> rfl
@[simp] theorem Gang.setWait_part (g : Gang) (b : Bool) (w : Wait) : (g.setWait b w).part = g.part := by cases b <;> rfl
@[simp] theorem Gang.setWait_rslot (g : Gang) (b : Bool) (w : Wait) : (g.setWait b w).rslot = g.rslot := by cases b <;> rfl
@[simp] theorem Gang.setWait_resident (g : Gang) (b : Bool) (w : Wait) : (g.setWait b w).resident = g.resident := by cases b <;> rfl
@[simp] theorem Gang.setWait_regs (g : Gang) (b : Bool) (w : Wait) : (g.setWait b w).regs = g.regs := by cases b <;> rfl
@[simp] theorem Gang.setWait_tr0 (g : Gang) (b : Bool) (w : Wait) : (g.setWait b w).tr0 = g.tr0 := by cases b <;> rfl
@[simp] theorem Gang.setWait_tr1 (g : Gang) (b : Bool) (w : Wait) : (g.setWait b w).tr1 = g.tr1 := by cases b <;> rfl
@[simp] theorem Gang.setWait_rgnOpen (g : Gang) (b : Bool) (w : Wait) : (g.setWait b w).rgnOpen = g.rgnOpen := by cases b <;> rfl
@[simp] theorem Gang.setWait_rgnPc (g : Gang) (b : Bool) (w : Wait) : (g.setWait b w).rgnPc = g.rgnPc := by cases b <;> rfl
@[simp] theorem Gang.setWait_rgnMask (g : Gang) (b : Bool) (w : Wait) : (g.setWait b w).rgnMask = g.rgnMask := by cases b <;> rfl
@[simp] theorem Gang.setWait_cgrps (g : Gang) (b : Bool) (w : Wait) : (g.setWait b w).cgrps = g.cgrps := by cases b <;> rfl
@[simp] theorem Gang.setWait_rgrps (g : Gang) (b : Bool) (w : Wait) : (g.setWait b w).rgrps = g.rgrps := by cases b <;> rfl
@[simp] theorem Gang.setWait_fluxBudget (g : Gang) (b : Bool) (w : Wait) : (g.setWait b w).fluxBudget = g.fluxBudget := by cases b <;> rfl
@[simp] theorem Gang.setWait_fluxPref (g : Gang) (b : Bool) (w : Wait) : (g.setWait b w).fluxPref = g.fluxPref := by cases b <;> rfl
@[simp] theorem Gang.setWait_fluxWalks (g : Gang) (b : Bool) (w : Wait) : (g.setWait b w).fluxWalks = g.fluxWalks := by cases b <;> rfl
@[simp] theorem Gang.setWait_fluxFaults (g : Gang) (b : Bool) (w : Wait) : (g.setWait b w).fluxFaults = g.fluxFaults := by cases b <;> rfl
@[simp] theorem Gang.setWait_fluxPasses (g : Gang) (b : Bool) (w : Wait) : (g.setWait b w).fluxPasses = g.fluxPasses := by cases b <;> rfl
@[simp] theorem Gang.setWait_flux (g : Gang) (b : Bool) (w : Wait) : (g.setWait b w).flux = g.flux := by cases b <;> rfl
@[simp] theorem Gang.setWait_fluxDone (g : Gang) (b : Bool) (w : Wait) : (g.setWait b w).fluxDone = g.fluxDone := by cases b <;> rfl
@[simp] theorem Gang.setWait_out (g : Gang) (b : Bool) (w : Wait) : (g.setWait b w).out = g.out := by cases b <;> rfl
@[simp] theorem Gang.setWait_bar (g : Gang) (b : Bool) (w : Wait) : (g.setWait b w).bar = g.bar := by cases b <;> rfl
@[simp] theorem Gang.setWait_relArm (g : Gang) (b : Bool) (w : Wait) : (g.setWait b w).relArm = g.relArm := by cases b <;> rfl
@[simp] theorem Gang.setWait_walked (g : Gang) (b : Bool) (w : Wait) : (g.setWait b w).walked = g.walked := by cases b <;> rfl
@[simp] theorem Gang.setWait_eye (g : Gang) (b : Bool) (w : Wait) : (g.setWait b w).eye = g.eye := by cases b <;> rfl
@[simp] theorem Gang.setWait_acks (g : Gang) (b : Bool) (w : Wait) : (g.setWait b w).acks = g.acks := by cases b <;> rfl
@[simp] theorem Gang.setWait_walkMhz (g : Gang) (b : Bool) (w : Wait) : (g.setWait b w).walkMhz = g.walkMhz := by cases b <;> rfl
@[simp] theorem Gang.setWait_looks (g : Gang) (b : Bool) (w : Wait) : (g.setWait b w).looks = g.looks := by cases b <;> rfl
@[simp] theorem Gang.setWait_owed (g : Gang) (b : Bool) (w : Wait) : (g.setWait b w).owed = g.owed := by cases b <;> rfl
@[simp] theorem Gang.setWait_long (g : Gang) (b : Bool) (w : Wait) : (g.setWait b w).long = g.long := by cases b <;> rfl
@[simp] theorem Gang.setWait_pois (g : Gang) (b : Bool) (w : Wait) : (g.setWait b w).pois = g.pois := by cases b <;> rfl
@[simp] theorem Gang.setWait_active (g : Gang) (b : Bool) (w : Wait) : (g.setWait b w).active = g.active := by cases b <;> rfl
@[simp] theorem Gang.setWait_movedAt (g : Gang) (b : Bool) (w : Wait) : (g.setWait b w).movedAt = g.movedAt := by cases b <;> rfl
@[simp] theorem Gang.setWait_eligAt (g : Gang) (b : Bool) (w : Wait) : (g.setWait b w).eligAt = g.eligAt := by cases b <;> rfl
@[simp] theorem Gang.setWait_issuedAt (g : Gang) (b : Bool) (w : Wait) : (g.setWait b w).issuedAt = g.issuedAt := by cases b <;> rfl
@[simp] theorem Gang.setWait_lwait (g : Gang) (b : Bool) (w : Wait) : (g.setWait b w).lwait = g.lwait := by cases b <;> rfl
@[simp] theorem Gang.setWait_lres (g : Gang) (b : Bool) (w : Wait) : (g.setWait b w).lres = g.lres := by cases b <;> rfl
@[simp] theorem Gang.setWait_waitAt (g : Gang) (b : Bool) (w : Wait) : (g.setWait b w).waitAt b = w := by cases b <;> rfl

end Sys2Proof.Machine
end

