-- ==== Sys2Proof/Laws/Memory.lean ====
section
/-!
SUPPORT. The canonical form of the memories: every operation that writes one keeps it. What a store changes.
-/
namespace Sys2Proof.Machine

theorem State.memWf_iff (s : State) : s.memWf = true ↔
    Store.wf 0 s.mem = true ∧ Store.wf 0 s.hostMem = true ∧ Store.wf 0 s.poolMem = true := by
  simp [State.memWf, and_assoc]

/-- Only the three memories matter. -/
theorem State.memWf_of_eq {s t : State} (h : s.memWf = true) (e1 : t.mem = s.mem) (e2 : t.hostMem = s.hostMem)
    (e3 : t.poolMem = s.poolMem) : t.memWf = true := by
  rwa [State.memWf, e1, e2, e3]

theorem State.memWf_withMem {s : State} {m : Store Byte} (h : s.memWf = true) (k : Store.wf 0 m = true) :
    ({ s with mem := m } : State).memWf = true := by
  rw [memWf_iff] at h ⊢; exact ⟨k, h.2⟩
theorem State.memWf_withHostMem {s : State} {m : Store Byte} (h : s.memWf = true) (k : Store.wf 0 m = true) :
    ({ s with hostMem := m } : State).memWf = true := by
  rw [memWf_iff] at h ⊢; exact ⟨h.1, k, h.2.2⟩
theorem State.memWf_withPoolMem {s : State} {m : Store Byte} (h : s.memWf = true) (k : Store.wf 0 m = true) :
    ({ s with poolMem := m } : State).memWf = true := by
  rw [memWf_iff] at h ⊢; exact ⟨h.1, h.2.1, k⟩

/-- The home memory's write of a sector. -/
theorem State.memWf_putMemSec {s : State} (h : s.memWf = true) (sec : Nat) (d : BitVec 512) :
    (s.putMemSec sec d).memWf = true :=
  memWf_withMem h (Store.wf_writeBytes _ _ ((memWf_iff s).mp h).1)

/-- Bytes of a holder change no memory. -/
theorem State.memWf_setHolds {s : State} (h : s.memWf = true) (sec : Nat) (f : Nat × Hold → Hold) (l : List (Nat × Hold)) :
    (l.foldl (fun s p => s.setHold sec p.1 (f p)) s).memWf = true := by
  induction l generalizing s with
  | nil => exact h
  | cons p l ih => exact ih (s := s.setHold sec p.1 (f p)) (memWf_of_eq h rfl rfl rfl)

/-- The coherent write of a byte. -/
theorem State.memWf_sysPutByte {s : State} (h : s.memWf = true) (dev pa : Nat) (b : Byte) :
    (s.sysPutByte dev pa b).memWf = true := by
  unfold State.sysPutByte
  refine memWf_withMem ?_ (Store.wf_set _ _ ((memWf_iff _).mp ?_).1) <;>
    exact memWf_of_eq (memWf_setHolds h (sectorOf dev pa)
      (fun p => { p.2 with data := secPut p.2.data (pa % 64) 1 b.toNat }) (s.holders (sectorOf dev pa))) rfl rfl rfl

/-- The coherent write of bytes. -/
theorem State.memWf_sysWrite {s : State} (h : s.memWf = true) (dev pa : Nat) (bs : List Byte) :
    (s.sysWrite dev pa bs).memWf = true := by
  induction bs generalizing s pa with
  | nil => exact h
  | cons b bs ih => exact ih (memWf_sysPutByte h dev pa b) _

/-- Bytes put at a tenant's pointer. -/
theorem State.memWf_ptrPut {s t : State} {dev tenant ptr : Nat} {bs : List Byte} (h : s.memWf = true)
    (e : s.ptrPut dev tenant ptr bs = .ok (some t)) : t.memWf = true := by
  unfold State.ptrPut at e
  split at e
  · cases e
  · split at e
    · cases e; exact memWf_withHostMem h (Store.wf_writeBytes _ _ ((memWf_iff s).mp h).2.1)
    · cases e
  · cases e; exact memWf_withPoolMem h (Store.wf_writeBytes _ _ ((memWf_iff s).mp h).2.2)
  · split at e
    · cases e
    · cases e; exact memWf_sysWrite h _ _ _
  · cases e
/-- An error-log record. -/
theorem State.memWf_logAt {s : State} (h : s.memWf = true) (dev tenant kind : Nat) (hall : Word) (addr handle cc now : Nat) :
    (s.logAt dev tenant kind hall addr handle cc now).memWf = true := by
  unfold State.logAt
  dsimp only
  split
  · exact memWf_of_eq h rfl rfl rfl
  · split
    · rename_i e
      have k := memWf_ptrPut h e
      split <;> exact memWf_of_eq k rfl rfl rfl
    · exact memWf_of_eq h rfl rfl rfl
theorem State.memWf_logError {s : State} (h : s.memWf = true) (dev tenant kind : Nat) (hall : Word) (addr handle cc : Nat) :
    (s.logError dev tenant kind hall addr handle cc).memWf = true := memWf_logAt h ..
/-- A store that the device makes at a tenant's pointer. -/
theorem State.memWf_ptrStore {s t : State} {dev tenant ptr : Nat} {bs : List Byte} (h : s.memWf = true)
    (e : s.ptrStore dev tenant ptr bs = .ok t) : t.memWf = true := by
  unfold State.ptrStore at e
  split at e
  · cases e
  · cases e; exact memWf_ptrPut h ‹_›
  · cases e; exact memWf_logError h ..

/-- One lane in a window. -/
theorem wf_winLane {op : AccOp} {y : LaneAcc} {m : Store Byte} {a : Nat} (h : Store.wf 0 m = true) :
    Store.wf 0 (winLane op y m a).2 = true := by
  unfold winLane
  dsimp only
  split
  · exact Store.wf_writeBytes _ _ h
  · exact h

/-- What a coherent byte's write leaves of device memory: every byte at another address. -/
theorem State.sysPutByte_other (s : State) (dev pa : Nat) (b : Byte) {k : Nat} (h : k ≠ memKey dev pa) :
    Store.get 0 (s.sysPutByte dev pa b).mem k = Store.get 0 s.mem k := by
  unfold State.sysPutByte
  refine (Store.get_set_other _ _ _ h).trans ?_
  refine congrArg (fun m => Store.get 0 m k) ?_
  exact List.foldlRecOn (motive := fun t : State => t.mem = s.mem) _ _ rfl fun _ h _ _ => h

/-- The host's and the pools' memories are apart from the device's. -/
theorem State.sysPutByte_apart (s : State) (dev pa : Nat) (b : Byte) :
    (s.sysPutByte dev pa b).hostMem = s.hostMem ∧ (s.sysPutByte dev pa b).poolMem = s.poolMem := by
  unfold State.sysPutByte
  exact List.foldlRecOn (motive := fun t : State => t.hostMem = s.hostMem ∧ t.poolMem = s.poolMem) _ _ ⟨rfl, rfl⟩
    fun _ h _ _ => h

/-- A sector written to home memory reads as written. -/
theorem State.memSec_putMemSec (s : State) (sec : Nat) (d : BitVec 512) : (s.putMemSec sec d).memSec sec = d := by
  have h := readBytes_writeBytes s.mem (memKey (secDev sec) (secPa sec)) (toBytes 64 d.toNat)
  rw [length_toBytes] at h
  simp only [State.memSec, State.putMemSec, h, ofBytes_toBytes]
  rw [Nat.mod_eq_of_lt (by have := d.isLt; omega)]
  exact BitVec.ofNat_toNat _ _ |>.trans (BitVec.setWidth_eq _)

/-- Memory that is the same byte for byte is the same through two steps. -/
theorem SameMemory.trans {s t u : State} (h : SameMemory s t) (k : SameMemory t u) : SameMemory s u :=
  fun a => (k a).trans (h a)

/-- States whose memories are equal hold the same bytes. -/
theorem SameMemory.of_eq {s t : State} (e1 : t.mem = s.mem) (e2 : t.hostMem = s.hostMem) (e3 : t.poolMem = s.poolMem) :
    SameMemory s t := by
  intro a
  cases a <;> simp only [State.byteAt, e1, e2, e3]

/-- The memory after reset is in canonical form. -/
theorem State.memWf_reset : State.reset.memWf = true := rfl

end Sys2Proof.Machine
end

