-- ==== Sys2Proof/Laws/Regs.lean ====
section
/-!
SUPPORT. What each write of a register does, once: the value that reads back, and the frame.
-/
namespace Sys2Proof.Machine

/-! ### Lanes -/

@[simp] theorem mem_lanes {l : Nat} : l ∈ lanes ↔ l < 32 := List.mem_range
theorem mem_lanesOf {m : BitVec 32} {l : Nat} : l ∈ lanesOf m ↔ m.getLsbD l = true := by
  simp only [lanesOf, List.mem_filter, mem_lanes]
  exact ⟨fun h => h.2, fun h => ⟨BitVec.lt_of_getLsbD h, h⟩⟩
/-- A sum of distinct powers of two, bit by bit. -/
theorem sumBits_spec (p : Nat → Bool) (n : Nat) :
    (List.range n).foldl (fun a l => if p l then a + 2 ^ l else a) 0 < 2 ^ n ∧
    ∀ i, ((List.range n).foldl (fun a l => if p l then a + 2 ^ l else a) 0).testBit i = (decide (i < n) && p i) := by
  induction n with
  | zero => simp
  | succ n ih =>
    simp only [List.range_succ, List.foldl_append, List.foldl_cons, List.foldl_nil] at ih ⊢
    generalize (List.range n).foldl (fun a l => if p l then a + 2 ^ l else a) 0 = S at ih
    obtain ⟨h1, h2⟩ := ih
    cases hp : p n with
    | true =>
      simp only [if_true]
      have hlt : S + 2 ^ n < 2 ^ (n + 1) := by rw [Nat.pow_succ]; omega
      refine ⟨hlt, fun i => ?_⟩
      rw [Nat.add_comm] at hlt ⊢
      rcases Nat.lt_trichotomy i n with h | h | h
      · rw [Nat.testBit_two_pow_add_gt h, h2]; simp [h, Nat.lt_succ_of_lt h]
      · subst h; rw [Nat.testBit_two_pow_add_eq, h2]; simp [hp]
      · rw [Nat.testBit_lt_two_pow (Nat.lt_of_lt_of_le hlt (Nat.pow_le_pow_right (by decide) h))]
        simp; omega
    | false =>
      simp only [Bool.false_eq_true, if_false]
      refine ⟨by rw [Nat.pow_succ]; omega, fun i => ?_⟩
      rw [h2]
      by_cases hi : i = n
      · subst hi; simp [hp]
      · have : (i < n + 1) = (i < n) := by apply propext; omega
        simp only [this]
/-- A bit of the mask of the lanes that satisfy `p`. -/
@[simp] theorem getLsbD_maskOf (p : Nat → Bool) (l : Nat) : (maskOf p).getLsbD l = (decide (l < 32) && p l) := by
  have h := (sumBits_spec p 32).2 l
  simp only [maskOf, lanes, BitVec.getLsbD_ofNat, h]
  cases decide (l < 32) <;> simp

/-! ### Reading back -/

theorem putV_v (x : Regs) (r l : Nat) (v : Word) {r' l' : Nat} (hl : l < 32) (hl' : l' < 32) :
    (x.putV r l v).v r' l' = if r' = r ∧ l' = l ∧ r < 255 then v else x.v r' l' := by
  unfold Regs.putV Regs.v
  by_cases h : 255 ≤ r
  · simp only [h, if_true]
    rw [if_neg (show ¬ (r' = r ∧ l' = l ∧ r < 255) by omega)]
  · simp only [h, if_false]
    by_cases h' : 255 ≤ r'
    · simp only [h', if_true]
      rw [if_neg (show ¬ (r' = r ∧ l' = l ∧ r < 255) by omega)]
    · simp only [h', if_false, Store.get_set]
      by_cases e : r' = r ∧ l' = l
      · obtain ⟨rfl, rfl⟩ := e
        rw [if_pos rfl, if_pos (by omega)]
      · rw [if_neg (by omega), if_neg (by omega)]

theorem foldl_putV_v (ls : List Nat) (x : Regs) (r : Nat) (f : Nat → Word) {r' l' : Nat} (hs : ∀ l ∈ ls, l < 32) (hl' : l' < 32) :
    (ls.foldl (fun x l => x.putV r l (f l)) x).v r' l' = if r' = r ∧ l' ∈ ls ∧ r < 255 then f l' else x.v r' l' := by
  induction ls generalizing x with
  | nil => simp
  | cons a ls ih =>
    rw [List.foldl_cons, ih _ (fun l h => hs l (List.mem_cons_of_mem _ h)), putV_v _ _ _ _ (hs a List.mem_cons_self) hl']
    by_cases h1 : r' = r ∧ l' ∈ ls ∧ r < 255
    · rw [if_pos h1, if_pos ⟨h1.1, List.mem_cons_of_mem _ h1.2.1, h1.2.2⟩]
    · rw [if_neg h1]
      by_cases h2 : r' = r ∧ l' = a ∧ r < 255
      · rw [if_pos h2, if_pos ⟨h2.1, h2.2.1 ▸ List.mem_cons_self, h2.2.2⟩, h2.2.1]
      · rw [if_neg h2, if_neg]
        rintro ⟨e1, e2, e3⟩
        rcases List.mem_cons.mp e2 with e | e
        · exact h2 ⟨e1, e, e3⟩
        · exact h1 ⟨e1, e, e3⟩

theorem setVFull_v (x : Regs) (r : Nat) (b : Bool) (r' l' : Nat) : (x.setVFull r b).v r' l' = x.v r' l' := by
  unfold Regs.setVFull; split <;> rfl

/-- What a vector register reads after a write of the lanes of a mask. -/
theorem setV_v (x : Regs) (r : Nat) (m : BitVec 32) (f : Nat → Word) {r' l' : Nat} (hl' : l' < 32) :
    (x.setV r m f).v r' l' = if r' = r ∧ m.getLsbD l' ∧ r < 255 then f l' else x.v r' l' := by
  unfold Regs.setV
  rw [setVFull_v, foldl_putV_v _ _ _ _ (fun l h => BitVec.lt_of_getLsbD (mem_lanesOf.mp h)) hl']
  simp only [mem_lanesOf]

/-- What a uniform register reads after a write of one. -/
theorem setK_k (x : Regs) (r : Nat) (v : Word) (r' : Nat) :
    (x.setK r v).k r' = if r' = r ∧ r < 127 then v else x.k r' := by
  unfold Regs.setK
  by_cases h : 127 ≤ r
  · simp only [h, if_true]
    rw [if_neg (show ¬ (r' = r ∧ r < 127) by omega)]
  · simp only [h, if_false, Regs.setKFull, Regs.k]
    by_cases h' : 127 ≤ r'
    · simp only [h', if_true]
      rw [if_neg (show ¬ (r' = r ∧ r < 127) by omega)]
    · simp only [h', if_false, Store.get_set]
      by_cases e : r' = r
      · rw [if_pos e, if_pos ⟨e, by omega⟩]
      · rw [if_neg e, if_neg (fun c => e c.1)]

/-- What a lane predicate reads after a write of the lanes of a mask. -/
theorem setP_p (x : Regs) (n : Nat) (m : BitVec 32) (f : Nat → Bool) {n' l : Nat} (hl : l < 32) :
    ((x.setP n m f).p n').getLsbD l = if n' = n ∧ m.getLsbD l ∧ n ≠ 7 then f l else (x.p n').getLsbD l := by
  unfold Regs.setP
  by_cases h : n = 7
  · simp [h]
  · simp only [h, if_false, Regs.p]
    by_cases h' : n' = 7
    · rw [if_pos h', if_neg (fun c : n' = n ∧ _ => h (c.1 ▸ h')), if_pos h']
    · simp only [h', if_false, Store.get_set]
      by_cases e : n' = n
      · subst e
        simp only [if_true, BitVec.getLsbD_or, BitVec.getLsbD_and, BitVec.getLsbD_not, getLsbD_maskOf, hl, decide_true, Bool.true_and]
        cases m.getLsbD l <;> simp
        intro h2; exact absurd h2 h'
      · rw [if_neg e, if_neg (fun c => e c.1)]

theorem getLsbD_one_shiftLeft (w n i : Nat) : (1#w <<< n).getLsbD i = (decide (i < w) && decide (i = n)) := by
  by_cases h : i < w
  · by_cases e : i = n
    · subst e; simp [h]
    · simp [h, e]; omega
  · simp [h]

/-- Setting or clearing one bit leaves the others. -/
theorem bit_of_ne {w n : Nat} (x : BitVec w) (b : Bool) {i : Nat} (e : i ≠ n) :
    (if b then x ||| (1#w <<< n) else x &&& ~~~(1#w <<< n)).getLsbD i = x.getLsbD i := by
  by_cases h : i < w
  · cases b <;> simp only [Bool.false_eq_true, if_false, if_true, BitVec.getLsbD_and, BitVec.getLsbD_or, BitVec.getLsbD_not,
      getLsbD_one_shiftLeft, e, decide_false, Bool.and_false, Bool.or_false, Bool.not_false, Bool.and_true, h, decide_true]
  · rw [BitVec.getLsbD_of_ge _ _ (by omega), BitVec.getLsbD_of_ge _ _ (by omega)]

/-- What a uniform predicate reads after a write of one. -/
theorem setQ_q (x : Regs) (n : Nat) (b : Bool) (hn : n < 8) (n' : Nat) :
    (x.setQ n b).q n' = if n' = n ∧ n ≠ 7 then b else x.q n' := by
  unfold Regs.setQ
  by_cases h : n = 7
  · simp [h]
  · simp only [h, if_false, Regs.q]
    by_cases e : n' = n
    · subst e
      cases b <;> simp [h, hn]
    · rw [if_neg (show ¬ (n' = n ∧ n ≠ 7) from fun c => e c.1)]
      rw [bit_of_ne _ b e]

/-- What a moment register reads after a write of one. -/
theorem setM_m (x : Regs) (n : Nat) (v : BitVec 128) (n' : Nat) :
    (x.setM n v).m n' = if n' = n then v else x.m n' := by
  simp only [Regs.setM, Regs.m, Store.get_set]

/-! ### Frames -/

theorem RegFrame.refl (m : BitVec 32) (x : Regs) : RegFrame [] m x x :=
  ⟨rfl, rfl, rfl, rfl, rfl, fun _ _ _ _ => ⟨rfl, rfl⟩, fun _ _ _ h => absurd h (List.not_mem_nil)⟩

theorem RegFrame.trans {ds es : List RegRef} {m : BitVec 32} {x y z : Regs} (h : RegFrame ds m x y) (k : RegFrame es m y z) :
    RegFrame (ds ++ es) m x z := by
  obtain ⟨h1, h2, h3, h4, h5, h6, h7⟩ := h
  obtain ⟨k1, k2, k3, k4, k5, k6, k7⟩ := k
  refine ⟨k1.trans h1, k2.trans h2, k3.trans h3, k4.trans h4, k5.trans h5, fun r l hl hr => ?_, fun r l hl hr hp hm => ?_⟩
  · rw [List.mem_append, not_or] at hr
    exact ⟨(k6 r l hl hr.2).1.trans (h6 r l hl hr.1).1, (k6 r l hl hr.2).2.trans (h6 r l hl hr.1).2⟩
  · have e1 : y.read r l = x.read r l := if g : r ∈ ds then h7 r l hl g hp hm else (h6 r l hl g).1
    have e2 : z.read r l = y.read r l := if g : r ∈ es then k7 r l hl g hp hm else (k6 r l hl g).1
    exact e2.trans e1

theorem RegFrame.mono {ds es : List RegRef} {m : BitVec 32} {x y : Regs} (h : RegFrame ds m x y) (k : ∀ r ∈ ds, r ∈ es) :
    RegFrame es m x y := by
  obtain ⟨h1, h2, h3, h4, h5, h6, h7⟩ := h
  refine ⟨h1, h2, h3, h4, h5, fun r l hl hr => h6 r l hl fun c => hr (k r c), fun r l hl hr hp hm => ?_⟩
  exact if g : r ∈ ds then h7 r l hl g hp hm else (h6 r l hl g).1

theorem foldl_putV_eq (ls : List Nat) (x : Regs) (r : Nat) (f : Nat → Word) :
    ∃ a, ls.foldl (fun x l => x.putV r l (f l)) x = { x with vregs := a } := by
  induction ls generalizing x with
  | nil => exact ⟨_, rfl⟩
  | cons l ls ih =>
    obtain ⟨a, h⟩ := ih (x.putV r l (f l))
    rw [List.foldl_cons, h]
    unfold Regs.putV
    split <;> exact ⟨a, rfl⟩

theorem setVFull_isFull (x : Regs) (r : Nat) (b : Bool) {n : Nat} (h : n ≠ r) :
    (x.setVFull r b).isFull (.v n) = x.isFull (.v n) := by
  unfold Regs.setVFull
  split
  · rfl
  · simp only [Regs.isFull, bit_of_ne _ b h]

theorem setKFull_isFull (x : Regs) (r : Nat) (b : Bool) {n : Nat} (h : n ≠ r) :
    (x.setKFull r b).isFull (.k n) = x.isFull (.k n) := by
  unfold Regs.setKFull
  split
  · rfl
  · simp only [Regs.isFull, bit_of_ne _ b h]

theorem setV_eq (x : Regs) (r : Nat) (m : BitVec 32) (f : Nat → Word) :
    ∃ a b, x.setV r m f = { x with vregs := a, vfull := b } := by
  obtain ⟨a, h⟩ := foldl_putV_eq (lanesOf m) x r f
  unfold Regs.setV
  rw [h]
  unfold Regs.setVFull
  split <;> exact ⟨_, _, rfl⟩

theorem setV_isFull (x : Regs) (r : Nat) (m : BitVec 32) (f : Nat → Word) {n : Nat} (h : n ≠ r) :
    (x.setV r m f).isFull (.v n) = x.isFull (.v n) := by
  obtain ⟨a, e⟩ := foldl_putV_eq (lanesOf m) x r f
  unfold Regs.setV
  rw [setVFull_isFull _ _ _ h, e]
  rfl

/-- A write of a vector register, once and for all. -/
theorem setV_frame (x : Regs) (r : Nat) (m : BitVec 32) (f : Nat → Word) : RegFrame [.v r] m x (x.setV r m f) := by
  have hv := @setV_v x r m f
  have hf := @setV_isFull x r m f
  obtain ⟨a, b, e⟩ := setV_eq x r m f
  refine ⟨by rw [e], by rw [e], by rw [e], by rw [e], by rw [e], fun q l hl hq => ?_, fun q l hl hq _ hm => ?_⟩
  · cases q with
    | v n =>
      have hn : n ≠ r := fun c => hq (by simp [c])
      refine ⟨?_, hf hn⟩
      simp only [Regs.read, hv hl]
      rw [if_neg (fun c : n = r ∧ _ => hn c.1)]
    | _ => rw [e]; exact ⟨rfl, rfl⟩
  · have e : q = .v r := by simpa using hq
    subst e
    simp only [Regs.read, hv hl, hm]
    simp

theorem setV2_frame (x : Regs) (r : Nat) (m : BitVec 32) (f : Nat → DWord) :
    RegFrame [.v r, .v (r + 1)] m x (x.setV2 r m f) := (setV_frame x r m _).trans (setV_frame _ (r + 1) m _)

/-- A write of a uniform register. -/
theorem setK_frame (x : Regs) (r : Nat) (m : BitVec 32) (v : Word) : RegFrame [.k r] m x (x.setK r v) := by
  have hv := setK_k x r v
  have e : ∃ a b, x.setK r v = { x with kregs := a, kfull := b } := by
    unfold Regs.setK Regs.setKFull
    split
    · exact ⟨_, _, rfl⟩
    · exact ⟨_, _, rfl⟩
  have hf : ∀ n, n ≠ r → (x.setK r v).isFull (.k n) = x.isFull (.k n) := by
    intro n hn
    unfold Regs.setK
    split
    · rfl
    · rw [setKFull_isFull _ _ _ hn]; rfl
  obtain ⟨a, b, e⟩ := e
  refine ⟨by rw [e], by rw [e], by rw [e], by rw [e], by rw [e], fun q l hl hq => ?_, fun q l hl hq hp _ => ?_⟩
  · cases q with
    | k n =>
      have hn : n ≠ r := fun c => hq (by simp [c])
      refine ⟨?_, hf n hn⟩
      simp only [Regs.read, hv]
      rw [if_neg (fun c : n = r ∧ _ => hn c.1)]
    | _ => rw [e]; exact ⟨rfl, rfl⟩
  · have e : q = .k r := by simpa using hq
    subst e
    cases hp

theorem setK2_frame (x : Regs) (r : Nat) (m : BitVec 32) (v : DWord) : RegFrame [.k r, .k (r + 1)] m x (x.setK2 r v) :=
  (setK_frame x r m _).trans (setK_frame _ (r + 1) m _)

/-- A write of a lane predicate. -/
theorem setP_frame (x : Regs) (n : Nat) (m : BitVec 32) (f : Nat → Bool) : RegFrame [.p n] m x (x.setP n m f) := by
  have hv := @setP_p x n m f
  have e : ∃ a, x.setP n m f = { x with preds := a } := by
    unfold Regs.setP
    split <;> exact ⟨_, rfl⟩
  obtain ⟨a, e⟩ := e
  refine ⟨by rw [e], by rw [e], by rw [e], by rw [e], by rw [e], fun q l hl hq => ?_, fun q l hl hq _ hm => ?_⟩
  · cases q with
    | p k =>
      have hn : k ≠ n := fun c => hq (by simp [c])
      refine ⟨?_, rfl⟩
      simp only [Regs.read, hv hl]
      rw [if_neg (fun c : k = n ∧ _ => hn c.1)]
    | _ => rw [e]; exact ⟨rfl, rfl⟩
  · have e : q = .p n := by simpa using hq
    subst e
    simp only [Regs.read, hv hl, hm]
    simp

/-- A write of a uniform predicate. -/
theorem setQ_frame (x : Regs) (n : Nat) (m : BitVec 32) (b : Bool) (hn : n < 8) : RegFrame [.q n] m x (x.setQ n b) := by
  have hv := setQ_q x n b hn
  have e : ∃ a, x.setQ n b = { x with qpreds := a } := by
    unfold Regs.setQ
    split <;> exact ⟨_, rfl⟩
  obtain ⟨a, e⟩ := e
  refine ⟨by rw [e], by rw [e], by rw [e], by rw [e], by rw [e], fun q l hl hq => ?_, fun q l hl hq hp _ => ?_⟩
  · cases q with
    | q k =>
      have hk : k ≠ n := fun c => hq (by simp [c])
      refine ⟨?_, rfl⟩
      simp only [Regs.read, hv]
      rw [if_neg (fun c : k = n ∧ _ => hk c.1)]
    | _ => rw [e]; exact ⟨rfl, rfl⟩
  · have e : q = .q n := by simpa using hq
    subst e
    cases hp

/-- A write of a moment register. -/
theorem setM_frame (x : Regs) (n : Nat) (m : BitVec 32) (v : BitVec 128) : RegFrame [.m n] m x (x.setM n v) := by
  have hv := setM_m x n v
  refine ⟨rfl, rfl, rfl, rfl, rfl, fun q l hl hq => ?_, fun q l hl hq hp _ => ?_⟩
  · cases q with
    | m k =>
      have hk : k ≠ n := fun c => hq (by simp [c])
      refine ⟨?_, rfl⟩
      simp only [Regs.read, hv]
      rw [if_neg hk]
    | _ => exact ⟨rfl, rfl⟩
  · have e : q = .m n := by simpa using hq
    subst e
    cases hp

/-! ### Depth counters and taking a trap -/

theorem foldl_depth (ls : List Nat) (d : Store Nat) (f : Nat → Nat) (l : Nat) :
    Store.get 0 (ls.foldl (fun d l => Store.set 0 d l (f l)) d) l = if l ∈ ls then f l else Store.get 0 d l := by
  induction ls generalizing d with
  | nil => simp
  | cons a ls ih =>
    rw [List.foldl_cons, ih, Store.get_set]
    by_cases h : l ∈ ls
    · simp [h]
    · by_cases e : l = a <;> simp [e, h]

/-- What a depth counter reads after a write of all of them. -/
theorem mapC_c (x : Regs) (f : Nat → Nat) {l : Nat} (hl : l < 32) : (x.mapC f).c l = f l := by
  simp only [Regs.c, Regs.mapC, foldl_depth, mem_lanes, hl, if_true]
theorem mapC_eq (x : Regs) (f : Nat → Nat) : x.mapC f = { x with depth := (x.mapC f).depth } := rfl

/-- A gang-wide trap of a word that passed its checks, with its record inactive and a handler set (R394). -/
theorem trapTo_advance {i : Instr} {s : State} {c : Ctx} (h : normal i s = some c) (hr : c.record.active = false)
    (ht : c.tvec s ≠ 0) (code cause : Nat) (addr res : DWord) :
    c.trapTo code cause addr res (s.advance c) = (s.advance c).setGang c.gid (c.trapped s code cause addr res) := by
  obtain ⟨o, ho, _⟩ := checked_of_normal h
  obtain ⟨_, _, hg, htm, hco, _⟩ := gang_of_checked ho
  have e2 : (s.advance c).team? c.G.team = some c.T := htm
  have e3 : (s.advance c).tenKey c.T = s.tenKey c.T := rfl
  have e4 : (s.advance c).tenant (s.tenKey c.T) = s.tenant (s.tenKey c.T) := rfl
  have e5 : c.gangPast.team = c.G.team := Gang.setWait_team _ _ _
  have e6 : c.gangPast.tr0 = c.G.tr0 := Gang.setWait_tr0 _ _ _
  have e7 : c.gangPast.tr1 = c.G.tr1 := Gang.setWait_tr1 _ _ _
  unfold Ctx.trapTo State.deliver
  rw [gang_advance]
  simp only [e5, e2, e3, e4, e6, e7]
  unfold Ctx.tvec at ht
  unfold Ctx.record at hr
  unfold Ctx.trapped Ctx.tvec Ctx.gangPast
  cases hs : c.sec <;> simp only [hs, Bool.false_eq_true, if_false, if_true] at hr ⊢ <;>
    rw [if_neg (by simp only [hr, Bool.false_or, decide_eq_true_eq]; exact ht)] <;> rfl

/-! ### Words that only write registers -/

theorem setGang_setGang (s : State) (g : Nat) (x y : Gang) : (s.setGang g x).setGang g y = s.setGang g y := by
  simp [State.setGang, Store.set, Store.insert_insert]

/-- A word that changes its gang's registers only leaves memory as it was. -/
theorem put_memory (s : State) (c : Ctx) (x : Regs) : SameMemory s (s.put c x) := by
  intro a
  simp only [State.put, State.modRegs, State.modGang, gang_advance]
  cases a <;> rfl
/-- Its gang holds the new registers. -/
theorem put_gang (s : State) (c : Ctx) (x : Regs) : (s.put c x).gang? c.gid =
    some { c.gangPast with regs := x } := by
  simp only [State.put, State.modRegs, State.modGang, gang_advance, State.gang?_setGang]

/-- Its registers once it is past the word. -/
theorem gangPast_regs (c : Ctx) : c.gangPast.regs = c.past := Gang.setWait_regs _ _ _
/-- The registers that a word sees after its PC has moved. -/
theorem advance_mod (s : State) (c : Ctx) (f : Regs → Regs) :
    c.mod (s.advance c) f = s.put c (f c.past) := by
  simp only [State.put, Ctx.mod, State.modRegs, State.modGang, gang_advance, gangPast_regs]

theorem advance_self (s : State) (c : Ctx) :
    s.advance c = s.put c c.past := by
  simp only [State.put, State.modRegs, State.modGang, gang_advance, ← gangPast_regs]
  simp only [State.advance, setGang_setGang]

/-- An effect that is done and has written the registers `ds` only. -/
def Wrote (ds : List RegRef) (c : Ctx) (s : State) (r : Res) : Prop :=
  ∃ x, r = .done (s.put c x) ∧ RegFrame ds c.emask c.past x

theorem wrote_mod {ds : List RegRef} {c : Ctx} {s : State} {f : Regs → Regs}
    (h : ∀ x, RegFrame ds c.emask x (f x)) : Wrote ds c s (.done (c.mod (s.advance c) f)) :=
  ⟨_, by rw [advance_mod], h _⟩
theorem wrote_none (c : Ctx) (s : State) : Wrote [] c s (.done (s.advance c)) :=
  ⟨_, by rw [← advance_self], RegFrame.refl _ _⟩
theorem Wrote.mono {ds es : List RegRef} {c : Ctx} {s : State} {r : Res} (h : Wrote ds c s r) (k : ∀ x ∈ ds, x ∈ es) :
    Wrote es c s r := let ⟨x, h1, h2⟩ := h; ⟨x, h1, h2.mono k⟩
theorem wrote_done (ds : List RegRef) (c : Ctx) (s : State) : Wrote ds c s (.done (s.advance c)) :=
  (wrote_none c s).mono fun _ h => absurd h List.not_mem_nil
theorem wrote_putV (c : Ctx) (s : State) (d : RegNum) (f : Nat → Word) :
    Wrote (vDest false d) c s (c.putV (s.advance c) d f) := wrote_mod fun x => setV_frame x _ _ _
theorem wrote_putV2 (c : Ctx) (s : State) (d : RegNum) (f : Nat → DWord) :
    Wrote (vDest true d) c s (c.putV2 (s.advance c) d f) := wrote_mod fun x => setV2_frame x _ _ _
theorem wrote_putK (c : Ctx) (s : State) (d : RegNum) (v : Word) :
    Wrote (kDest false d) c s (c.putK (s.advance c) d v) := wrote_mod fun x => setK_frame x _ _ _
theorem wrote_putK2 (c : Ctx) (s : State) (d : RegNum) (v : DWord) :
    Wrote (kDest true d) c s (c.putK2 (s.advance c) d v) := wrote_mod fun x => setK2_frame x _ _ _
theorem wrote_putP (c : Ctx) (s : State) (p : PredNum) (f : Nat → Bool) :
    Wrote [.p p.toNat] c s (c.putP (s.advance c) p f) := wrote_mod fun x => setP_frame x _ _ _
theorem wrote_putQ (c : Ctx) (s : State) (p : PredNum) (v : Bool) :
    Wrote [.q p.toNat] c s (c.putQ (s.advance c) p v) := wrote_mod fun x => setQ_frame x _ _ _ p.isLt
theorem wrote_putT (c : Ctx) (s : State) (t : IntT) (d : RegNum) (f : Nat → Int) :
    Wrote (vDest t.is64 d) c s (c.putT (s.advance c) t d f) := by
  unfold Ctx.putT
  cases t.is64
  · exact wrote_putV ..
  · exact wrote_putV2 ..
theorem wrote_ifV (c : Ctx) (s : State) (b : Bool) (d : RegNum) (f : Nat → DWord) (g : Nat → Word) :
    Wrote (vDest b d) c s (if b then c.putV2 (s.advance c) d f else c.putV (s.advance c) d g) := by
  cases b
  · exact wrote_putV ..
  · exact wrote_putV2 ..
theorem wrote_ifK (c : Ctx) (s : State) (b : Bool) (d : RegNum) (f : DWord) (g : Word) :
    Wrote (kDest b d) c s (if b then c.putK2 (s.advance c) d f else c.putK (s.advance c) d g) := by
  cases b
  · exact wrote_putK ..
  · exact wrote_putK2 ..
theorem wrote_if (c : Ctx) (s : State) (P : Prop) [Decidable P] (ds : List RegRef) (r : Res) (h : Wrote ds c s r) :
    Wrote ds c s (if P then .done (s.advance c) else r) := by
  split
  · exact wrote_done ..
  · exact h

theorem slot_past (c : Ctx) (b : Bool) : (c.past.slot b).lmask = (c.r.slot b).lmask := by
  unfold Ctx.past Regs.setPc Regs.setSlot Ctx.r Regs.slot
  cases c.sec <;> cases b <;> rfl
theorem past_c (c : Ctx) (l : Nat) : c.past.c l = c.r.c l := by
  unfold Ctx.past Regs.setPc Regs.setSlot Ctx.r Regs.c
  cases c.sec <;> rfl
theorem put_modRegs (s : State) (c : Ctx) (x : Regs) (f : Regs → Regs) : c.mod (s.put c x) f = s.put c (f x) := by
  simp only [State.put, State.modRegs, State.modGang, gang_advance, Ctx.mod, State.gang?_setGang, setGang_setGang]
theorem setPc_past (c : Ctx) (pc : DWord) : c.past.setPc c.sec pc = c.G.regs.setPc c.sec pc := by
  unfold Ctx.past Regs.setPc Regs.setSlot Regs.slot
  cases c.sec <;> rfl
theorem past_wins (c : Ctx) : c.past.wins = c.r.wins ∧ c.past.curs = c.r.curs := by
  unfold Ctx.past Regs.setPc Regs.setSlot Ctx.r; split <;> exact ⟨rfl, rfl⟩

end Sys2Proof.Machine
end

