-- ==== Sys2Proof/Laws/Ops.lean ====
section
/-!
SUPPORT. What each shared operation can do, once: the outcomes of an issue, of a delivered trap, of a message, and
what ending a region leaves.
-/
namespace Sys2Proof.Machine

/-- What the checks stop with: a next state, or the fault for want of a gang to issue. -/
theorem vet_stop {i : Instr} {s : State} {o : Out} (h : vet i s = .stop o) :
    (∃ t, o = .next t) ∨ (o = .fault .noIssuingGang ∧ State.issuing s = false) := by
  unfold vet at h
  split at h
  · rename_i hg; cases h; exact .inr ⟨rfl, by simp only [State.issuing, hg]⟩
  rename_i G hG
  split at h
  · rename_i ht; cases h; exact .inr ⟨rfl, by simp only [State.issuing, hG, ht, Bool.false_and]⟩
  rename_i T hT
  split at h
  · rename_i hc; cases h; exact .inr ⟨rfl, by simp only [State.issuing, hG, hT, hc, Option.isSome_none, Bool.false_and]⟩
  rename_i C hC
  split at h
  · rename_i hv
    cases h
    refine .inr ⟨rfl, ?_⟩
    simp only [State.issuing, hG, hT, hC, Option.isSome_some, Bool.true_and]
    revert hv
    cases G.resident <;> cases (G.regs.slot s.curSec).valid <;> simp
  repeat' (first
    | (cases h; done)
    | (cases h; exact .inl ⟨_, rfl⟩)
    | (simp only [vetPool, vetOpn, vetFlux] at h)
    | split at h)

/-- An issue answers a next state; it stops only for want of a gang to issue. -/
theorem issueF_out (i : Instr) (s : State) (act : FluxAct) (eff : Ctx → State → Res) :
    (∃ t, issueF i s act eff = .next t) ∨ (issueF i s act eff = .fault .noIssuingGang ∧ State.issuing s = false) := by
  unfold issueF
  split
  · rename_i o h; exact vet_stop h
  · split
    · unfold settle; split <;> exact .inl ⟨_, rfl⟩
    · exact .inl ⟨_, rfl⟩
  · exact .inl ⟨_, rfl⟩

/-- A message that has arrived is taken out of the network and acts. -/
theorem receive_of_arrives {e : Ev} {s s1 : State} (h : Arrives e s s1) (f : State → State) : s.receive e f = .next (f s1) := by
  simp only [State.receive, h.2]

/-- A trap of a gang that can take it (R394): its slot's record is filled, its PC is at the handler, and nothing else
changes. -/
theorem deliver_taken {s : State} {g : Nat} {G : Gang} {T : Team} (hg : s.gang? g = some G) (ht : s.team? G.team = some T)
    (sec : Bool) (code cause : Nat) (m : BitVec 32) (pc addr res : DWord) (hr : (if sec then G.tr1 else G.tr0).active = false)
    (hv : (s.tenant (s.tenKey T)).tvec ≠ 0) :
    s.deliver g sec code cause m pc addr res =
      let r : TrapRec := ⟨true, BitVec.ofNat 8 code, BitVec.ofNat 8 cause, m, pc, addr, res⟩
      let H := if sec then { G with tr1 := r } else { G with tr0 := r }
      s.setGang g ({ H with regs := H.regs.setPc sec ((s.tenant (s.tenKey T)).tvec &&& ~~~3) }.setWait sec .ready) := by
  simp only [State.deliver, hg, ht, hr, Bool.false_or, decide_eq_true_eq, if_neg hv]

/-- A trap that the gang cannot take ends its team (R396). -/
theorem deliver_fatal {s : State} {g : Nat} {G : Gang} {T : Team} (hg : s.gang? g = some G) (ht : s.team? G.team = some T)
    (sec : Bool) (code cause : Nat) (m : BitVec 32) (pc addr res : DWord)
    (hr : (if sec then G.tr1 else G.tr0).active = true ∨ (s.tenant (s.tenKey T)).tvec = 0) :
    s.deliver g sec code cause m pc addr res = s.endTeam G.team 1 pc.toNat (code % 256 + 256 * (cause % 256)) := by
  simp only [State.deliver, hg, ht]
  rw [if_pos (by simpa using hr)]

theorem modGangs_rgnOpen (ls : List Nat) (s : State) (g : Nat) (G : Gang) (h : s.gang? g = some G) :
    ∃ b gs, ls.foldl (fun s g => s.modGang g fun g => { g with rgnOpen := false }) s = { s with gangs := gs } ∧
      Store.get none gs g = some { G with rgnOpen := b } := by
  induction ls generalizing s G with
  | nil => exact ⟨G.rgnOpen, s.gangs, rfl, h⟩
  | cons a ls ih =>
    rw [List.foldl_cons]
    have e : ∃ b gs, (s.modGang a fun g => { g with rgnOpen := false }) = { s with gangs := gs } ∧
        Store.get none gs g = some { G with rgnOpen := b } := by
      unfold State.modGang
      split
      · rename_i x hx
        by_cases ha : g = a
        · subst ha
          refine ⟨false, _, rfl, ?_⟩
          rw [Store.get_set_same]
          have := hx.symm.trans h; cases this; rfl
        · refine ⟨G.rgnOpen, _, rfl, ?_⟩
          rw [Store.get_set_other _ _ _ ha]; exact h
      · exact ⟨G.rgnOpen, s.gangs, rfl, h⟩
    obtain ⟨b, gs, e1, e2⟩ := e
    rw [e1]
    obtain ⟨b', gs', f1, f2⟩ := ih { s with gangs := gs } { G with rgnOpen := b } e2
    exact ⟨b', gs', f1, f2⟩

/-- Ending a team's region changes gangs only, and of a gang its open bit only (R371). -/
theorem endRegion_spec (s : State) (t g : Nat) (G : Gang) (h : s.gang? g = some G) :
    ∃ b gs, s.endRegion t = { s with gangs := gs } ∧ Store.get none gs g = some { G with rgnOpen := b } := by
  unfold State.endRegion
  split
  · exact ⟨G.rgnOpen, s.gangs, rfl, h⟩
  · exact modGangs_rgnOpen _ _ _ _ h

end Sys2Proof.Machine
end

