-- ==== Sys2Proof/Laws/PerInstr.lean ====
section
/-!
SUPPORT. The families of LAWS.json: one lemma per constructor of Instr.
-/
namespace Sys2Proof.Laws.Encodes

/-- An instruction without an encoding is an event, and every event is well-formed; a word always has an encoding. -/
def Statement (i : Instr) : Prop := encode i = none → i.WellFormed = true

theorem nop (a0 : Guard) (a1 : Form) : Statement (.nop a0 a1) := fun h => absurd h (by exact nofun)
theorem bra (a0 : Guard) (a1 : Word) : Statement (.bra a0 a1) := fun h => absurd h (by exact nofun)
theorem brx (a0 : Guard) (a1 : Src) : Statement (.brx a0 a1) := fun h => absurd h (by exact nofun)
theorem call (a0 : Guard) (a1 : RegNum) (a2 : Word) : Statement (.call a0 a1 a2) := fun h => absurd h (by exact nofun)
theorem callx (a0 : Guard) (a1 : RegNum) (a2 : Src) : Statement (.callx a0 a1 a2) := fun h => absurd h (by exact nofun)
theorem ret (a0 : Guard) (a1 : Src) (a2 : BitVec 6) : Statement (.ret a0 a1 a2) := fun h => absurd h (by exact nofun)
theorem ifThen (a0 : Bool) (a1 : PredNum) (a2 : Word) : Statement (.ifThen a0 a1 a2) := fun h => absurd h (by exact nofun)
theorem elseDo (a0 : Word) : Statement (.elseDo a0) := fun h => absurd h (by exact nofun)
theorem endIf : Statement (.endIf) := fun h => absurd h (by exact nofun)
theorem loop (a0 : Word) : Statement (.loop a0) := fun h => absurd h (by exact nofun)
theorem brk (a0 : Guard) (a1 : BitVec 6) : Statement (.brk a0 a1) := fun h => absurd h (by exact nofun)
theorem cont (a0 : Guard) (a1 : BitVec 6) : Statement (.cont a0 a1) := fun h => absurd h (by exact nofun)
theorem endLoop (a0 : Word) : Statement (.endLoop a0) := fun h => absurd h (by exact nofun)
theorem exit (a0 : Guard) : Statement (.exit a0) := fun h => absurd h (by exact nofun)
theorem trap (a0 : Guard) (a1 : BitVec 7) : Statement (.trap a0 a1) := fun h => absurd h (by exact nofun)
theorem bpt (a0 : Guard) : Statement (.bpt a0) := fun h => absurd h (by exact nofun)
theorem kmov (a0 : Guard) (a1 : Bool) (a2 : RegNum) (a3 : Src) : Statement (.kmov a0 a1 a2 a3) := fun h => absurd h (by exact nofun)
theorem kli (a0 : Guard) (a1 : Bool) (a2 : RegNum) (a3 : KImm) : Statement (.kli a0 a1 a2 a3) := fun h => by cases a3 <;> exact absurd h nofun
theorem kadd (a0 : Guard) (a1 : Bool) (a2 : RegNum) (a3 : Src) (a4 : SrcI) : Statement (.kadd a0 a1 a2 a3 a4) := fun h => absurd h (by exact nofun)
theorem ksub (a0 : Guard) (a1 : Bool) (a2 : RegNum) (a3 : Src) (a4 : SrcI) : Statement (.ksub a0 a1 a2 a3 a4) := fun h => absurd h (by exact nofun)
theorem kmul (a0 : Guard) (a1 : Bool) (a2 : RegNum) (a3 : Src) (a4 : SrcI) : Statement (.kmul a0 a1 a2 a3 a4) := fun h => absurd h (by exact nofun)
theorem kand (a0 : Guard) (a1 : Bool) (a2 : RegNum) (a3 : Src) (a4 : SrcI) : Statement (.kand a0 a1 a2 a3 a4) := fun h => absurd h (by exact nofun)
theorem kor (a0 : Guard) (a1 : Bool) (a2 : RegNum) (a3 : Src) (a4 : SrcI) : Statement (.kor a0 a1 a2 a3 a4) := fun h => absurd h (by exact nofun)
theorem kxor (a0 : Guard) (a1 : Bool) (a2 : RegNum) (a3 : Src) (a4 : SrcI) : Statement (.kxor a0 a1 a2 a3 a4) := fun h => absurd h (by exact nofun)
theorem kshl (a0 : Guard) (a1 : Bool) (a2 : RegNum) (a3 : Src) (a4 : SrcI) : Statement (.kshl a0 a1 a2 a3 a4) := fun h => absurd h (by exact nofun)
theorem kshr (a0 : Guard) (a1 : Bool) (a2 : RegNum) (a3 : Src) (a4 : SrcI) : Statement (.kshr a0 a1 a2 a3 a4) := fun h => absurd h (by exact nofun)
theorem ksra (a0 : Guard) (a1 : Bool) (a2 : RegNum) (a3 : Src) (a4 : SrcI) : Statement (.ksra a0 a1 a2 a3 a4) := fun h => absurd h (by exact nofun)
theorem kmin (a0 : Guard) (a1 : Bool) (a2 : Bool) (a3 : RegNum) (a4 : Src) (a5 : SrcI) : Statement (.kmin a0 a1 a2 a3 a4 a5) := fun h => absurd h (by exact nofun)
theorem kmax (a0 : Guard) (a1 : Bool) (a2 : Bool) (a3 : RegNum) (a4 : Src) (a5 : SrcI) : Statement (.kmax a0 a1 a2 a3 a4 a5) := fun h => absurd h (by exact nofun)
theorem kcmp (a0 : Guard) (a1 : Rel) (a2 : Bool) (a3 : Bool) (a4 : PredNum) (a5 : Src) (a6 : SrcI) : Statement (.kcmp a0 a1 a2 a3 a4 a5 a6) := fun h => absurd h (by exact nofun)
theorem ksel (a0 : Guard) (a1 : Bool) (a2 : RegNum) (a3 : Src) (a4 : SrcI) (a5 : PredNum) : Statement (.ksel a0 a1 a2 a3 a4 a5) := fun h => absurd h (by exact nofun)
theorem vtok (a0 : Guard) (a1 : Bool) (a2 : RegNum) (a3 : Src) : Statement (.vtok a0 a1 a2 a3) := fun h => absurd h (by exact nofun)
theorem kbc (a0 : Guard) (a1 : Bool) (a2 : RegNum) (a3 : Src) : Statement (.kbc a0 a1 a2 a3) := fun h => absurd h (by exact nofun)
theorem movs (a0 : Guard) (a1 : Bool) (a2 : RegNum) (a3 : Special) : Statement (.movs a0 a1 a2 a3) := fun h => absurd h (by exact nofun)
theorem iadd (a0 : Guard) (a1 : IntT) (a2 : Bool) (a3 : RegNum) (a4 : Src) (a5 : SrcI) : Statement (.iadd a0 a1 a2 a3 a4 a5) := fun h => absurd h (by exact nofun)
theorem isub (a0 : Guard) (a1 : IntT) (a2 : Bool) (a3 : RegNum) (a4 : Src) (a5 : SrcI) : Statement (.isub a0 a1 a2 a3 a4 a5) := fun h => absurd h (by exact nofun)
theorem imul (a0 : Guard) (a1 : IntT) (a2 : MulKind) (a3 : RegNum) (a4 : Src) (a5 : SrcI) : Statement (.imul a0 a1 a2 a3 a4 a5) := fun h => absurd h (by exact nofun)
theorem imad (a0 : Guard) (a1 : IntT) (a2 : Bool) (a3 : RegNum) (a4 : Src) (a5 : SrcI) (a6 : Src) : Statement (.imad a0 a1 a2 a3 a4 a5 a6) := fun h => absurd h (by exact nofun)
theorem idiv (a0 : Guard) (a1 : IntT) (a2 : RegNum) (a3 : Src) (a4 : SrcI) : Statement (.idiv a0 a1 a2 a3 a4) := fun h => absurd h (by exact nofun)
theorem irem (a0 : Guard) (a1 : IntT) (a2 : RegNum) (a3 : Src) (a4 : SrcI) : Statement (.irem a0 a1 a2 a3 a4) := fun h => absurd h (by exact nofun)
theorem imin (a0 : Guard) (a1 : IntT) (a2 : RegNum) (a3 : Src) (a4 : SrcI) : Statement (.imin a0 a1 a2 a3 a4) := fun h => absurd h (by exact nofun)
theorem imax (a0 : Guard) (a1 : IntT) (a2 : RegNum) (a3 : Src) (a4 : SrcI) : Statement (.imax a0 a1 a2 a3 a4) := fun h => absurd h (by exact nofun)
theorem iabs (a0 : Guard) (a1 : IntT) (a2 : Bool) (a3 : RegNum) (a4 : Src) : Statement (.iabs a0 a1 a2 a3 a4) := fun h => absurd h (by exact nofun)
theorem ineg (a0 : Guard) (a1 : IntT) (a2 : Bool) (a3 : RegNum) (a4 : Src) : Statement (.ineg a0 a1 a2 a3 a4) := fun h => absurd h (by exact nofun)
theorem isad (a0 : Guard) (a1 : IntT) (a2 : RegNum) (a3 : Src) (a4 : SrcI) (a5 : Src) : Statement (.isad a0 a1 a2 a3 a4 a5) := fun h => absurd h (by exact nofun)
theorem icmp (a0 : Guard) (a1 : Rel) (a2 : IntT) (a3 : PredNum) (a4 : Src) (a5 : SrcI) : Statement (.icmp a0 a1 a2 a3 a4 a5) := fun h => absurd h (by exact nofun)
theorem isel (a0 : Guard) (a1 : Bool) (a2 : RegNum) (a3 : Src) (a4 : SrcI) (a5 : PredNum) : Statement (.isel a0 a1 a2 a3 a4 a5) := fun h => absurd h (by exact nofun)
theorem and (a0 : Guard) (a1 : Bool) (a2 : RegNum) (a3 : Src) (a4 : SrcI) : Statement (.and a0 a1 a2 a3 a4) := fun h => absurd h (by exact nofun)
theorem or (a0 : Guard) (a1 : Bool) (a2 : RegNum) (a3 : Src) (a4 : SrcI) : Statement (.or a0 a1 a2 a3 a4) := fun h => absurd h (by exact nofun)
theorem xor (a0 : Guard) (a1 : Bool) (a2 : RegNum) (a3 : Src) (a4 : SrcI) : Statement (.xor a0 a1 a2 a3 a4) := fun h => absurd h (by exact nofun)
theorem andn (a0 : Guard) (a1 : Bool) (a2 : RegNum) (a3 : Src) (a4 : SrcI) : Statement (.andn a0 a1 a2 a3 a4) := fun h => absurd h (by exact nofun)
theorem orn (a0 : Guard) (a1 : Bool) (a2 : RegNum) (a3 : Src) (a4 : SrcI) : Statement (.orn a0 a1 a2 a3 a4) := fun h => absurd h (by exact nofun)
theorem xnor (a0 : Guard) (a1 : Bool) (a2 : RegNum) (a3 : Src) (a4 : SrcI) : Statement (.xnor a0 a1 a2 a3 a4) := fun h => absurd h (by exact nofun)
theorem not (a0 : Guard) (a1 : Bool) (a2 : RegNum) (a3 : Src) : Statement (.not a0 a1 a2 a3) := fun h => absurd h (by exact nofun)
theorem tern (a0 : Guard) (a1 : RegNum) (a2 : Src) (a3 : Src) (a4 : Src) (a5 : BitVec 8) : Statement (.tern a0 a1 a2 a3 a4 a5) := fun h => absurd h (by exact nofun)
theorem shl (a0 : Guard) (a1 : Bool) (a2 : RegNum) (a3 : Src) (a4 : SrcI) : Statement (.shl a0 a1 a2 a3 a4) := fun h => absurd h (by exact nofun)
theorem shr (a0 : Guard) (a1 : Bool) (a2 : RegNum) (a3 : Src) (a4 : SrcI) : Statement (.shr a0 a1 a2 a3 a4) := fun h => absurd h (by exact nofun)
theorem sra (a0 : Guard) (a1 : Bool) (a2 : RegNum) (a3 : Src) (a4 : SrcI) : Statement (.sra a0 a1 a2 a3 a4) := fun h => absurd h (by exact nofun)
theorem rot (a0 : Guard) (a1 : Bool) (a2 : Bool) (a3 : RegNum) (a4 : Src) (a5 : SrcI) : Statement (.rot a0 a1 a2 a3 a4 a5) := fun h => absurd h (by exact nofun)
theorem fshl (a0 : Guard) (a1 : RegNum) (a2 : Src) (a3 : Src) (a4 : SrcI) : Statement (.fshl a0 a1 a2 a3 a4) := fun h => absurd h (by exact nofun)
theorem fshr (a0 : Guard) (a1 : RegNum) (a2 : Src) (a3 : Src) (a4 : SrcI) : Statement (.fshr a0 a1 a2 a3 a4) := fun h => absurd h (by exact nofun)
theorem popc (a0 : Guard) (a1 : Bool) (a2 : RegNum) (a3 : Src) : Statement (.popc a0 a1 a2 a3) := fun h => absurd h (by exact nofun)
theorem clz (a0 : Guard) (a1 : Bool) (a2 : RegNum) (a3 : Src) : Statement (.clz a0 a1 a2 a3) := fun h => absurd h (by exact nofun)
theorem ctz (a0 : Guard) (a1 : Bool) (a2 : RegNum) (a3 : Src) : Statement (.ctz a0 a1 a2 a3) := fun h => absurd h (by exact nofun)
theorem brev (a0 : Guard) (a1 : Bool) (a2 : RegNum) (a3 : Src) : Statement (.brev a0 a1 a2 a3) := fun h => absurd h (by exact nofun)
theorem bfx (a0 : Guard) (a1 : Bool) (a2 : RegNum) (a3 : Src) (a4 : SrcI) : Statement (.bfx a0 a1 a2 a3 a4) := fun h => absurd h (by exact nofun)
theorem bfi (a0 : Guard) (a1 : RegNum) (a2 : Src) (a3 : SrcI) (a4 : Src) : Statement (.bfi a0 a1 a2 a3 a4) := fun h => absurd h (by exact nofun)
theorem bmsk (a0 : Guard) (a1 : RegNum) (a2 : SrcI) : Statement (.bmsk a0 a1 a2) := fun h => absurd h (by exact nofun)
theorem permb (a0 : Guard) (a1 : RegNum) (a2 : Src) (a3 : Src) (a4 : SrcI) : Statement (.permb a0 a1 a2 a3 a4) := fun h => absurd h (by exact nofun)
theorem lea (a0 : Guard) (a1 : Bool) (a2 : Bool) (a3 : BitVec 3) (a4 : RegNum) (a5 : Src) (a6 : SrcI) : Statement (.lea a0 a1 a2 a3 a4 a5 a6) := fun h => absurd h (by exact nofun)
theorem padd (a0 : Guard) (a1 : Bool) (a2 : Bool) (a3 : Bool) (a4 : RegNum) (a5 : Src) (a6 : SrcI) : Statement (.padd a0 a1 a2 a3 a4 a5 a6) := fun h => absurd h (by exact nofun)
theorem psub (a0 : Guard) (a1 : Bool) (a2 : Bool) (a3 : Bool) (a4 : RegNum) (a5 : Src) (a6 : SrcI) : Statement (.psub a0 a1 a2 a3 a4 a5 a6) := fun h => absurd h (by exact nofun)
theorem pmul (a0 : Guard) (a1 : Bool) (a2 : Bool) (a3 : Bool) (a4 : RegNum) (a5 : Src) (a6 : SrcI) : Statement (.pmul a0 a1 a2 a3 a4 a5 a6) := fun h => absurd h (by exact nofun)
theorem pmin (a0 : Guard) (a1 : Bool) (a2 : Bool) (a3 : RegNum) (a4 : Src) (a5 : SrcI) : Statement (.pmin a0 a1 a2 a3 a4 a5) := fun h => absurd h (by exact nofun)
theorem pmax (a0 : Guard) (a1 : Bool) (a2 : Bool) (a3 : RegNum) (a4 : Src) (a5 : SrcI) : Statement (.pmax a0 a1 a2 a3 a4 a5) := fun h => absurd h (by exact nofun)
theorem pavg (a0 : Guard) (a1 : Bool) (a2 : Bool) (a3 : RegNum) (a4 : Src) (a5 : SrcI) : Statement (.pavg a0 a1 a2 a3 a4 a5) := fun h => absurd h (by exact nofun)
theorem pshl (a0 : Guard) (a1 : Bool) (a2 : RegNum) (a3 : Src) (a4 : SrcI) : Statement (.pshl a0 a1 a2 a3 a4) := fun h => absurd h (by exact nofun)
theorem pshr (a0 : Guard) (a1 : Bool) (a2 : RegNum) (a3 : Src) (a4 : SrcI) : Statement (.pshr a0 a1 a2 a3 a4) := fun h => absurd h (by exact nofun)
theorem psra (a0 : Guard) (a1 : Bool) (a2 : RegNum) (a3 : Src) (a4 : SrcI) : Statement (.psra a0 a1 a2 a3 a4) := fun h => absurd h (by exact nofun)
theorem pcmp (a0 : Guard) (a1 : Rel) (a2 : Bool) (a3 : Bool) (a4 : RegNum) (a5 : Src) (a6 : SrcI) : Statement (.pcmp a0 a1 a2 a3 a4 a5 a6) := fun h => absurd h (by exact nofun)
theorem drawc (a0 : Guard) (a1 : Src) (a2 : SrcI) : Statement (.drawc a0 a1 a2) := fun h => absurd h (by exact nofun)
theorem draw (a0 : Guard) (a1 : RegNum) (a2 : Src) (a3 : SrcI) : Statement (.draw a0 a1 a2 a3) := fun h => absurd h (by exact nofun)
theorem mov (a0 : Guard) (a1 : Bool) (a2 : RegNum) (a3 : MovSrc) : Statement (.mov a0 a1 a2 a3) := fun h => by cases a3 <;> exact absurd h nofun
theorem fadd (a0 : Guard) (a1 : Rm) (a2 : RegNum) (a3 : Src) (a4 : SrcI) : Statement (.fadd a0 a1 a2 a3 a4) := fun h => absurd h (by exact nofun)
theorem fsub (a0 : Guard) (a1 : Rm) (a2 : RegNum) (a3 : Src) (a4 : SrcI) : Statement (.fsub a0 a1 a2 a3 a4) := fun h => absurd h (by exact nofun)
theorem fmul (a0 : Guard) (a1 : Rm) (a2 : RegNum) (a3 : Src) (a4 : SrcI) : Statement (.fmul a0 a1 a2 a3 a4) := fun h => absurd h (by exact nofun)
theorem ffma (a0 : Guard) (a1 : Rm) (a2 : RegNum) (a3 : Src) (a4 : SrcI) (a5 : Src) : Statement (.ffma a0 a1 a2 a3 a4 a5) := fun h => absurd h (by exact nofun)
theorem fdiv (a0 : Guard) (a1 : Rm) (a2 : RegNum) (a3 : Src) (a4 : SrcI) : Statement (.fdiv a0 a1 a2 a3 a4) := fun h => absurd h (by exact nofun)
theorem fmin (a0 : Guard) (a1 : Bool) (a2 : RegNum) (a3 : Src) (a4 : SrcI) : Statement (.fmin a0 a1 a2 a3 a4) := fun h => absurd h (by exact nofun)
theorem fmax (a0 : Guard) (a1 : Bool) (a2 : RegNum) (a3 : Src) (a4 : SrcI) : Statement (.fmax a0 a1 a2 a3 a4) := fun h => absurd h (by exact nofun)
theorem fcmp (a0 : Guard) (a1 : FRel) (a2 : Bool) (a3 : PredNum) (a4 : Src) (a5 : SrcI) : Statement (.fcmp a0 a1 a2 a3 a4 a5) := fun h => absurd h (by exact nofun)
theorem fclass (a0 : Guard) (a1 : RegNum) (a2 : Src) : Statement (.fclass a0 a1 a2) := fun h => absurd h (by exact nofun)
theorem frcp (a0 : Guard) (a1 : Rm) (a2 : RegNum) (a3 : Src) : Statement (.frcp a0 a1 a2 a3) := fun h => absurd h (by exact nofun)
theorem frsq (a0 : Guard) (a1 : RegNum) (a2 : Src) : Statement (.frsq a0 a1 a2) := fun h => absurd h (by exact nofun)
theorem fsqrt (a0 : Guard) (a1 : Rm) (a2 : RegNum) (a3 : Src) : Statement (.fsqrt a0 a1 a2 a3) := fun h => absurd h (by exact nofun)
theorem fexp2 (a0 : Guard) (a1 : RegNum) (a2 : Src) : Statement (.fexp2 a0 a1 a2) := fun h => absurd h (by exact nofun)
theorem flog2 (a0 : Guard) (a1 : RegNum) (a2 : Src) : Statement (.flog2 a0 a1 a2) := fun h => absurd h (by exact nofun)
theorem fsin (a0 : Guard) (a1 : RegNum) (a2 : Src) : Statement (.fsin a0 a1 a2) := fun h => absurd h (by exact nofun)
theorem fcos (a0 : Guard) (a1 : RegNum) (a2 : Src) : Statement (.fcos a0 a1 a2) := fun h => absurd h (by exact nofun)
theorem ftanh (a0 : Guard) (a1 : RegNum) (a2 : Src) : Statement (.ftanh a0 a1 a2) := fun h => absurd h (by exact nofun)
theorem xadd2 (a0 : Guard) (a1 : Bool) (a2 : Rm) (a3 : RegNum) (a4 : Src) (a5 : SrcI) : Statement (.xadd2 a0 a1 a2 a3 a4 a5) := fun h => absurd h (by exact nofun)
theorem xmul2 (a0 : Guard) (a1 : Bool) (a2 : Rm) (a3 : RegNum) (a4 : Src) (a5 : SrcI) : Statement (.xmul2 a0 a1 a2 a3 a4 a5) := fun h => absurd h (by exact nofun)
theorem xfma2 (a0 : Guard) (a1 : Bool) (a2 : Rm) (a3 : RegNum) (a4 : Src) (a5 : SrcI) (a6 : Src) : Statement (.xfma2 a0 a1 a2 a3 a4 a5 a6) := fun h => absurd h (by exact nofun)
theorem cvtfi (a0 : Guard) (a1 : CvtT) (a2 : Rm) (a3 : RegNum) (a4 : Src) : Statement (.cvtfi a0 a1 a2 a3 a4) := fun h => absurd h (by exact nofun)
theorem cvtif (a0 : Guard) (a1 : CvtT) (a2 : Rm) (a3 : RegNum) (a4 : Src) : Statement (.cvtif a0 a1 a2 a3 a4) := fun h => absurd h (by exact nofun)
theorem cvtff (a0 : Guard) (a1 : NFmt) (a2 : Rm) (a3 : Bool) (a4 : RegNum) (a5 : Src) (a6 : Src) : Statement (.cvtff a0 a1 a2 a3 a4 a5 a6) := fun h => absurd h (by exact nofun)
theorem cvtffWide (a0 : Guard) (a1 : NFmt) (a2 : BitVec 3) (a3 : RegNum) (a4 : Src) : Statement (.cvtffWide a0 a1 a2 a3 a4) := fun h => absurd h (by exact nofun)
theorem cvtbk (a0 : Guard) (a1 : SxFmt) (a2 : Rm) (a3 : Bool) (a4 : RegNum) (a5 : Src) : Statement (.cvtbk a0 a1 a2 a3 a4 a5) := fun h => absurd h (by exact nofun)
theorem cvtbkWide (a0 : Guard) (a1 : SxFmt) (a2 : RegNum) (a3 : Src) : Statement (.cvtbkWide a0 a1 a2 a3) := fun h => absurd h (by exact nofun)
theorem fscale (a0 : Guard) (a1 : Rm) (a2 : RegNum) (a3 : Src) (a4 : SrcI) : Statement (.fscale a0 a1 a2 a3 a4) := fun h => absurd h (by exact nofun)
theorem fround (a0 : Guard) (a1 : Rm) (a2 : RegNum) (a3 : Src) : Statement (.fround a0 a1 a2 a3) := fun h => absurd h (by exact nofun)
theorem ffrac (a0 : Guard) (a1 : Rm) (a2 : RegNum) (a3 : Src) : Statement (.ffrac a0 a1 a2 a3) := fun h => absurd h (by exact nofun)
theorem shfl (a0 : Guard) (a1 : ShflMode) (a2 : BitVec 3) (a3 : RegNum) (a4 : Src) (a5 : SrcI) (a6 : PredNum) : Statement (.shfl a0 a1 a2 a3 a4 a5 a6) := fun h => absurd h (by exact nofun)
theorem vote (a0 : Guard) (a1 : VoteKind) (a2 : Bool) (a3 : Bool) (a4 : RegNum) (a5 : PredNum) : Statement (.vote a0 a1 a2 a3 a4 a5) := fun h => absurd h (by exact nofun)
theorem lred (a0 : Guard) (a1 : RedOp) (a2 : Bool) (a3 : RegNum) (a4 : Src) : Statement (.lred a0 a1 a2 a3 a4) := fun h => absurd h (by exact nofun)
theorem lscan (a0 : Guard) (a1 : RedOp) (a2 : Bool) (a3 : RegNum) (a4 : Src) : Statement (.lscan a0 a1 a2 a3 a4) := fun h => absurd h (by exact nofun)
theorem lmatch (a0 : Guard) (a1 : Bool) (a2 : Bool) (a3 : RegNum) (a4 : Src) : Statement (.lmatch a0 a1 a2 a3 a4) := fun h => absurd h (by exact nofun)
theorem momz (a0 : Guard) (a1 : MomNum) : Statement (.momz a0 a1) := fun h => absurd h (by exact nofun)
theorem momu (a0 : Guard) (a1 : MomNum) (a2 : Src) : Statement (.momu a0 a1 a2) := fun h => absurd h (by exact nofun)
theorem momw (a0 : Guard) (a1 : MomNum) (a2 : Src) (a3 : SrcI) : Statement (.momw a0 a1 a2 a3) := fun h => absurd h (by exact nofun)
theorem momm (a0 : Guard) (a1 : MomNum) (a2 : MomNum) (a3 : MomNum) : Statement (.momm a0 a1 a2 a3) := fun h => absurd h (by exact nofun)
theorem momd (a0 : Guard) (a1 : MomdKind) (a2 : RegNum) (a3 : MomNum) : Statement (.momd a0 a1 a2 a3) := fun h => by cases a1 <;> exact absurd h nofun
theorem momn (a0 : Guard) (a1 : RegNum) (a2 : Src) (a3 : MomNum) (a4 : SrcI) : Statement (.momn a0 a1 a2 a3 a4) := fun h => absurd h (by exact nofun)
theorem momld (a0 : Guard) (a1 : MomNum) (a2 : Src) (a3 : Word) : Statement (.momld a0 a1 a2 a3) := fun h => absurd h (by exact nofun)
theorem momst (a0 : Guard) (a1 : Src) (a2 : MomNum) (a3 : Word) : Statement (.momst a0 a1 a2 a3) := fun h => absurd h (by exact nofun)
theorem momq (a0 : Guard) (a1 : MomqField) (a2 : Bool) (a3 : RegNum) (a4 : MomNum) : Statement (.momq a0 a1 a2 a3 a4) := fun h => absurd h (by exact nofun)
theorem ld (a0 : Guard) (a1 : MemT) (a2 : RegNum) (a3 : Base) (a4 : MOff) (a5 : Option PredNum) : Statement (.ld a0 a1 a2 a3 a4 a5) := fun h => by cases a5 <;> exact absurd h nofun
theorem st (a0 : Guard) (a1 : MemT) (a2 : Base) (a3 : MOff) (a4 : Src) : Statement (.st a0 a1 a2 a3 a4) := fun h => absurd h (by exact nofun)
theorem ldk (a0 : Guard) (a1 : MemT) (a2 : RegNum) (a3 : Src) (a4 : MOff) : Statement (.ldk a0 a1 a2 a3 a4) := fun h => absurd h (by exact nofun)
theorem stk (a0 : Guard) (a1 : MemT) (a2 : Src) (a3 : MOff) (a4 : Src) : Statement (.stk a0 a1 a2 a3 a4) := fun h => absurd h (by exact nofun)
theorem pft (a0 : Guard) (a1 : Bool) (a2 : Base) (a3 : MOff) : Statement (.pft a0 a1 a2 a3) := fun h => absurd h (by exact nofun)
theorem pgreq (a0 : Guard) (a1 : PredNum) (a2 : Base) (a3 : Option Word) : Statement (.pgreq a0 a1 a2 a3) := fun h => absurd h (by exact nofun)
theorem xlat (a0 : Guard) (a1 : Bool) (a2 : RegNum) (a3 : Base) (a4 : Option Word) : Statement (.xlat a0 a1 a2 a3 a4) := fun h => absurd h (by exact nofun)
theorem cctlIinv (a0 : Guard) (a1 : Src) (a2 : Src) (a3 : Option Word) : Statement (.cctlIinv a0 a1 a2 a3) := fun h => absurd h (by exact nofun)
theorem cctlL1wb (a0 : Guard) (a1 : Src) (a2 : Src) (a3 : Option Word) : Statement (.cctlL1wb a0 a1 a2 a3) := fun h => absurd h (by exact nofun)
theorem cctlL1inv (a0 : Guard) (a1 : Src) (a2 : Src) (a3 : Option Word) : Statement (.cctlL1inv a0 a1 a2 a3) := fun h => absurd h (by exact nofun)
theorem cctlL2evict (a0 : Guard) (a1 : Src) (a2 : Src) (a3 : Option Word) : Statement (.cctlL2evict a0 a1 a2 a3) := fun h => absurd h (by exact nofun)
theorem pin (a0 : Guard) (a1 : RegNum) (a2 : Src) (a3 : Src) (a4 : Option Word) : Statement (.pin a0 a1 a2 a3 a4) := fun h => absurd h (by exact nofun)
theorem unpin (a0 : Guard) (a1 : RegNum) (a2 : Src) (a3 : Src) (a4 : Option Word) : Statement (.unpin a0 a1 a2 a3 a4) := fun h => absurd h (by exact nofun)
theorem atom (a0 : Guard) (a1 : AtomOp) (a2 : IntT) (a3 : RegNum) (a4 : Base) (a5 : MOff) (a6 : Src) : Statement (.atom a0 a1 a2 a3 a4 a5 a6) := fun h => absurd h (by exact nofun)
theorem acas (a0 : Guard) (a1 : Bool) (a2 : RegNum) (a3 : Base) (a4 : MOff) (a5 : Src) (a6 : Src) : Statement (.acas a0 a1 a2 a3 a4 a5 a6) := fun h => absurd h (by exact nofun)
theorem afadd (a0 : Guard) (a1 : FaddT) (a2 : RegNum) (a3 : Base) (a4 : MOff) (a5 : Src) : Statement (.afadd a0 a1 a2 a3 a4 a5) := fun h => absurd h (by exact nofun)
theorem ared (a0 : Guard) (a1 : AredOp) (a2 : Base) (a3 : MOff) (a4 : Src) : Statement (.ared a0 a1 a2 a3 a4) := fun h => absurd h (by exact nofun)
theorem fence (a0 : Guard) (a1 : FenceOrd) (a2 : Scope) : Statement (.fence a0 a1 a2) := fun h => absurd h (by exact nofun)
theorem xfence (a0 : Guard) : Statement (.xfence a0) := fun h => absurd h (by exact nofun)
theorem waitln (a0 : Guard) (a1 : Rel) (a2 : Bool) (a3 : Bool) (a4 : PredNum) (a5 : Base) (a6 : Src) (a7 : Word) (a8 : BitVec 16) (a9 : Scope) (a10 : Order) : Statement (.waitln a0 a1 a2 a3 a4 a5 a6 a7 a8 a9 a10) := fun h => absurd h (by exact nofun)
theorem cwb (a0 : Guard) (a1 : Bool) (a2 : Base) (a3 : Option Word) : Statement (.cwb a0 a1 a2 a3) := fun h => absurd h (by exact nofun)
theorem cpub (a0 : Guard) (a1 : Base) (a2 : Option Word) : Statement (.cpub a0 a1 a2) := fun h => absurd h (by exact nofun)
theorem tkq (a0 : Guard) (a1 : RegNum) (a2 : Base) (a3 : Option Word) : Statement (.tkq a0 a1 a2 a3) := fun h => absurd h (by exact nofun)
theorem bias (a0 : Guard) (a1 : Bool) (a2 : RegNum) (a3 : Src) (a4 : Src) (a5 : Option Word) : Statement (.bias a0 a1 a2 a3 a4 a5) := fun h => absurd h (by exact nofun)
theorem cpy (a0 : Guard) (a1 : CFmt) (a2 : Planes) (a3 : Bool) (a4 : Rm) (a5 : Bool) (a6 : BitVec 4) (a7 : Src) (a8 : Src) (a9 : Src) (a10 : Word) (a11 : PolOv) : Statement (.cpy a0 a1 a2 a3 a4 a5 a6 a7 a8 a9 a10 a11) := fun h => absurd h (by exact nofun)
theorem cpyg (a0 : Guard) (a1 : CFmt) (a2 : Rm) (a3 : Bool) (a4 : BitVec 4) (a5 : Src) (a6 : Src) (a7 : Src) (a8 : PolOv) : Statement (.cpyg a0 a1 a2 a3 a4 a5 a6 a7 a8) := fun h => absurd h (by exact nofun)
theorem cpys (a0 : Guard) (a1 : CFmt) (a2 : Rm) (a3 : Bool) (a4 : BitVec 4) (a5 : Src) (a6 : Src) (a7 : Src) (a8 : Word) (a9 : PolOv) : Statement (.cpys a0 a1 a2 a3 a4 a5 a6 a7 a8 a9) := fun h => absurd h (by exact nofun)
theorem cpyw (a0 : Guard) (a1 : Bool) (a2 : RegNum) (a3 : SrcI) : Statement (.cpyw a0 a1 a2 a3) := fun h => absurd h (by exact nofun)
theorem cpyq (a0 : Guard) (a1 : CpyQ) (a2 : RegNum) (a3 : SrcI) : Statement (.cpyq a0 a1 a2 a3) := fun h => absurd h (by exact nofun)
theorem cpyqClr (a0 : Guard) (a1 : RegNum) (a2 : SrcI) : Statement (.cpyqClr a0 a1 a2) := fun h => absurd h (by exact nofun)
theorem mma (a0 : Guard) (a1 : Planes) (a2 : TileNum) (a3 : Src) (a4 : Src) (a5 : Option Src) : Statement (.mma a0 a1 a2 a3 a4 a5) := fun h => by cases a5 <;> exact absurd h nofun
theorem mloop (a0 : Guard) (a1 : Planes) (a2 : TileNum) (a3 : Src) (a4 : Src) (a5 : Option Src) (a6 : BitVec 6) (a7 : BitVec 16) (a8 : BitVec 16) (a9 : BitVec 16) : Statement (.mloop a0 a1 a2 a3 a4 a5 a6 a7 a8 a9) := fun h => by cases a5 <;> exact absurd h nofun
theorem acz (a0 : Guard) (a1 : TileNum) (a2 : BitVec 6) : Statement (.acz a0 a1 a2) := fun h => absurd h (by exact nofun)
theorem acld (a0 : Guard) (a1 : TileNum) (a2 : Src) (a3 : Word) (a4 : BitVec 16) : Statement (.acld a0 a1 a2 a3 a4) := fun h => absurd h (by exact nofun)
theorem acdr (a0 : Guard) (a1 : TileNum) (a2 : Src) (a3 : Option Src) (a4 : Option Src) (a5 : Bool) (a6 : Bool) (a7 : Bool) (a8 : Word) (a9 : BitVec 16) : Statement (.acdr a0 a1 a2 a3 a4 a5 a6 a7 a8 a9) := fun h => absurd h (by exact nofun)
theorem mwait (a0 : Guard) (a1 : RegNum) (a2 : SrcI) : Statement (.mwait a0 a1 a2) := fun h => absurd h (by exact nofun)
theorem bar (a0 : Guard) : Statement (.bar a0) := fun h => absurd h (by exact nofun)
theorem cbar (a0 : Guard) (a1 : SrcI) : Statement (.cbar a0 a1) := fun h => absurd h (by exact nofun)
theorem arv (a0 : Guard) (a1 : RegNum) (a2 : Option SrcI) : Statement (.arv a0 a1 a2) := fun h => by cases a2 <;> exact absurd h nofun
theorem awt (a0 : Guard) (a1 : Src) (a2 : Option SrcI) : Statement (.awt a0 a1 a2) := fun h => by cases a2 <;> exact absurd h nofun
theorem sput (a0 : Guard) (a1 : SrcI) : Statement (.sput a0 a1) := fun h => absurd h (by exact nofun)
theorem sget (a0 : Guard) (a1 : SrcI) : Statement (.sget a0 a1) := fun h => absurd h (by exact nofun)
theorem swait (a0 : Guard) (a1 : Bool) (a2 : SrcI) : Statement (.swait a0 a1 a2) := fun h => absurd h (by exact nofun)
theorem marke (a0 : Guard) (a1 : Bool) (a2 : RegNum) (a3 : BitVec 6) (a4 : Option Src) : Statement (.marke a0 a1 a2 a3 a4) := fun h => by cases a4 <;> exact absurd h nofun
theorem markf (a0 : Guard) (a1 : Bool) (a2 : RegNum) (a3 : BitVec 6) (a4 : Option Src) : Statement (.markf a0 a1 a2 a3 a4) := fun h => by cases a4 <;> exact absurd h nofun
theorem feq (a0 : Guard) (a1 : Bool) (a2 : RegNum) (a3 : RegNum) (a4 : BitVec 5) : Statement (.feq a0 a1 a2 a3 a4) := fun h => absurd h (by exact nofun)
theorem rstv (a0 : Guard) (a1 : Bool) (a2 : Src) (a3 : Src) (a4 : Option (Word × Bool)) : Statement (.rstv a0 a1 a2 a3 a4) := fun h => by cases a4 <;> exact absurd h nofun
theorem rstk (a0 : Guard) (a1 : Bool) (a2 : Bool) (a3 : Src) (a4 : Src) (a5 : Option Bool) : Statement (.rstk a0 a1 a2 a3 a4 a5) := fun h => by cases a5 <;> exact absurd h nofun
theorem rsig (a0 : Guard) (a1 : Bool) (a2 : Bool) (a3 : Src) (a4 : Option Bool) : Statement (.rsig a0 a1 a2 a3 a4) := fun h => by cases a4 <;> exact absurd h nofun
theorem chq (a0 : Guard) (a1 : Bool) (a2 : RegNum) (a3 : SrcI) : Statement (.chq a0 a1 a2 a3) := fun h => absurd h (by exact nofun)
theorem chqClr (a0 : Guard) (a1 : RegNum) (a2 : SrcI) : Statement (.chqClr a0 a1 a2) := fun h => absurd h (by exact nofun)
theorem chgive (a0 : Guard) (a1 : BitVec 6) (a2 : BitVec 3) (a3 : RegNum) (a4 : Src) (a5 : Src) : Statement (.chgive a0 a1 a2 a3 a4 a5) := fun h => absurd h (by exact nofun)
theorem chgiveRev (a0 : Guard) (a1 : BitVec 6) (a2 : RegNum) (a3 : Src) : Statement (.chgiveRev a0 a1 a2 a3) := fun h => absurd h (by exact nofun)
theorem hmqTeam (a0 : Guard) (a1 : RegNum) (a2 : SrcI) : Statement (.hmqTeam a0 a1 a2) := fun h => absurd h (by exact nofun)
theorem hmqLive (a0 : Guard) (a1 : RegNum) (a2 : SrcI) : Statement (.hmqLive a0 a1 a2) := fun h => absurd h (by exact nofun)
theorem coll (a0 : Guard) (a1 : RegNum) (a2 : Src) (a3 : Option Word) : Statement (.coll a0 a1 a2 a3) := fun h => absurd h (by exact nofun)
theorem collw (a0 : Guard) (a1 : Bool) (a2 : RegNum) (a3 : SrcI) : Statement (.collw a0 a1 a2 a3) := fun h => absurd h (by exact nofun)
theorem collq (a0 : Guard) (a1 : CollQ) (a2 : RegNum) (a3 : SrcI) : Statement (.collq a0 a1 a2 a3) := fun h => absurd h (by exact nofun)
theorem rcpy (a0 : Guard) (a1 : BitVec 3) (a2 : Src) (a3 : Src) (a4 : Src) (a5 : Word) (a6 : PolOv) : Statement (.rcpy a0 a1 a2 a3 a4 a5 a6) := fun h => absurd h (by exact nofun)
theorem rcpyw (a0 : Guard) (a1 : Bool) (a2 : Bool) (a3 : RegNum) (a4 : SrcI) : Statement (.rcpyw a0 a1 a2 a3 a4) := fun h => absurd h (by exact nofun)
theorem launch (a0 : Guard) (a1 : RegNum) (a2 : Src) (a3 : Option Word) : Statement (.launch a0 a1 a2 a3) := fun h => by cases a3 <;> exact absurd h nofun
theorem lwait (a0 : Guard) (a1 : Bool) (a2 : RegNum) (a3 : Src) : Statement (.lwait a0 a1 a2 a3) := fun h => absurd h (by exact nofun)
theorem lqry (a0 : Guard) (a1 : Lqry) (a2 : RegNum) (a3 : Src) : Statement (.lqry a0 a1 a2 a3) := fun h => absurd h (by exact nofun)
theorem yield (a0 : Guard) : Statement (.yield a0) := fun h => absurd h (by exact nofun)
theorem sleep (a0 : Guard) (a1 : SrcI) : Statement (.sleep a0 a1) := fun h => absurd h (by exact nofun)
theorem rgn (a0 : Guard) : Statement (.rgn a0) := fun h => absurd h (by exact nofun)
theorem rgnx (a0 : Guard) : Statement (.rgnx a0) := fun h => absurd h (by exact nofun)
theorem tmig (a0 : Guard) (a1 : RegNum) (a2 : SrcI) : Statement (.tmig a0 a1 a2) := fun h => absurd h (by exact nofun)
theorem flxcfg (a0 : Guard) (a1 : Bool) (a2 : RegNum) (a3 : SrcI) : Statement (.flxcfg a0 a1 a2 a3) := fun h => absurd h (by exact nofun)
theorem flxq (a0 : Guard) (a1 : FlxSel) (a2 : Bool) (a3 : RegNum) : Statement (.flxq a0 a1 a2 a3) := fun h => absurd h (by exact nofun)
theorem sysc (a0 : Guard) (a1 : BitVec 7) : Statement (.sysc a0 a1) := fun h => absurd h (by exact nofun)
theorem rte (a0 : Guard) : Statement (.rte a0) := fun h => absurd h (by exact nofun)
theorem mfs (a0 : Guard) (a1 : Bool) (a2 : RegNum) (a3 : BitVec 16) : Statement (.mfs a0 a1 a2 a3) := fun h => absurd h (by exact nofun)
theorem mts (a0 : Guard) (a1 : Bool) (a2 : Src) (a3 : BitVec 16) : Statement (.mts a0 a1 a2 a3) := fun h => absurd h (by exact nofun)
theorem pwstatReopen (a0 : Guard) (a1 : Src) : Statement (.pwstatReopen a0 a1) := fun h => absurd h (by exact nofun)
theorem elhdWrite (a0 : Guard) (a1 : Src) : Statement (.elhdWrite a0 a1) := fun h => absurd h (by exact nofun)
theorem tlbiRange (a0 : Guard) (a1 : Src) (a2 : Src) : Statement (.tlbiRange a0 a1 a2) := fun h => absurd h (by exact nofun)
theorem tlbiAll (a0 : Guard) : Statement (.tlbiAll a0) := fun h => absurd h (by exact nofun)
theorem ctxsv (a0 : Guard) (a1 : RegNum) (a2 : Src) : Statement (.ctxsv a0 a1 a2) := fun h => absurd h (by exact nofun)
theorem ctxld (a0 : Guard) (a1 : RegNum) (a2 : Src) : Statement (.ctxld a0 a1 a2) := fun h => absurd h (by exact nofun)
theorem intr (a0 : Guard) (a1 : RegNum) (a2 : SrcI) : Statement (.intr a0 a1 a2) := fun h => absurd h (by exact nofun)
theorem halt (a0 : Guard) (a1 : RegNum) (a2 : Src) : Statement (.halt a0 a1 a2) := fun h => absurd h (by exact nofun)
theorem prio (a0 : Guard) (a1 : RegNum) (a2 : Src) (a3 : SrcI) : Statement (.prio a0 a1 a2 a3) := fun h => absurd h (by exact nofun)
theorem chset (a0 : Guard) (a1 : BitVec 6) (a2 : RegNum) (a3 : Src) (a4 : Src) : Statement (.chset a0 a1 a2 a3 a4) := fun h => absurd h (by exact nofun)
theorem timeNow (a0 : Guard) (a1 : RegNum) : Statement (.timeNow a0 a1) := fun h => absurd h (by exact nofun)
theorem timeSkew (a0 : Guard) (a1 : RegNum) : Statement (.timeSkew a0 a1) := fun h => absurd h (by exact nofun)
theorem cycClk (a0 : Guard) (a1 : RegNum) : Statement (.cycClk a0 a1) := fun h => absurd h (by exact nofun)
theorem cycFreq (a0 : Guard) (a1 : RegNum) : Statement (.cycFreq a0 a1) := fun h => absurd h (by exact nofun)
theorem cycSteps (a0 : Guard) (a1 : RegNum) : Statement (.cycSteps a0 a1) := fun h => absurd h (by exact nofun)
theorem tsnd (a0 : Guard) (a1 : RegNum) (a2 : BitVec 3) (a3 : Src) (a4 : Src) (a5 : Src) (a6 : Word) (a7 : PolOv) : Statement (.tsnd a0 a1 a2 a3 a4 a5 a6 a7) := fun h => absurd h (by exact nofun)
theorem slotw (a0 : Guard) (a1 : Src) (a2 : Src) : Statement (.slotw a0 a1 a2) := fun h => absurd h (by exact nofun)
theorem linkcSt (a0 : Guard) (a1 : RegNum) (a2 : SrcI) : Statement (.linkcSt a0 a1 a2) := fun h => absurd h (by exact nofun)
theorem linkcOn (a0 : Guard) (a1 : Src) : Statement (.linkcOn a0 a1) := fun h => absurd h (by exact nofun)
theorem linkcOff (a0 : Guard) : Statement (.linkcOff a0) := fun h => absurd h (by exact nofun)
theorem linkcCst (a0 : Guard) (a1 : RegNum) : Statement (.linkcCst a0 a1) := fun h => absurd h (by exact nofun)
theorem cnq (a0 : Guard) (a1 : RegNum) (a2 : SrcI) : Statement (.cnq a0 a1 a2) := fun h => absurd h (by exact nofun)
theorem loadDataReturn : Statement (.loadDataReturn) := fun _ => rfl
theorem walkComplete : Statement (.walkComplete) := fun _ => rfl
theorem remoteWalkRequest : Statement (.remoteWalkRequest) := fun _ => rfl
theorem lineFillComplete : Statement (.lineFillComplete) := fun _ => rfl
theorem tlbiRequest : Statement (.tlbiRequest) := fun _ => rfl
theorem fabricTlbExpiry : Statement (.fabricTlbExpiry) := fun _ => rfl
theorem scopeFilterTimedPublish : Statement (.scopeFilterTimedPublish) := fun _ => rfl
theorem trd : Statement (.trd) := fun _ => rfl
theorem twr : Statement (.twr) := fun _ => rfl
theorem tdat : Statement (.tdat) := fun _ => rfl
theorem ttok : Statement (.ttok) := fun _ => rfl
theorem tret : Statement (.tret) := fun _ => rfl
theorem lossReport : Statement (.lossReport) := fun _ => rfl
theorem transientAttemptTimeout : Statement (.transientAttemptTimeout) := fun _ => rfl
theorem clampRaiseBound : Statement (.clampRaiseBound) := fun _ => rfl
theorem clmp : Statement (.clmp) := fun _ => rfl
theorem clmpRetry : Statement (.clmpRetry) := fun _ => rfl
theorem clampBatchSelect : Statement (.clampBatchSelect) := fun _ => rfl
theorem clact : Statement (.clact) := fun _ => rfl
theorem clack : Statement (.clack) := fun _ => rfl
theorem cldone : Statement (.cldone) := fun _ => rfl
theorem cldea : Statement (.cldea) := fun _ => rfl
theorem controlMessageResend : Statement (.controlMessageResend) := fun _ => rfl
theorem clampStallTimeout : Statement (.clampStallTimeout) := fun _ => rfl
theorem recastBoundRelease : Statement (.recastBoundRelease) := fun _ => rfl
theorem trec : Statement (.trec) := fun _ => rfl
theorem trca : Statement (.trca) := fun _ => rfl
theorem trecResend : Statement (.trecResend) := fun _ => rfl
theorem recastAnswerTimeout : Statement (.recastAnswerTimeout) := fun _ => rfl
theorem trdone : Statement (.trdone) := fun _ => rfl
theorem trdack : Statement (.trdack) := fun _ => rfl
theorem trdoneResend : Statement (.trdoneResend) := fun _ => rfl
theorem recastFenceExpiry : Statement (.recastFenceExpiry) := fun _ => rfl
theorem hostRead : Statement (.hostRead) := fun _ => rfl
theorem hostReadForOwnership : Statement (.hostReadForOwnership) := fun _ => rfl
theorem hostWriteback : Statement (.hostWriteback) := fun _ => rfl
theorem birsp : Statement (.birsp) := fun _ => rfl
theorem hostSilentTimeout : Statement (.hostSilentTimeout) := fun _ => rfl
theorem biasFlipComplete : Statement (.biasFlipComplete) := fun _ => rfl
theorem poolBackInvalidation : Statement (.poolBackInvalidation) := fun _ => rfl
theorem shelfFailure : Statement (.shelfFailure) := fun _ => rfl
theorem poolCompletionTimeout : Statement (.poolCompletionTimeout) := fun _ => rfl
theorem cxlLinkDown : Statement (.cxlLinkDown) := fun _ => rfl
theorem copyTransferStart : Statement (.copyTransferStart) := fun _ => rfl
theorem copyTransferRetire : Statement (.copyTransferRetire) := fun _ => rfl
theorem matrixInstructionStart : Statement (.matrixInstructionStart) := fun _ => rfl
theorem matrixRetire : Statement (.matrixRetire) := fun _ => rfl
theorem circleArrival : Statement (.circleArrival) := fun _ => rfl
theorem phaseEndNotice : Statement (.phaseEndNotice) := fun _ => rfl
theorem remoteStoreArrival : Statement (.remoteStoreArrival) := fun _ => rfl
theorem remoteStoreRetry : Statement (.remoteStoreRetry) := fun _ => rfl
theorem remoteStoreAck : Statement (.remoteStoreAck) := fun _ => rfl
theorem chgiveArrival : Statement (.chgiveArrival) := fun _ => rfl
theorem remoteAnswer : Statement (.remoteAnswer) := fun _ => rfl
theorem collMatch : Statement (.collMatch) := fun _ => rfl
theorem collMatchTimeout : Statement (.collMatchTimeout) := fun _ => rfl
theorem collStepArrival : Statement (.collStepArrival) := fun _ => rfl
theorem permitReturn : Statement (.permitReturn) := fun _ => rfl
theorem collAbort : Statement (.collAbort) := fun _ => rfl
theorem tsndDue : Statement (.tsndDue) := fun _ => rfl
theorem waitlnReread : Statement (.waitlnReread) := fun _ => rfl
theorem waitlnTimeout : Statement (.waitlnTimeout) := fun _ => rfl
theorem sleepExpiry : Statement (.sleepExpiry) := fun _ => rfl
theorem pendingForcedSwap : Statement (.pendingForcedSwap) := fun _ => rfl
theorem cohortDependenceMet : Statement (.cohortDependenceMet) := fun _ => rfl
theorem teamDispatch : Statement (.teamDispatch) := fun _ => rfl
theorem teamStart : Statement (.teamStart) := fun _ => rfl
theorem stealRequest : Statement (.stealRequest) := fun _ => rfl
theorem stealReply : Statement (.stealReply) := fun _ => rfl
theorem overloadMigration : Statement (.overloadMigration) := fun _ => rfl
theorem teamInstall : Statement (.teamInstall) := fun _ => rfl
theorem preemptForPriority : Statement (.preemptForPriority) := fun _ => rfl
theorem timeSliceExpiry : Statement (.timeSliceExpiry) := fun _ => rfl
theorem fullSave : Statement (.fullSave) := fun _ => rfl
theorem regionRestart : Statement (.regionRestart) := fun _ => rfl
theorem teamRestore : Statement (.teamRestore) := fun _ => rfl
theorem tmigFallback : Statement (.tmigFallback) := fun _ => rfl
theorem fluxPassEntry : Statement (.fluxPassEntry) := fun _ => rfl
theorem fluxPassEnd : Statement (.fluxPassEnd) := fun _ => rfl
theorem flitRetryExhausted : Statement (.flitRetryExhausted) := fun _ => rfl
theorem linkRetrain : Statement (.linkRetrain) := fun _ => rfl
theorem congestionNotice : Statement (.congestionNotice) := fun _ => rfl
theorem rateRecovery : Statement (.rateRecovery) := fun _ => rfl
theorem wavelengthWindowEnd : Statement (.wavelengthWindowEnd) := fun _ => rfl
theorem wavelengthRetrained : Statement (.wavelengthRetrained) := fun _ => rfl
theorem clockStep : Statement (.clockStep) := fun _ => rfl
theorem relockEnd : Statement (.relockEnd) := fun _ => rfl
theorem circuitRotationStart : Statement (.circuitRotationStart) := fun _ => rfl
theorem circuitSlotBoundary : Statement (.circuitSlotBoundary) := fun _ => rfl
theorem circuitStop : Statement (.circuitStop) := fun _ => rfl
theorem powerThrottleStep : Statement (.powerThrottleStep) := fun _ => rfl
theorem uncorrectableSectorError : Statement (.uncorrectableSectorError) := fun _ => rfl
theorem dieInternalError : Statement (.dieInternalError) := fun _ => rfl
theorem coldStart : Statement (.coldStart) := fun _ => rfl
theorem startControlCohort : Statement (.startControlCohort) := fun _ => rfl
theorem writeTenantRegister : Statement (.writeTenantRegister) := fun _ => rfl
theorem writeRoutingEntry : Statement (.writeRoutingEntry) := fun _ => rfl
theorem setDieClock : Statement (.setDieClock) := fun _ => rfl
theorem fabricGrant : Statement (.fabricGrant) := fun _ => rfl
theorem setPlimit : Statement (.setPlimit) := fun _ => rfl
theorem assayReport : Statement (.assayReport) := fun _ => rfl
theorem warmStart : Statement (.warmStart) := fun _ => rfl
theorem writePerDieCounter : Statement (.writePerDieCounter) := fun _ => rfl
theorem fabricLinkUp : Statement (.fabricLinkUp) := fun _ => rfl
theorem unreportedMessageLoss : Statement (.unreportedMessageLoss) := fun _ => rfl
theorem homeAccessRequest : Statement (.homeAccessRequest) := fun _ => rfl
theorem storePerformed : Statement (.storePerformed) := fun _ => rfl
theorem slotTableWrite : Statement (.slotTableWrite) := fun _ => rfl
theorem shelfLinkUp : Statement (.shelfLinkUp) := fun _ => rfl

end Sys2Proof.Laws.Encodes
end

