-- ==== Sys2Proof/Laws/Publish.lean ====
section
/-!
SUPPORT. What moving tokens and publishing an L1's bytes can change: memory, the holdings, requests and messages, the
caches and their counters, and nothing else. And what a word whose pages are known does before its effect: nothing.
-/
namespace Sys2Proof.Machine

/-- `t` comes from `s` by moves of tokens, publications and requests: gangs, teams, cohorts, accesses, tables and the rest of
the machine are as before, a core changes in its L1 alone, a die in its scope filter and two counters, a sector's metadata in its
poison bit, and the memories keep their form. -/
structure Moved (s t : State) : Prop where
  rest : t = { s with net := t.net, mem := t.mem, hold := t.hold, homeTok := t.homeTok, misses := t.misses, l2 := t.l2,
                      cores := t.cores, dies := t.dies, smeta := t.smeta }
  pois : ∀ k, t.smetaOf k = { s.smetaOf k with pois := (t.smetaOf k).pois }
  core : ∀ k, t.core k = { s.core k with l1 := (t.core k).l1 }
  die : ∀ k, t.die k = { s.die k with scf := (t.die k).scf, scfForced := (t.die k).scfForced, pinbyp := (t.die k).pinbyp }
  form : s.memWf = true → t.memWf = true

theorem Moved.refl (s : State) : Moved s s := ⟨rfl, fun _ => rfl, fun _ => rfl, fun _ => rfl, id⟩
theorem Moved.trans {s t u : State} (h : Moved s t) (k : Moved t u) : Moved s u := by
  refine ⟨?_, fun c => ?_, fun c => ?_, fun c => ?_, fun f => k.form (h.form f)⟩
  · have a := k.rest
    rw [h.rest] at a
    exact a
  · rw [k.pois c, h.pois c]
  · rw [k.core c, h.core c]
  · rw [k.die c, h.die c]
theorem Moved.fold {α : Type} {f : State → α → State} (hf : ∀ s x, Moved s (f s x)) (l : List α) (s : State) :
    Moved s (l.foldl f s) := by
  induction l generalizing s with
  | nil => exact .refl s
  | cons x l ih => exact (hf s x).trans (ih _)
/-- A loop that carries whether all went well. -/
theorem Moved.foldOk {α : Type} {f : Bool × State → α → Bool × State} (hf : ∀ a x, Moved a.2 (f a x).2) (l : List α)
    (a : Bool × State) : Moved a.2 (l.foldl f a).2 := by
  induction l generalizing a with
  | nil => exact .refl a.2
  | cons x l ih => exact (hf a x).trans (ih _)

theorem moved_setHold (s : State) (sec h : Nat) (x : Hold) : Moved s (s.setHold sec h x) :=
  ⟨rfl, fun _ => rfl, fun _ => rfl, fun _ => rfl, id⟩
theorem moved_setHomeTok (s : State) (sec : Nat) (x : Nat × Bool) : Moved s (s.setHomeTok sec x) :=
  ⟨rfl, fun _ => rfl, fun _ => rfl, fun _ => rfl, id⟩
theorem moved_send (s : State) (e : Ev) : Moved s (s.send e) := ⟨rfl, fun _ => rfl, fun _ => rfl, fun _ => rfl, id⟩
theorem moved_putMemSec (s : State) (sec : Nat) (d : BitVec 512) : Moved s (s.putMemSec sec d) :=
  ⟨rfl, fun _ => rfl, fun _ => rfl, fun _ => rfl, fun h => State.memWf_putMemSec h sec d⟩
theorem moved_l2 (s : State) (m : Store (Option L2Line)) : Moved s { s with l2 := m } :=
  ⟨rfl, fun _ => rfl, fun _ => rfl, fun _ => rfl, id⟩
theorem moved_setL1 (s : State) (ck key : Nat) (x : L1Sec) : Moved s (s.setL1 ck key x) := by
  refine ⟨rfl, fun _ => rfl, fun k => ?_, fun _ => rfl, id⟩
  by_cases e : k = ck
  · subst e; simp only [State.setL1, State.core_modCore]
  · simp only [State.setL1, State.core_modCore_other _ _ e]
/-- A die's counters and filter. -/
theorem moved_modDie (s : State) (di : Nat) (f : Die → Die)
    (hf : ∀ d, f d = { d with scf := (f d).scf, scfForced := (f d).scfForced, pinbyp := (f d).pinbyp }) :
    Moved s (s.modDie di f) := by
  refine ⟨rfl, fun _ => rfl, fun _ => rfl, fun k => ?_, id⟩
  by_cases e : k = di
  · subst e; simp only [State.die_modDie]; exact hf _
  · simp only [State.die_modDie_other _ _ e]
/-- A sector's poison bit. -/
theorem moved_pois (s : State) (sec : Nat) (b : Bool) : Moved s (s.modSmeta sec fun m => { m with pois := b }) := by
  refine ⟨rfl, fun k => ?_, fun _ => rfl, fun _ => rfl, id⟩
  by_cases e : k = sec
  · subst e; simp only [State.smetaOf_modSmeta]
  · simp only [State.smetaOf_modSmeta_other _ _ e]
theorem moved_published (s : State) (ck key sec : Nat) (x : L1Sec) : Moved s (s.published ck key sec x) := by
  unfold State.published
  split
  · exact (moved_pois s sec _).trans (moved_setL1 _ _ _ _)
  · exact moved_setL1 _ _ _ _
theorem moved_countBypass (s : State) (di n : Nat) : Moved s (s.countBypass di n) := moved_modDie s di _ fun _ => rfl
theorem moved_request (s : State) (h sec : Nat) (write flux : Bool) : Moved s (s.request h sec write flux) := by
  unfold State.request
  dsimp only
  split <;> exact ⟨rfl, fun _ => rfl, fun _ => rfl, fun _ => rfl, id⟩
theorem moved_dropHolders (s : State) (sec : Nat) : Moved s (s.dropHolders sec) := by
  unfold State.dropHolders
  apply Moved.fold
  exact fun s p => moved_setHold s sec p.1 _
theorem moved_retTokens (s : State) (di sec : Nat) : Moved s (s.retTokens di sec) := by
  unfold State.retTokens
  dsimp only
  split
  · exact .refl s
  · exact (moved_setHold s _ _ _).trans (moved_send _ _)
/-- A line that leaves a die's L2 moves its tokens and is gone (R244). -/
theorem moved_evictLine (s : State) (di line : Nat) : Moved s (s.evictLine di line) :=
  ((moved_retTokens s di _).trans (moved_retTokens _ di _)).trans (moved_l2 _ _)
theorem moved_trimSet (n : Nat) : ∀ (s : State) (di line : Nat), Moved s (s.trimSet di line n) := by
  induction n with
  | zero => exact fun s _ _ => .refl s
  | succ n ih =>
    intro s di line
    unfold State.trimSet
    split
    · exact .refl s
    · split
      · exact (moved_evictLine s di _).trans (ih _ _ _)
      · exact .refl s
theorem moved_touchLine (s : State) (di line : Nat) (stream persist : Bool) : Moved s (s.touchLine di line stream persist) :=
  by
  unfold State.touchLine
  split
  · exact .refl s
  · exact (moved_l2 s _).trans (moved_trimSet 64 _ _ _)
theorem moved_gatherHome0 {s t : State} {sec : Nat} (h : s.gatherHome0 sec = some t) : Moved s t := by
  unfold State.gatherHome0 at h
  split at h
  · cases h; exact .refl s
  · split at h
    · cases h
      exact ((moved_dropHolders s sec).trans (moved_putMemSec _ _ _)).trans (moved_setHomeTok _ _ _)
    · cases h
theorem moved_gather0 {s t : State} {sec di : Nat} (h : s.gather0 sec di = some t) : Moved s t := by
  unfold State.gather0 at h
  dsimp only at h
  split at h
  · cases h; exact .refl s
  · split at h
    · cases h
      exact ((moved_dropHolders s sec).trans (moved_setHomeTok _ _ _)).trans (moved_setHold _ _ _ _)
    · cases h
/-- The publication of a sector (R239). -/
theorem moved_pubSec {s t : State} {ck sec : Nat} (h : s.pubSec ck sec = some t) : Moved s t := by
  unfold State.pubSec at h
  dsimp only at h
  split at h
  · cases h; exact .refl s
  · split at h
    · split at h
      · cases h
      · rename_i u hu
        cases h
        exact (((moved_gatherHome0 hu).trans (moved_putMemSec _ _ _)).trans (moved_published _ _ _ _ _)).trans
          (moved_countBypass _ _ _)
    · split at h
      · cases h
      · cases h
        exact ((moved_setHold s _ _ _).trans (moved_published _ _ _ _ _)).trans (moved_touchLine _ _ _ _ _)
theorem moved_askPub (s : State) (ck sec : Nat) : Moved s (s.askPub ck sec) := by
  unfold State.askPub
  split <;> exact moved_request _ _ _ _ _
theorem moved_putOff (s : State) (ck sec : Nat) : Moved s (s.putOff ck sec) := (moved_setL1 s _ _ _).trans (moved_askPub _ _ _)
/-- The publication of a core, whether it could be finished or not (R239). -/
theorem moved_publishCore (s : State) (ck : Nat) : Moved s (s.publishCore ck).2 := by
  have loop : Moved s ((s.dirtySecs ck).foldl (fun (acc : Bool × State) sec =>
      match acc.2.pubSec ck sec with
      | some s => (acc.1, s)
      | none => (false, acc.2.putOff ck sec)) (true, s)).2 :=
    Moved.foldOk (fun a x => by
      split
      · rename_i h; exact moved_pubSec h
      · exact moved_putOff _ _ _) _ (true, s)
  unfold State.publishCore
  dsimp only
  split
  · exact loop.trans (moved_modDie _ _ _ fun _ => rfl)
  · exact loop
theorem moved_forceCore (s : State) (di c : Nat) : Moved s (s.forceCore di c).2 := by
  unfold State.forceCore
  refine Moved.trans ?_ (moved_publishCore _ _)
  split
  · exact .refl s
  · exact moved_modDie _ _ _ fun _ => rfl
theorem moved_forcePublish (s : State) (di sec : Nat) : Moved s (s.forcePublish di sec).2 := by
  unfold State.forcePublish
  exact Moved.foldOk (f := fun acc c => (acc.1 && (acc.2.forceCore di c).1, (acc.2.forceCore di c).2))
    (fun a c => moved_forceCore a.2 di c) _ (true, s)
theorem moved_forceAll (s : State) (sec : Nat) : Moved s (s.forceAll sec).2 := by
  unfold State.forceAll
  refine Moved.foldOk (fun a p => ?_) _ (true, s)
  split
  · dsimp only
    split
    · exact .refl _
    · exact moved_forcePublish _ _ _
  · exact .refl _
/-- One token and the data for a fill or an engine's read (R210). -/
theorem moved_share {s t : State} {sec di : Nat} (h : s.share sec di = some t) : Moved s t := by
  unfold State.share at h
  dsimp only at h
  split at h
  · split at h
    · cases h; exact moved_forcePublish _ _ _
    · cases h
  · split at h
    · cases h
    · split at h
      · cases h
      · refine (moved_forceAll s sec).trans ?_
        split at h
        · split at h
          · cases h; exact (moved_setHomeTok _ _ _).trans (moved_setHold _ _ _ _)
          · cases h; exact (moved_setHomeTok _ _ _).trans (moved_setHold _ _ _ _)
        · split at h
          · split at h
            · cases h; exact (moved_setHold _ _ _ _).trans (moved_setHold _ _ _ _)
            · cases h; exact (moved_setHold _ _ _ _).trans (moved_setHold _ _ _ _)
          · cases h
theorem moved_gatherHome {s t : State} {sec : Nat} (h : s.gatherHome sec = some t) : Moved s t := by
  unfold State.gatherHome at h
  dsimp only at h
  split at h
  · cases h
  · exact (moved_forceAll s sec).trans (moved_gatherHome0 h)
theorem moved_gather {s t : State} {sec di : Nat} (h : s.gather sec di = some t) : Moved s t := by
  unfold State.gather at h
  dsimp only at h
  split at h
  · split at h
    · cases h; exact moved_forcePublish _ _ _
    · cases h
  · split at h
    · split at h
      · exact ((moved_forceAll s sec).trans (moved_forcePublish _ _ _)).trans (moved_gather0 h)
      · cases h
    · cases h
theorem moved_shareAsk (s : State) (sec di : Nat) : Moved s (s.shareAsk sec di).2 := by
  unfold State.shareAsk
  split
  · rename_i h; exact moved_share h
  · exact moved_request _ _ _ _ _
theorem moved_gatherAsk (s : State) (sec di : Nat) : Moved s (s.gatherAsk sec di).2 := by
  unfold State.gatherAsk
  split
  · rename_i h; exact moved_gather h
  · exact moved_request _ _ _ _ _
theorem moved_pubAsk (s : State) (ck sec : Nat) : Moved s (s.pubAsk ck sec).2 := by
  unfold State.pubAsk
  split
  · rename_i h; exact moved_pubSec h
  · exact moved_putOff _ _ _

/-! ### Pages that are known -/

/-- No walk is started for pages that are known (R195). -/
theorem walkAll_of_knows {c : Ctx} {ps : List Page} {s : State} (h : c.knows ps s = true) : c.walkAll ps s = (true, s) := by
  unfold Ctx.walkAll Ctx.knows at *
  induction ps with
  | nil => rfl
  | cons p ps ih =>
    simp only [List.all_cons, Bool.and_eq_true] at h
    obtain ⟨v, hv⟩ := Option.isSome_iff_exists.mp h.1
    simp only [List.foldl_cons, hv]
    exact ih h.2
/-- A word whose pages are known has its effect at once. -/
theorem withPages_of_knows {c : Ctx} {ps : List Page} {s : State} (h : c.knows ps s = true) (f : State → Res) :
    c.withPages ps s f = match f s with
      | .done s => .done (c.seenAll ps s)
      | r => r := by
  simp only [Ctx.withPages, walkAll_of_knows h, Bool.not_true, Bool.false_eq_true, if_false] <;> rfl

end Sys2Proof.Machine
end

