-- ==== Sys2Proof/Tests/Slice0.lean ====
section
/-!
SUPPORT. Tests: ill-formed instructions are refused, words of the spec decode, one step does what a rule says, and every
statement's hypotheses are met by a state.
-/
set_option maxRecDepth 100000
set_option exponentiation.threshold 4096

namespace Sys2Proof.Tests
open Sys2Proof Sys2Proof.Machine

def g : Guard := ⟨7, false⟩
def r (n : RegNum) : Src := ⟨n, false⟩
def ri (n : RegNum) : SrcI := .reg (r n)
/-- A machine about to issue from gang 0 of a one-gang control team, as `placeWord` leaves it. -/
def boot (role : Role) : State := State.reset.boot role

/-! ### Ill-formed instructions -/

theorem test_ill_offset : ([.bra g 2, .ifThen false 1 2, .elseDo 2, .loop 2, .endLoop 2] : List Instr).all
    (fun i => !i.WellFormed) = true := by decide
theorem test_ill_link : ([.brx g (r 3), .call g 3 0, .call g 2 1, .callx g 3 (r 2), .ret g (r 3) 0, .ret g (r 2) 63, .brk g 62,
    .cont g 63] : List Instr).all (fun i => !i.WellFormed) = true := by decide
theorem test_ill_uniform_pair : ([.kmov g true 3 (r 2), .kli g true 3 (.i32 0), .kli g false 2 (.i64 0), .kadd g true 2 (r 3) (.imm 0),
    .ksub g true 2 (r 2) (ri 3), .kmul g true 3 (r 2) (.imm 0), .kand g true 3 (r 2) (.imm 0), .kor g true 3 (r 2) (.imm 0),
    .kxor g true 3 (r 2) (.imm 0), .kshl g true 2 (r 3) (.imm 0), .kshr g true 3 (r 2) (.imm 0), .ksra g true 3 (r 2) (.imm 0),
    .kmin g true false 3 (r 2) (.imm 0), .kmax g true false 3 (r 2) (.imm 0), .kcmp g .eq false true 0 (r 3) (.imm 0),
    .ksel g true 3 (r 2) (.imm 0) 0, .vtok g true 3 (r 2), .kbc g true 2 (r 3)] : List Instr).all
    (fun i => !i.WellFormed) = true := by decide
theorem test_ill_movs : ([.movs g true 2 .lane, .movs g true 2 .depth, .movs g true 2 .cursor, .movs g true 3 .clk,
    .movs g true 3 .time] : List Instr).all (fun i => !i.WellFormed) = true := by decide
theorem test_ill_type : ([.imul g .i64 .wide 2 (r 2) (ri 2), .imad g .n64 true 2 (r 2) (ri 2) (r 2), .iabs g .n32 false 2 (r 2),
    .isad g .i64 2 (r 2) (ri 2) (r 2), .mov g false 2 (.i64 0), .fcmp g .num true 0 (r 2) (ri 2), .cvtffWide g .bf16 2 2 (r 2),
    .cvtffWide g .e4m3 4 2 (r 2), .lea g false true 0 2 (r 3) (ri 2)] : List Instr).all (fun i => !i.WellFormed) = true := by decide
theorem test_ill_lanes : ([.shfl g .idx 6 2 (r 2) (ri 2) 0, .vote g .any false false 8 0, .lmatch g true false 8 (r 2),
    .momld g 0 (r 3) 0, .momst g (r 3) 0 0] : List Instr).all (fun i => !i.WellFormed) = true := by decide
theorem test_ill_memory : ([.ld g .b32 2 (.kpair (r 3)) .none none, .ld g .b32 2 (.vpair (r 2)) .none (some 1),
    .ld g .b32 2 (.vpair (r 2)) (.ext 0 .dflt .rel .none) none, .ld g .b32 2 (.vpair (r 2)) (.ext 0 .die .weak .none) none,
    .st g .i8 (.vpair (r 2)) .none (r 2), .st g .b32 (.vpair (r 2)) (.ext 0 .dflt .acq .none) (r 2), .ldk g .b128 2 (r 2) .none,
    .ldk g .b64 3 (r 2) .none, .ldk g .b32 3 (r 3) .none, .stk g .i16 (r 2) .none (r 2), .stk g .b64 (r 2) .none (r 3),
    .pft g false (.vpair (r 2)) (.ext 0 .dflt .rlx .none), .pgreq g 0 (.scr (r 2)) none, .xlat g false 2 (.scr (r 2)) none,
    .cctlIinv g (r 3) (r 2) none, .cctlL1wb g (r 3) (r 2) none, .cctlL1inv g (r 3) (r 2) none, .cctlL2evict g (r 3) (r 2) none,
    .pin g 2 (r 3) (r 2) none, .unpin g 2 (r 3) (r 2) none] : List Instr).all (fun i => !i.WellFormed) = true := by decide
theorem test_ill_ordering : ([.atom g .add .i32 2 (.vpair (r 2)) (.ext 0 .dflt .rlx .stream) (r 2),
    .acas g false 2 (.kpair (r 3)) .none (r 2) (r 2), .afadd g .f32 2 (.kpair (r 3)) .none (r 2),
    .ared g (.int .exch .i32) (.vpair (r 2)) .none (r 2), .ared g (.fadd .f32) (.vpair (r 2)) (.ext 0 .dflt .acq .none) (r 2),
    .fence g .ar .dflt, .waitln g .eq false false 0 (.vpair (r 2)) (r 2) 0 0 .dflt .rel, .cwb g false (.kpair (r 3)) none,
    .cpub g (.kpair (r 3)) none, .tkq g 2 (.kpair (r 3)) none, .bias g false 2 (r 3) (r 2) none] : List Instr).all
    (fun i => !i.WellFormed) = true := by decide
theorem test_ill_engines : ([.cpy g .sx2 .p2 true .rne false 0 (r 2) (r 2) (r 2) 0 .none, .cpy g .f16 .p4 false .rne false 0 (r 2) (r 2) (r 2) 0 .none,
    .cpy g .raw .p2 false .rtz false 0 (r 2) (r 2) (r 2) 0 .none, .cpyg g .raw .rne false 0 (r 2) (r 2) (r 2) .none,
    .cpyg g .f32 .rne false 0 (r 122) (r 2) (r 2) .none, .cpys g .f32 .rtz false 0 (r 2) (r 2) (r 2) 0 .none, .cpyw g false 2 (.imm 0x10000),
    .cpyq g .busy 2 (.imm 16), .cpyq g .addr 3 (.imm 0), .cpyqClr g 2 (.imm 16), .mma g .p2 0 (r 3) (r 2) none,
    .mloop g .p2 0 (r 2) (r 2) (some (r 3)) 0 0 0 0, .acld g 0 (r 3) 0 0, .acdr g 0 (r 2) none (some (r 2)) false false false 0 0,
    .acdr g 0 (r 2) (some (r 2)) (some (r 2)) false false true 0 0, .rcpy g 0 (r 3) (r 2) (r 2) 0 .none, .rcpyw g false true 2 (.imm 8),
    .tsnd g 2 0 (r 2) (r 2) (r 2) 8 .none, .tsnd g 2 0 (r 2) (r 2) (r 2) 24 .none] : List Instr).all (fun i => !i.WellFormed) = true := by decide
theorem test_ill_sync : ([.cbar g (.imm 256), .arv g 2 (some (.imm 256)), .awt g (r 2) (some (.imm 256)), .sput g (.imm 0x20), .sget g (.imm 0x2000),
    .swait g false (.imm 0x10000), .marke g true 126 2 none, .markf g false 255 1 none, .feq g true 2 127 1, .rstk g false true (r 2) (r 3) none,
    .chq g true 2 (ri 2), .coll g 2 (r 3) none, .collw g false 2 (.imm 4), .collq g .state 2 (.imm 4), .launch g 2 (r 3) none] : List Instr).all
    (fun i => !i.WellFormed) = true := by decide
theorem test_ill_system : ([.flxcfg g false 2 (.imm 15), .flxcfg g false 2 (.imm 513), .flxq g .cfg true 2, .mfs g false 2 2, .mfs g true 3 2, .mfs g false 2 5,
    .mts g false (r 2) 0x106, .mts g true (r 3) 4, .tlbiRange g (r 3) (r 2), .chset g 0 2 (r 2) (r 2), .chset g 0 2 (r 2) (r 124), .timeNow g 3,
    .cycClk g 3, .slotw g (r 3) (r 2), .linkcSt g 2 (.imm 256), .linkcOn g (r 3), .cnq g 2 (.imm 64)] : List Instr).all
    (fun i => !i.WellFormed) = true := by decide

/-! ### Words of the spec decode -/

/-- The words of a list decode to the instructions beside them. -/
def reads (l : List (Nat × Nat × Instr)) : Bool := l.all fun x => decodeTableWord x.1 x.2.1 = some x.2.2

theorem test_decode_control_1 : reads [
    (64, 0x0000000000001C00, .nop g .w64),
    (96, 0x000000000000000000002801, .nop ⟨2, true⟩ .w96),
    (96, 0xFFFFFFF00000000000001C05, .bra g 0xFFFFFFF0),
    (64, 0x0000000001001C08, .brx g (r 4)),
    (96, 0x000000400000000000019C0D, .call g 6 0x40),
    (64, 0x0000000002419C10, .callx g 6 (r 9)),
    (64, 0x0300000001801C14, .ret g (r 6) 3),
    (96, 0x000000200002000000C01C19, .ifThen true 3 0x20),
    (96, 0x000000240000000000001C1D, .elseDo 0x24),
    (64, 0x0000000000001C20, .endIf),
    (96, 0x000000280000000000001C25, .loop 0x28),
    (64, 0x0200000000001C28, .brk g 2),
    (64, 0x3E00000000001C2C, .cont g 62),
    (96, 0xFFFFFFE00000000000001C31, .endLoop 0xFFFFFFE0),
    (64, 0x0000000000002434, .exit ⟨1, true⟩),
    (64, 0x00AA000000001C38, .trap g 0x55)] = true := by decide
theorem test_decode_control_2 : reads [
    (64, 0x0000000000001C3C, .bpt g)] = true := by decide
theorem test_decode_uniform_1 : reads [
    (64, 0x0002000001811C40, .kmov g true 4 (r 6)),
    (96, 0x123456780000000000015C45, .kli g false 5 (.i32 0x12345678)),
    (128, 0x123456789ABCDEF00002000000019C46, .kli g true 6 (.i64 0x123456789ABCDEF0)),
    (64, 0x0000000301411C48, .kadd g false 4 (r 5) (ri 6)),
    (64, 0x0002000301411C48, .ksub g false 4 (r 5) (ri 6)),
    (64, 0x0004000301411C48, .kmul g false 4 (r 5) (ri 6)),
    (64, 0x0006000301411C48, .kand g false 4 (r 5) (ri 6)),
    (64, 0x0008000301411C48, .kor g false 4 (r 5) (ri 6)),
    (64, 0x000A000301411C48, .kxor g false 4 (r 5) (ri 6)),
    (64, 0x000C000301411C48, .kshl g false 4 (r 5) (ri 6)),
    (64, 0x000E000301411C48, .kshr g false 4 (r 5) (ri 6)),
    (64, 0x0010000301411C48, .ksra g false 4 (r 5) (ri 6)),
    (64, 0x0072000401811C48, .kmin g true true 4 (r 6) (ri 8)),
    (96, 0x000000090014000001811C49, .kmax g false false 4 (r 6) (.imm 9)),
    (64, 0x001600040180DC4C, .kcmp g .le true false 3 (r 6) (ri 8)),
    (64, 0x0002050401811C50, .ksel g true 4 (r 6) (ri 8) 5)] = true := by decide
theorem test_decode_uniform_2 : reads [
    (64, 0x0000000032011C54, .vtok g false 4 (r 200)),
    (64, 0x0002000001325C58, .kbc g true 201 (r 4)),
    (64, 0x0000000000425C5C, .movs g false 9 .depth)] = true := by decide
theorem test_decode_integer_1 : reads [
    (64, 0x0102000301411C80, .iadd g .n32 true 4 (r 5) (ri 6)),
    (96, 0x000000070004000001411C85, .isub g .i64 false 4 (r 5) (.imm 7)),
    (64, 0x0012000301411C88, .imul g .n32 .wide 4 (r 5) (ri 6)),
    (64, 0x0010080301411C8C, .imad g .i32 true 4 (r 5) (ri 6) (r 8)),
    (64, 0x0006000381411C90, .idiv g .n64 4 (r 5) (ri 7)),
    (64, 0x0000000381411C94, .irem g .i32 4 (r 5) (ri 7)),
    (64, 0x0004000381411C98, .imin g .i64 4 (r 5) (ri 7)),
    (64, 0x000A000381411C98, .imax g .n32 4 (r 5) (ri 7)),
    (64, 0x0100000001411C9C, .iabs g .i32 true 4 (r 5)),
    (64, 0x000E000001411C9C, .ineg g .n64 false 4 (r 5)),
    (64, 0x0002070301411CA0, .isad g .n32 4 (r 5) (ri 6) (r 7)),
    (64, 0x002C00038140DCA4, .icmp g .ge .i64 3 (r 5) (ri 7)),
    (64, 0x0004050401811CA8, .isel g true 4 (r 6) (ri 8) 5),
    (64, 0x0000000401811CAC, .and g false 4 (r 6) (ri 8)),
    (64, 0x0012000401811CAC, .or g true 4 (r 6) (ri 8)),
    (64, 0x0004000401811CAC, .xor g false 4 (r 6) (ri 8))] = true := by decide
theorem test_decode_integer_2 : reads [
    (64, 0x0016000401811CAC, .andn g true 4 (r 6) (ri 8)),
    (64, 0x0008000401811CAC, .orn g false 4 (r 6) (ri 8)),
    (64, 0x001A000401811CAC, .xnor g true 4 (r 6) (ri 8)),
    (64, 0x001C000001811CAC, .not g true 4 (r 6)),
    (96, 0x000000CA0000070301411CB1, .tern g 4 (r 5) (r 6) (r 7) 0xCA),
    (64, 0x0000000301411CB4, .shl g false 4 (r 5) (ri 6)),
    (64, 0x0004000301411CB8, .shr g true 4 (r 5) (ri 6)),
    (96, 0x0000001F0000000001411CBD, .sra g false 4 (r 5) (.imm 31)),
    (64, 0x0006000301411CC0, .rot g true true 4 (r 5) (ri 6)),
    (64, 0x0000070301411CC4, .fshl g 4 (r 5) (r 6) (ri 7)),
    (96, 0x000000080002000301411CC5, .fshr g 4 (r 5) (r 6) (.imm 8)),
    (64, 0x0000000001811CC8, .popc g false 4 (r 6)),
    (64, 0x000A000001811CC8, .clz g true 4 (r 6)),
    (64, 0x0004000001811CC8, .ctz g false 4 (r 6)),
    (64, 0x000E000001811CC8, .brev g true 4 (r 6)),
    (64, 0x0002000301411CCC, .bfx g true 4 (r 5) (ri 6))] = true := by decide
theorem test_decode_integer_3 : reads [
    (64, 0x0000070301411CD0, .bfi g 4 (r 5) (ri 6) (r 7)),
    (64, 0x0000000300011CD4, .bmsk g 4 (ri 6)),
    (64, 0x0000070301411CD8, .permb g 4 (r 5) (r 6) (ri 7)),
    (64, 0x0502000401811CDC, .lea g true false 5 4 (r 6) (ri 8)),
    (64, 0x0204000481811CDC, .lea g false true 2 4 (r 6) (ri 9))] = true := by decide
theorem test_decode_packed : reads [
    (64, 0x0110000301411CE0, .padd g true false true 4 (r 5) (ri 6)),
    (64, 0x0112000301411CE0, .psub g true false true 4 (r 5) (ri 6)),
    (64, 0x0114000301411CE0, .pmul g true false true 4 (r 5) (ri 6)),
    (64, 0x0026000301411CE0, .pmin g false true 4 (r 5) (ri 6)),
    (64, 0x0028000301411CE0, .pmax g false true 4 (r 5) (ri 6)),
    (64, 0x002A000301411CE0, .pavg g false true 4 (r 5) (ri 6)),
    (64, 0x0010000301411CE4, .pshl g true 4 (r 5) (ri 6)),
    (64, 0x0012000301411CE4, .pshr g true 4 (r 5) (ri 6)),
    (64, 0x0014000301411CE4, .psra g true 4 (r 5) (ri 6)),
    (64, 0x0032000301411CE8, .pcmp g .ne true true 4 (r 5) (ri 6)),
    (96, 0x000000030002000001401CED, .drawc g (r 5) (.imm 3)),
    (64, 0x0000000301411CEC, .draw g 4 (r 5) (ri 6)),
    (64, 0x0000000001411CF0, .mov g false 4 (.reg (r 5))),
    (96, 0xDEADBEEF0000000000011CF1, .mov g false 4 (.i32 0xDEADBEEF)),
    (128, 0xFEDCBA98765432100002000000011CF2, .mov g true 4 (.i64 0xFEDCBA9876543210))] = true := by decide
theorem test_decode_float_1 : reads [
    (64, 0x0200000301411D00, .fadd g .rup 4 (r 5) (ri 6)),
    (64, 0x0300000301411D04, .fsub g .rdn 4 (r 5) (ri 6)),
    (96, 0x3F8000000000000001411D09, .fmul g .rne 4 (r 5) (.imm 0x3F800000)),
    (64, 0x0100070301411D0C, .ffma g .rtz 4 (r 5) (ri 6) (r 7)),
    (64, 0x0000000301411D20, .fdiv g .rne 4 (r 5) (ri 6)),
    (64, 0x0004000301411D10, .fmin g true 4 (r 5) (ri 6)),
    (64, 0x0002000301411D10, .fmax g false 4 (r 5) (ri 6)),
    (64, 0x001200030140DD14, .fcmp g .ne true 3 (r 5) (ri 6)),
    (64, 0x000E00030140DD14, .fcmp g .nan false 3 (r 5) (ri 6)),
    (64, 0x0000000001411D18, .fclass g 4 (r 5)),
    (64, 0x0100000001411D1C, .frcp g .rtz 4 (r 5)),
    (64, 0x0204000001411D1C, .fsqrt g .rup 4 (r 5)),
    (64, 0x0002000001411D1C, .frsq g 4 (r 5)),
    (64, 0x0006000001411D1C, .fexp2 g 4 (r 5)),
    (64, 0x0008000001411D1C, .flog2 g 4 (r 5)),
    (64, 0x000A000001411D1C, .fsin g 4 (r 5))] = true := by decide
theorem test_decode_float_2 : reads [
    (64, 0x000C000001411D1C, .fcos g 4 (r 5)),
    (64, 0x000E000001411D1C, .ftanh g 4 (r 5)),
    (64, 0x0102000301411D24, .xadd2 g true .rtz 4 (r 5) (ri 6)),
    (64, 0x0000000301411D28, .xmul2 g false .rne 4 (r 5) (ri 6)),
    (64, 0x0302070301411D2C, .xfma2 g true .rdn 4 (r 5) (ri 6) (r 7)),
    (64, 0x010A000001411D30, .cvtfi g .n16 .rtz 4 (r 5)),
    (64, 0x0246000001411D30, .cvtif g .i64 .rup 4 (r 5)),
    (64, 0x0584000301411D30, .cvtff g .e4m3 .rtz true 4 (r 5) (r 6)),
    (64, 0x3898000001411D30, .cvtffWide g .e2m1 7 4 (r 5)),
    (64, 0x0702000001411D34, .cvtbk g .sx4 .rdn true 4 (r 5)),
    (64, 0x000C000001411D34, .cvtbkWide g .sx7 4 (r 5)),
    (64, 0x0100000301411D38, .fscale g .rtz 4 (r 5) (ri 6)),
    (64, 0x0300000001411D3C, .fround g .rdn 4 (r 5)),
    (64, 0x0002000001411D3C, .ffrac g .rne 4 (r 5))] = true := by decide
theorem test_decode_lanes : reads [
    (64, 0x0504030301411D40, .shfl g .down 5 4 (r 5) (ri 6) 3),
    (64, 0x001C000000C11D44, .vote g .ballot true true 4 3),
    (64, 0x0034000001411D48, .lred g .fmax true 4 (r 5)),
    (64, 0x002E000001411D4C, .lscan g .xor true 4 (r 5)),
    (64, 0x0004000001411D50, .lmatch g false true 4 (r 5)),
    (64, 0x000000000000DD60, .momz g 3),
    (64, 0x000000000140DD64, .momu g 3 (r 5)),
    (64, 0x000000030140DD68, .momw g 3 (r 5) (ri 6)),
    (64, 0x000000028100DD6C, .momm g 3 4 5),
    (64, 0x0004000001411D70, .momd g .svar 4 5),
    (64, 0x0008000301411D70, .momd g (.rstd (ri 6)) 4 5),
    (64, 0x0000070301411D74, .momn g 4 (r 5) 6 (ri 7)),
    (96, 0xFFFFFFF0000000000100DD79, .momld g 3 (r 4) 0xFFFFFFF0),
    (96, 0x000000100002000281001D79, .momst g (r 4) 5 0x10),
    (64, 0x000E000001411D7C, .momq g .status true 4 5)] = true := by decide
theorem test_decode_memory : reads [
    (128, 0x00000000000002000008010000811D82, .ld g .b32 4 (.vpair (r 2)) (.ext 0 .dflt .weak .none) (some 1)),
    (96, 0xFFFFFFFC0046000000811D81, .ld g .i16 4 (.scr (r 2)) (.imm 0xFFFFFFFC) none),
    (64, 0x002C000000811D80, .ld g .b128 4 (.kpair (r 2)) .none none),
    (128, 0x00000040000000BB000A000300801D86, .st g .b64 (.vpair (r 2)) (.ext 0x40 .die .rel .uncached) (r 6)),
    (128, 0x0000000000000029000A000001811D8A, .ldk g .b64 4 (r 6) (.ext 0 .gang .rlx .normal)),
    (96, 0x000000060004000481801D8D, .stk g .n16 (r 6) (.imm 6) (r 9)),
    (96, 0x000000800002000001001D91, .pft g true (.vpair (r 4)) (.imm 0x80)),
    (64, 0x002000000100DD94, .pgreq g 3 (.kpair (r 4)) none),
    (96, 0x000000080002000001419D99, .xlat g true 6 (.vpair (r 5)) (some 8)),
    (96, 0x000000100000000381001D9D, .cctlIinv g (r 4) (r 7) (some 16)),
    (64, 0x0002000381001D9C, .cctlL1wb g (r 4) (r 7) none),
    (96, 0x000000100004000381001D9D, .cctlL1inv g (r 4) (r 7) (some 16)),
    (64, 0x0006000381001D9C, .cctlL2evict g (r 4) (r 7) none),
    (64, 0x000000038100DDA0, .pin g 3 (r 4) (r 7) none),
    (96, 0x00000080000000038100DDA5, .unpin g 3 (r 4) (r 7) (some 128))] = true := by decide
theorem test_decode_ordering : reads [
    (64, 0x005C000301001DCC, .ared g (.fadd .f16) (.kpair (r 4)) .none (r 6)),
    (64, 0x0028000301001DCC, .ared g (.int .min .i64) (.vpair (r 4)) .none (r 6)),
    (64, 0x007C000401811DC0, .atom g .exch .n64 4 (.kpair (r 6)) .none (r 8)),
    (128, 0x0000002000000017000A000401811DC2, .atom g .max .i32 4 (.vpair (r 6)) (.ext 0x20 .sys .acq .none) (r 8)),
    (96, 0x0000000400900A0401811DC5, .acas g true 4 (.scr (r 6)) (.imm 4) (r 8) (r 10)),
    (64, 0x0020000401811DC8, .afadd g .bf16 4 (.vpair (r 6)) .none (r 8)),
    (64, 0x1600000000001DD0, .fence g .rel .fab),
    (64, 0x0000000000001DD4, .xfence g),
    (128, 0x0000004012340015007200030100DDDA, .waitln g .ne true true 3 (.kpair (r 4)) (r 6) 0x40 0x1234 .pod .acq),
    (64, 0x0042000001001DE0, .cwb g true (.scr (r 4)) none),
    (96, 0x000000400020000001001DE5, .cpub g (.kpair (r 4)) (some 64)),
    (64, 0x0000000001019DE8, .tkq g 6 (.vpair (r 4)) none),
    (64, 0x000200038100DDEC, .bias g true 3 (r 4) (r 7) none)] = true := by decide
theorem test_decode_copy : reads [
    (128, 0xFFFFFE00000B004007CA080301001E02, .cpy g .bf16 .p7 true .rdn true 11 (r 4) (r 6) (r 8) 0xFFFFFE00 .stream),
    (128, 0x0000000000050080010C080301001E06, .cpyg g .e4m3 .rtz false 5 (r 4) (r 6) (r 8) .persist),
    (128, 0x00000100000F00600002080301001E0A, .cpys g .sx4 .rne false 15 (r 4) (r 6) (r 8) 0x100 .noalloc),
    (96, 0x000080010002000000011E0D, .cpyw g true 4 (.imm 0x8001)),
    (64, 0x0004000001411E10, .cpyq g .addr 4 (ri 5)),
    (96, 0x00000000000A000000011E11, .cpyq g .sbfree 4 (.imm 0)),
    (64, 0x0008000001411E10, .cpyqClr g 4 (ri 5))] = true := by decide
theorem test_decode_matrix : reads [
    (64, 0x000A08030100DE20, .mma g .p4 3 (r 4) (r 6) (some (r 8))),
    (128, 0x0002FFFF000900000F0400030100DE26, .mloop g .p7 3 (r 4) (r 6) none 15 0xFFFF 0x0002 0x0009),
    (64, 0x000E00000000DE28, .acz g 3 7),
    (128, 0x0000010000200000001E09030100DE2E, .acdr g 3 (r 4) (some (r 6)) (some (r 9)) true true false 0x100 0x20),
    (128, 0x0000000000000000000000000100DE2E, .acdr g 3 (r 4) none none false false false 0 0),
    (128, 0xFFFFFF0000400000000000000100DE32, .acld g 3 (r 4) 0xFFFFFF00 0x40),
    (96, 0x000000020000000000011E35, .mwait g 4 (.imm 2))] = true := by decide
theorem test_decode_sync_1 : reads [
    (64, 0x0000000000001E40, .bar g),
    (64, 0x0000000001401E44, .cbar g (ri 5)),
    (96, 0x000000C80002000000011E49, .arv g 4 (some (.imm 200))),
    (64, 0x0000000000011E48, .arv g 4 none),
    (64, 0x0002000301401E4C, .awt g (r 5) (some (ri 6))),
    (96, 0x000001050000000000001E51, .sput g (.imm 0x0105)),
    (64, 0x0000000001401E54, .sget g (ri 5)),
    (64, 0x0002000001401E58, .swait g true (ri 5)),
    (64, 0x0906000001419E5C, .marke g true 6 9 (some (r 5))),
    (64, 0x3F00000000019E60, .markf g false 6 63 none),
    (64, 0x1F00000001811E64, .feq g false 4 6 31),
    (64, 0x0002000381401E80, .rstv g true (r 5) (r 7) none),
    (128, 0x00000080000000180000000381401E82, .rstv g false (r 5) (r 7) (some (0x80, true))),
    (128, 0x00000000000000000004000301401E86, .rstk g false true (r 5) (r 6) (some false)),
    (64, 0x0006000001401E88, .rsig g true true (r 5) none),
    (64, 0x0002000001411E8C, .chq g true 4 (ri 5))] = true := by decide
theorem test_decode_sync_2 : reads [
    (96, 0x0000003F0004000000011E8D, .chqClr g 4 (.imm 63)),
    (64, 0x0554000381811E90, .chgive g 0x2A 5 4 (r 6) (r 7)),
    (64, 0x00AA000001811E90, .chgiveRev g 0x15 4 (r 6)),
    (64, 0x0000000001411E94, .hmqTeam g 4 (ri 5)),
    (64, 0x0002000001411E94, .hmqLive g 4 (ri 5))] = true := by decide
theorem test_decode_collectives : reads [
    (96, 0x000000200000000001811EA1, .coll g 4 (r 6) (some 32)),
    (64, 0x0002000001411EA4, .collw g true 4 (ri 5)),
    (96, 0x000000030006000000011EA9, .collq g .fault 4 (.imm 3)),
    (128, 0x00000040000500A00000080301001EAE, .rcpy g 5 (r 4) (r 6) (r 8) 0x40 .uncached),
    (64, 0x0006000001411EB0, .rcpyw g true true 4 (ri 5))] = true := by decide
theorem test_decode_launch : reads [
    (128, 0x00000040000000000000000001811EC2, .launch g 4 (r 6) (some 0x40)),
    (64, 0x0002000001411EC4, .lwait g true 4 (r 5)),
    (64, 0x0004000001411EC8, .lqry g .done 4 (r 5)),
    (64, 0x0000000000001ECC, .yield g),
    (96, 0x000003E80000000000001ED1, .sleep g (.imm 1000)),
    (64, 0x0000000000001ED4, .rgn g),
    (64, 0x0000000000001ED8, .rgnx g),
    (64, 0x0000000001411EDC, .tmig g 4 (ri 5)),
    (64, 0x0002000001411EE0, .flxcfg g true 4 (ri 5)),
    (64, 0x0016000000011EE4, .flxq g .passes true 4)] = true := by decide
theorem test_decode_system : reads [
    (64, 0x00FE000000001F00, .sysc g 0x7F),
    (64, 0x0000000000002F04, .rte ⟨3, true⟩),
    (96, 0x000001060000000000015F09, .mfs g false 5 0x106),
    (96, 0x000001000002000001801F0D, .mts g true (r 6) 0x100),
    (96, 0x000001060000000001401F0D, .pwstatReopen g (r 5)),
    (96, 0x0000010D0000000001401F0D, .elhdWrite g (r 5)),
    (64, 0x0000000381001F10, .tlbiRange g (r 4) (r 7)),
    (64, 0x0002000000001F10, .tlbiAll g),
    (64, 0x0000000001411F14, .ctxsv g 4 (r 5)),
    (64, 0x0000000001411F18, .ctxld g 4 (r 5)),
    (96, 0x000000020000000000011F1D, .intr g 4 (.imm 2)),
    (64, 0x0000000001411F20, .halt g 4 (r 5)),
    (96, 0x000000060000000001411F25, .prio g 4 (r 5) (.imm 6)),
    (64, 0x0054000401815F28, .chset g 0x2A 5 (r 6) (r 8))] = true := by decide
theorem test_decode_fabric : reads [
    (64, 0x0000000000011F40, .timeNow g 4),
    (64, 0x0002000000015F40, .timeSkew g 5),
    (64, 0x0000000000011F44, .cycClk g 4),
    (64, 0x0002000000015F44, .cycFreq g 5),
    (64, 0x0004000000015F44, .cycSteps g 5),
    (128, 0x000001000006002000000C0502015F4A, .tsnd g 5 6 (r 8) (r 10) (r 12) 0x100 .normal),
    (64, 0x0000000381001F4C, .slotw g (r 4) (r 7)),
    (64, 0x0000000001815F50, .linkcSt g 5 (ri 6)),
    (64, 0x0002000001801F50, .linkcOn g (r 6)),
    (64, 0x0004000000001F50, .linkcOff g),
    (64, 0x0006000000015F50, .linkcCst g 5),
    (64, 0x0000000001815F54, .cnq g 5 (ri 6))] = true := by decide
/-! ### Words execute normally -/

/-- Every word of a list executes normally in a state. -/
def normals (s : State) (l : List Instr) : Bool := l.all fun i => (normal i s).isSome

theorem test_normal_control_1 : normals (boot .gen) [
    .nop g .w64, .nop ⟨2, true⟩ .w96, .bra g 0xFFFFFFF0, .brx g (r 4), .call g 6 0x40, .callx g 6 (r 9), .ret g (r 6) 3,
    .ifThen true 3 0x20, .elseDo 0x24, .endIf, .loop 0x28, .brk g 2, .cont g 62, .endLoop 0xFFFFFFE0, .exit ⟨1, true⟩,
    .trap g 0x55] = true := by decide
theorem test_normal_control_2 : normals (boot .gen) [
    .bpt g] = true := by decide
theorem test_normal_uniform_1 : normals (boot .gen) [
    .kmov g true 4 (r 6), .kli g false 5 (.i32 0x12345678), .kli g true 6 (.i64 0x123456789ABCDEF0),
    .kadd g false 4 (r 5) (ri 6), .ksub g false 4 (r 5) (ri 6), .kmul g false 4 (r 5) (ri 6), .kand g false 4 (r 5) (ri 6),
    .kor g false 4 (r 5) (ri 6), .kxor g false 4 (r 5) (ri 6), .kshl g false 4 (r 5) (ri 6), .kshr g false 4 (r 5) (ri 6),
    .ksra g false 4 (r 5) (ri 6), .kmin g true true 4 (r 6) (ri 8), .kmax g false false 4 (r 6) (.imm 9),
    .kcmp g .le true false 3 (r 6) (ri 8), .ksel g true 4 (r 6) (ri 8) 5] = true := by decide
theorem test_normal_uniform_2 : normals (boot .gen) [
    .vtok g false 4 (r 200), .kbc g true 201 (r 4), .movs g false 9 .depth] = true := by decide
theorem test_normal_integer_1 : normals (boot .gen) [
    .iadd g .n32 true 4 (r 5) (ri 6), .isub g .i64 false 4 (r 5) (.imm 7), .imul g .n32 .wide 4 (r 5) (ri 6),
    .imad g .i32 true 4 (r 5) (ri 6) (r 8), .idiv g .n64 4 (r 5) (ri 7), .irem g .i32 4 (r 5) (ri 7),
    .imin g .i64 4 (r 5) (ri 7), .imax g .n32 4 (r 5) (ri 7), .iabs g .i32 true 4 (r 5), .ineg g .n64 false 4 (r 5),
    .isad g .n32 4 (r 5) (ri 6) (r 7), .icmp g .ge .i64 3 (r 5) (ri 7), .isel g true 4 (r 6) (ri 8) 5,
    .and g false 4 (r 6) (ri 8), .or g true 4 (r 6) (ri 8), .xor g false 4 (r 6) (ri 8)] = true := by decide
theorem test_normal_integer_2 : normals (boot .gen) [
    .andn g true 4 (r 6) (ri 8), .orn g false 4 (r 6) (ri 8), .xnor g true 4 (r 6) (ri 8), .not g true 4 (r 6),
    .tern g 4 (r 5) (r 6) (r 7) 0xCA, .shl g false 4 (r 5) (ri 6), .shr g true 4 (r 5) (ri 6), .sra g false 4 (r 5) (.imm 31),
    .rot g true true 4 (r 5) (ri 6), .fshl g 4 (r 5) (r 6) (ri 7), .fshr g 4 (r 5) (r 6) (.imm 8), .popc g false 4 (r 6),
    .clz g true 4 (r 6), .ctz g false 4 (r 6), .brev g true 4 (r 6), .bfx g true 4 (r 5) (ri 6)] = true := by decide
theorem test_normal_integer_3 : normals (boot .gen) [
    .bfi g 4 (r 5) (ri 6) (r 7), .bmsk g 4 (ri 6), .permb g 4 (r 5) (r 6) (ri 7), .lea g true false 5 4 (r 6) (ri 8),
    .lea g false true 2 4 (r 6) (ri 9)] = true := by decide
theorem test_normal_packed : normals (boot .gen) [
    .padd g true false true 4 (r 5) (ri 6), .psub g true false true 4 (r 5) (ri 6), .pmul g true false true 4 (r 5) (ri 6),
    .pmin g false true 4 (r 5) (ri 6), .pmax g false true 4 (r 5) (ri 6), .pavg g false true 4 (r 5) (ri 6),
    .pshl g true 4 (r 5) (ri 6), .pshr g true 4 (r 5) (ri 6), .psra g true 4 (r 5) (ri 6),
    .pcmp g .ne true true 4 (r 5) (ri 6), .drawc g (r 5) (.imm 3), .draw g 4 (r 5) (ri 6), .mov g false 4 (.reg (r 5)),
    .mov g false 4 (.i32 0xDEADBEEF), .mov g true 4 (.i64 0xFEDCBA9876543210)] = true := by decide
theorem test_normal_float_1 : normals (boot .gen) [
    .fadd g .rup 4 (r 5) (ri 6), .fsub g .rdn 4 (r 5) (ri 6), .fmul g .rne 4 (r 5) (.imm 0x3F800000),
    .ffma g .rtz 4 (r 5) (ri 6) (r 7), .fdiv g .rne 4 (r 5) (ri 6), .fmin g true 4 (r 5) (ri 6), .fmax g false 4 (r 5) (ri 6),
    .fcmp g .ne true 3 (r 5) (ri 6), .fcmp g .nan false 3 (r 5) (ri 6), .fclass g 4 (r 5), .frcp g .rtz 4 (r 5),
    .fsqrt g .rup 4 (r 5), .frsq g 4 (r 5), .fexp2 g 4 (r 5), .flog2 g 4 (r 5), .fsin g 4 (r 5)] = true := by decide
theorem test_normal_float_2 : normals (boot .gen) [
    .fcos g 4 (r 5), .ftanh g 4 (r 5), .xadd2 g true .rtz 4 (r 5) (ri 6), .xmul2 g false .rne 4 (r 5) (ri 6),
    .xfma2 g true .rdn 4 (r 5) (ri 6) (r 7), .cvtfi g .n16 .rtz 4 (r 5), .cvtif g .i64 .rup 4 (r 5),
    .cvtff g .e4m3 .rtz true 4 (r 5) (r 6), .cvtffWide g .e2m1 7 4 (r 5), .cvtbk g .sx4 .rdn true 4 (r 5),
    .cvtbkWide g .sx7 4 (r 5), .fscale g .rtz 4 (r 5) (ri 6), .fround g .rdn 4 (r 5), .ffrac g .rne 4 (r 5)] = true := by decide
theorem test_normal_lanes : normals (boot .gen) [
    .shfl g .down 5 4 (r 5) (ri 6) 3, .vote g .ballot true true 4 3, .lred g .fmax true 4 (r 5), .lscan g .xor true 4 (r 5),
    .lmatch g false true 4 (r 5), .momz g 3, .momu g 3 (r 5), .momw g 3 (r 5) (ri 6), .momm g 3 4 5, .momd g .svar 4 5,
    .momd g (.rstd (ri 6)) 4 5, .momn g 4 (r 5) 6 (ri 7), .momld g 3 (r 4) 0xFFFFFFF0, .momst g (r 4) 5 0x10,
    .momq g .status true 4 5] = true := by decide
theorem test_normal_memory : normals (boot .gen) [
    .ld g .b32 4 (.vpair (r 2)) (.ext 0 .dflt .weak .none) (some 1), .ld g .i16 4 (.scr (r 2)) (.imm 0xFFFFFFFC) none,
    .ld g .b128 4 (.kpair (r 2)) .none none, .st g .b64 (.vpair (r 2)) (.ext 0x40 .die .rel .uncached) (r 6),
    .ldk g .b64 4 (r 6) (.ext 0 .gang .rlx .normal), .stk g .n16 (r 6) (.imm 6) (r 9), .pft g true (.vpair (r 4)) (.imm 0x80),
    .pgreq g 3 (.kpair (r 4)) none, .xlat g true 6 (.vpair (r 5)) (some 8), .cctlIinv g (r 4) (r 7) (some 16),
    .cctlL1wb g (r 4) (r 7) none, .cctlL1inv g (r 4) (r 7) (some 16), .cctlL2evict g (r 4) (r 7) none,
    .pin g 3 (r 4) (r 7) none, .unpin g 3 (r 4) (r 7) (some 128)] = true := by decide
theorem test_normal_ordering : normals (boot .gen) [
    .ared g (.fadd .f16) (.kpair (r 4)) .none (r 6), .ared g (.int .min .i64) (.vpair (r 4)) .none (r 6),
    .atom g .exch .n64 4 (.kpair (r 6)) .none (r 8), .atom g .max .i32 4 (.vpair (r 6)) (.ext 0x20 .sys .acq .none) (r 8),
    .acas g true 4 (.scr (r 6)) (.imm 4) (r 8) (r 10), .afadd g .bf16 4 (.vpair (r 6)) .none (r 8), .fence g .rel .fab,
    .xfence g, .waitln g .ne true true 3 (.kpair (r 4)) (r 6) 0x40 0x1234 .pod .acq, .cwb g true (.scr (r 4)) none,
    .cpub g (.kpair (r 4)) (some 64), .tkq g 6 (.vpair (r 4)) none, .bias g true 3 (r 4) (r 7) none] = true := by decide
theorem test_normal_copy : normals (boot .gen) [
    .cpy g .bf16 .p7 true .rdn true 11 (r 4) (r 6) (r 8) 0xFFFFFE00 .stream,
    .cpyg g .e4m3 .rtz false 5 (r 4) (r 6) (r 8) .persist, .cpys g .sx4 .rne false 15 (r 4) (r 6) (r 8) 0x100 .noalloc,
    .cpyw g true 4 (.imm 0x8001), .cpyq g .addr 4 (ri 5), .cpyq g .sbfree 4 (.imm 0), .cpyqClr g 4 (ri 5)] = true := by decide
theorem test_normal_matrix : normals (boot .gen) [
    .mma g .p4 3 (r 4) (r 6) (some (r 8)), .acz g 3 7, .acdr g 3 (r 4) (some (r 6)) (some (r 9)) true true false 0x100 0x20,
    .acdr g 3 (r 4) none none false false false 0 0, .acld g 3 (r 4) 0xFFFFFF00 0x40, .mwait g 4 (.imm 2)] = true := by decide
theorem test_normal_matrix_mtx : normals (boot .mtx) [
    .mloop g .p7 3 (r 4) (r 6) none 15 0xFFFF 0x0002 0x0009] = true := by decide
theorem test_normal_sync_1 : normals (boot .gen) [
    .bar g, .cbar g (ri 5), .arv g 4 (some (.imm 200)), .arv g 4 none, .awt g (r 5) (some (ri 6)), .sput g (.imm 0x0105),
    .sget g (ri 5), .swait g true (ri 5), .marke g true 6 9 (some (r 5)), .markf g false 6 63 none, .feq g false 4 6 31,
    .rstv g true (r 5) (r 7) none, .rstv g false (r 5) (r 7) (some (0x80, true)), .rstk g false true (r 5) (r 6) (some false),
    .rsig g true true (r 5) none, .chq g true 4 (ri 5)] = true := by decide
theorem test_normal_sync_2 : normals (boot .gen) [
    .chqClr g 4 (.imm 63), .chgive g 0x2A 5 4 (r 6) (r 7), .chgiveRev g 0x15 4 (r 6), .hmqTeam g 4 (ri 5), .hmqLive g 4 (ri 5)] = true := by decide
theorem test_normal_collectives : normals (boot .gen) [
    .collw g true 4 (ri 5), .collq g .fault 4 (.imm 3), .rcpy g 5 (r 4) (r 6) (r 8) 0x40 .uncached,
    .rcpyw g true true 4 (ri 5)] = true := by decide
theorem test_normal_collectives_link : normals (boot .link) [
    .coll g 4 (r 6) (some 32)] = true := by decide
theorem test_normal_launch : normals (boot .gen) [
    .launch g 4 (r 6) (some 0x40), .lwait g true 4 (r 5), .lqry g .done 4 (r 5), .yield g, .sleep g (.imm 1000), .rgn g,
    .rgnx g, .tmig g 4 (ri 5), .flxcfg g true 4 (ri 5), .flxq g .passes true 4] = true := by decide
theorem test_normal_system : normals (boot .gen) [
    .sysc g 0x7F, .rte ⟨3, true⟩, .mfs g false 5 0x106, .mts g true (r 6) 0x100, .pwstatReopen g (r 5), .elhdWrite g (r 5),
    .tlbiRange g (r 4) (r 7), .tlbiAll g, .ctxsv g 4 (r 5), .ctxld g 4 (r 5), .intr g 4 (.imm 2), .halt g 4 (r 5),
    .prio g 4 (r 5) (.imm 6), .chset g 0x2A 5 (r 6) (r 8)] = true := by decide
theorem test_normal_fabric : normals (boot .gen) [
    .timeNow g 4, .timeSkew g 5, .cycClk g 4, .cycFreq g 5, .cycSteps g 5, .tsnd g 5 6 (r 8) (r 10) (r 12) 0x100 .normal,
    .slotw g (r 4) (r 7), .linkcSt g 5 (ri 6), .linkcOn g (r 6), .linkcOff g, .linkcCst g 5, .cnq g 5 (ri 6)] = true := by decide
/-! ### Helpers for witnesses -/

/-- The machine after `boot .gen`. -/
def gen : State := boot .gen
/-- Gang 0's registers changed. -/
def regs (s : State) (f : Regs → Regs) : State := s.modRegs 0 f
/-- A handler address for the tenant. -/
def handled (s : State) : State := s.modTenant 0 fun t => { t with tvec := 0x20000 }
/-- A word executes normally and its context has a property. -/
def on (i : Instr) (s : State) (p : Ctx → Bool) : Bool :=
  match normal i s with
  | some c => p c
  | none => false
/-- The lanes below `n` at one nesting depth, the others at another. -/
def depths (n a b : Nat) (s : State) : State := regs s fun x => x.mapC fun l => if l < n then a else b
/-- A property of every lane. -/
def lanewise (p : Nat → Bool) : Bool := (List.range 32).all p
/-- A scratchpad pointer. -/
def scr (n : Nat) : DWord := BitVec.ofNat 64 (2 ^ 60 + n)

/-! ### Witnesses: registers and control flow -/

theorem witness_GuardedOffWords : (guardedOff (.kadd ⟨0, false⟩ false 4 (r 5) (ri 6)) gen).isSome = true ∧
    (guardedOff (.mma g .p2 3 (r 4) (r 6) none) (depths 32 1 1 gen)).isSome = true := by decide
theorem witness_DrawReadsStream : (on (.draw g 4 (r 5) (.imm 32)) gen fun c =>
      lanewise fun l => !c.emask.getLsbD l || (c.r.srcI (.imm 32) l).toNat ≤ 32) = true ∧
    (on (.draw g 254 (r 5) (.imm 0)) (depths 31 1 0 gen) fun c =>
      lanewise fun l => !c.emask.getLsbD l || (c.r.srcI (.imm 0) l).toNat ≤ 32) = true := by decide
/-- v6 is 33 in the lanes from `n` up. -/
def widths (n : Nat) (s : State) : State := regs s (·.setV 6 (BitVec.allOnes 32) fun l => if n ≤ l then 33 else 7)
/-- What the trap of the lanes in which DRAW's width is too large comes to. -/
def drawn (n : Nat) (p : Bool × State → Bool) : Bool := on (.draw g 4 (r 5) (ri 6)) (handled (widths n gen)) fun c =>
  p (c.laneTrap (((lanesOf c.emask).filter fun l => 32 < (c.r.srcI (ri 6) l).toNat).map fun l => ⟨l, 0x14, 0, 0⟩)
    ((handled (widths n gen)).advance c))
theorem witness_DrawReadsStream_trap :
    drawn 0 (fun x => !x.1) = true ∧ drawn 31 (fun x => x.1 && (x.2.gang? 0).any fun G => G.tr1.active && G.tr1.code = 0x14) = true := by
  decide
theorem witness_StructureCounters_depth :
    (on (.ifThen false 1 0x20) (depths 31 62 0 gen) fun c => lanewise fun l => !c.slotLanes.getLsbD l ||
      (if 0 < c.r.c l then c.r.c l + 1 else if (c.r.p 1).getLsbD l != false then 0 else 1) ≤ 63) = true ∧
    (on (.loop 0x20) (depths 31 61 0 gen) fun c => lanewise fun l => !c.slotLanes.getLsbD l ||
      (if 0 < c.r.c l then c.r.c l + 2 else 0) ≤ 63) = true := by decide
theorem witness_NestingDepthTrap :
    (on (.ifThen false 1 0x20) (handled (depths 31 1 63 gen)) fun c => !c.record.active && c.tvec (handled gen) ≠ 0 &&
      c.slotLanes.getLsbD 31 && c.r.c 31 = 63) = true ∧
    (on (.loop 0x20) (handled (depths 1 62 0 gen)) fun c => !c.record.active && c.slotLanes.getLsbD 0 && 62 ≤ c.r.c 0) = true := by
  decide
theorem witness_UniformBranches :
    (on (.brx g (r 8)) (regs gen (·.setK2 8 0xFFFFFFFFFFFFC)) fun c => codeOk (c.r.ks2 (r 8))) = true ∧
    (on (.brx g (r 8)) (handled (regs gen (·.setK2 8 0x10000000000000))) fun c => !codeOk (c.r.ks2 (r 8)) && !c.record.active &&
      c.tvec (handled gen) ≠ 0) = true := by decide

/-- A function header of 64 registers at 0x10038. -/
def withFn (s : State) : State := { s with mem := writeBytes s.mem (memKey 0 0x10038) (toBytes 8 0x203FC) }
/-- The checks of a call's targets pass. -/
def good (t : Targets) : Bool :=
  match t with
  | .ok [] _ _ => true
  | _ => false
theorem witness_CallsAndReturns_call :
    (on (.call g 6 0x40) (withFn gen) fun c => c.emask ≠ 0 &&
      good (c.targets (fun _ => c.rel 0x40) (lanesOf c.emask) ((withFn gen).advance c))) = true ∧
    (on (.callx g 6 (r 4)) (withFn (depths 31 62 0 (regs gen (·.setV2 4 (BitVec.allOnes 32) fun _ => 0x10040)))) fun c =>
      c.emask ≠ 0 && (lanewise fun l => !c.slotLanes.getLsbD l || c.amask.getLsbD l || c.r.c l ≠ 63) &&
      (lanewise fun l => !c.emask.getLsbD l || c.r.src2 (r 4) l = 0x10040) &&
      good (c.targets (fun l => c.r.src2 (r 4) l) (lanesOf c.emask) ((withFn gen).advance c))) = true := by decide
/-- A second header at 0x10078, and each lane's target in v4: 0x10080 from lane `m` up, 0 from lane `n` up. -/
def targeted (m n : Nat) (s : State) : State :=
  let s := withFn (regs s (·.setV2 4 (BitVec.allOnes 32) fun l => if n ≤ l then 0 else if m ≤ l then 0x10080 else 0x10040))
  handled { s with mem := writeBytes s.mem (memKey 0 0x10078) (toBytes 8 0x203FC) }
/-- What the targets of CALLX are found to be. -/
def aims (s : State) (p : Ctx → List LaneFault → List (Nat × DWord) → State → Bool) : Bool := on (.callx g 6 (r 4)) s fun c =>
  match c.targets (fun l => c.r.src2 (r 4) l) (lanesOf c.emask) (s.advance c) with
  | .ok bad good t => p c bad good t
  | .wait _ => false
/-- Whether the targets that passed differ. -/
def differ (good : List (Nat × DWord)) : Bool := good.any fun p => good.any fun q => p.2 ≠ q.2
/-- A secondary slot of a kind whose group calls through v4 at 0x100F8. -/
def beside (kind : BitVec 2) (s : State) : State := regs s fun x =>
  { x with sec := ⟨0x100F8, 0xFFFF0000, true, kind, 4⟩, pri := { x.pri with lmask := 0xFFFF } }
theorem witness_CallsAndReturns_targets :
    (on (.callx ⟨1, false⟩ 6 (r 4)) gen fun c => c.emask = 0) = true ∧
    aims (targeted 1 32 gen) (fun c bad good _ => bad.isEmpty && differ good && !c.r.sec.valid) = true ∧
    ([1, 2] : List (BitVec 2)).all (fun k => aims (beside k (targeted 1 32 gen)) fun c bad good _ => bad.isEmpty && differ good &&
      c.r.sec.valid && c.r.sec.kind = k && !c.record.active && c.tvec (targeted 1 32 gen) ≠ 0) = true := by decide
theorem witness_CallsAndReturns_bad :
    aims (targeted 32 0 gen) (fun c bad good t => good.isEmpty && !(c.laneTrap bad t).1) = true ∧
    aims (depths 31 0 1 (targeted 32 0 gen)) (fun c bad good t => good.isEmpty && (c.laneTrap bad t).1) = true ∧
    aims (targeted 32 31 gen) (fun c bad good t => (c.laneTrap bad t).1 && !good.isEmpty && !differ good) = true ∧
    aims (targeted 1 31 gen) (fun c bad good t => (c.laneTrap bad t).1 && differ good) = true := by decide
theorem witness_CallsAndReturns_dispatch :
    (on (.ret g (r 6) 0) (beside 2 (regs (targeted 32 32 gen) (·.setK2 6 0x10100))) fun c => c.amask &&& ~~~c.emask = 0 &&
      codeOk (c.r.ks2 (r 6)) && c.r.sec.valid && c.r.sec.kind = 2 && c.r.sec.pc + 8 = c.r.ks2 (r 6) &&
      (match c.dispatch ((beside 2 (regs (targeted 32 32 gen) (·.setK2 6 0x10100))).advance c) with
        | .go grp t _ => grp = 0xFFFF0000 && t = 0x10040
        | _ => false)) = true ∧
    (on (.ret g (r 6) 0) (handled (regs gen (·.setK2 6 0x10002))) fun c => c.amask &&& ~~~c.emask = 0 && !codeOk (c.r.ks2 (r 6)) &&
      !c.record.active && c.tvec (handled gen) ≠ 0) = true := by decide
theorem witness_ExitLeaves_parked :
    (on (.exit g) (beside 2 (targeted 32 32 gen)) fun c => c.emask ≠ 0 && c.slotLanes &&& ~~~c.emask = 0 && !c.sec && c.r.sec.valid &&
      c.r.sec.kind = 2 &&
      (match ((beside 2 (targeted 32 32 gen)).advance c).publishCore c.core with
        | (true, s1) => (match c.dispatch s1 with
          | .go grp _ _ => grp = 0xFFFF0000
          | _ => false)
        | _ => false)) = true := by decide
theorem witness_CallsAndReturns_ret :
    (on (.ret ⟨1, false⟩ (r 6) 0) gen fun c => c.amask &&& ~~~c.emask ≠ 0) = true ∧
    (on (.ret g (r 6) 0) (regs gen (·.setK2 6 0x10000)) fun c => c.amask &&& ~~~c.emask = 0 && codeOk (c.r.ks2 (r 6)) &&
      !(c.r.sec.valid && c.r.sec.kind = 2 && c.r.sec.pc + 8 = c.r.ks2 (r 6))) = true := by decide

/-- The secondary slot issues. -/
def second (kind : BitVec 2) (s : State) : State := { regs s (fun x =>
  { x with sec := ⟨0x10100, 0xFFFF0000, true, kind, 0⟩, pri := { x.pri with lmask := 0xFFFF } }) with curSec := true }
theorem witness_ExitLeaves :
    (on (.exit ⟨1, false⟩) gen fun c => c.emask = 0) = true ∧
    (on (.exit g) (depths 1 1 0 gen) fun c => c.emask ≠ 0 && c.slotLanes &&& ~~~c.emask ≠ 0) = true ∧
    (on (.exit g) gen fun c => c.emask ≠ 0 && c.slotLanes &&& ~~~c.emask = 0 && !c.sec && !c.r.sec.valid && gen.accesses.isEmpty &&
      ((gen.advance c).publishCore c.core).1) = true ∧
    (on (.exit g) (second 1 gen) fun c => c.emask ≠ 0 && c.slotLanes &&& ~~~c.emask = 0 && c.sec) = true ∧
    (on (.exit g) { second 1 gen with curSec := false } fun c => c.emask ≠ 0 && c.slotLanes &&& ~~~c.emask = 0 && !c.sec &&
      c.r.sec.valid && c.r.sec.kind ≠ 2) = true := by decide
theorem witness_TrapWords :
    (on (.trap ⟨1, false⟩ 0x7F) gen fun c => c.emask = 0) = true ∧
    (on (.bpt g) (handled gen) fun c => c.emask ≠ 0 && !c.record.active && c.tvec (handled gen) ≠ 0) = true ∧
    (on (.bpt ⟨1, false⟩) gen fun c => c.emask = 0) = true := by decide
theorem witness_LaneTrapSplits :
    (on (.trap g 5) (handled (depths 1 0 1 gen)) fun c => c.emask ≠ 0 && !c.sec && !c.G.regs.sec.valid &&
      c.G.regs.pri.lmask &&& ~~~c.emask ≠ 0 && !c.G.tr1.active && c.tvec (handled gen) ≠ 0) = true ∧
    ([(gen, 0), (second 1 gen, 1)] : List (State × Nat)).all (fun x => on (.ldk g .b32 4 (r 8) .none) (handled x.1) fun c =>
      ((handled x.1).gang? c.gid).any fun G => ((handled x.1).team? G.team).any fun T =>
        ((handled x.1).tenant ((handled x.1).tenKey T)).tvec ≠ 0 && !G.tr0.active && !G.tr1.active &&
          (if x.2 = 0 then !c.sec && !G.regs.sec.valid && G.regs.pri.lmask &&& ~~~1 ≠ 0 else c.sec)) = true := by decide
theorem witness_SystemCallAndReturn :
    (on (.sysc g 0x7F) (handled gen) fun c => !c.record.active && c.tvec (handled gen) ≠ 0) = true ∧
    (on (.rte g) (gen.modGang 0 fun x => { x with tr0 := { x.tr0 with active := true, res := 0x10008 } }) fun c =>
      c.record.active && codeOk c.record.res) = true := by decide

/-! ### One step, from the spec's examples -/

/-- The gang's registers after an instruction. -/
def after (i : Instr) (s : State) : Option Regs :=
  match exec i s with
  | .next t => (t.gang? 0).map (·.regs)
  | _ => none
/-- A vector register of lane 0 after an instruction whose sources are v4, v5 and v6. -/
def gives (i : Instr) (a b c : Word) : Option Word :=
  (after i (regs gen fun x => ((x.setV 4 (BitVec.allOnes 32) fun _ => a).setV 5 (BitVec.allOnes 32) fun _ => b).setV 6
    (BitVec.allOnes 32) fun _ => c)).map fun x => x.v 9 0

/-- The table of R129: shift amounts out of range. -/
theorem test_shift_table :
    gives (.shl g false 9 (r 4) (.imm 31)) 1 0 0 = some 0x80000000 ∧ gives (.shr g false 9 (r 4) (.imm 32)) 0x80000010 0 0 = some 0 ∧
    gives (.sra g false 9 (r 4) (.imm 40)) 0x80000010 0 0 = some 0xFFFFFFFF ∧
    gives (.shl g false 9 (r 4) (ri 5)) 0x12348001 0x104 0 = some 0 ∧
    gives (.rot g false false 9 (r 4) (.imm 36)) 1 0 0 = some 0x10 ∧
    gives (.fshl g 9 (r 4) (r 5) (.imm 8)) 0xAB 0xCD000000 0 = some 0xABCD := by decide
/-- The tables named in R126. -/
theorem test_tern_tables :
    gives (.tern g 9 (r 4) (r 5) (r 6) 0x80) 0xF0F0F0F0 0xCCCCCCCC 0xAAAAAAAA = some 0x80808080 ∧
    gives (.tern g 9 (r 4) (r 5) (r 6) 0x96) 0xF0F0F0F0 0xCCCCCCCC 0xAAAAAAAA = some 0x96969696 ∧
    gives (.tern g 9 (r 4) (r 5) (r 6) 0xCA) 0xF0F0F0F0 0xCCCCCCCC 0xAAAAAAAA = some 0xCACACACA := by decide
/-! ### Witnesses: memory -/

/-- Uniform pairs: k8 a device pointer, k10 and k12 scratchpad pointers, k14 a pod pointer of this device. -/
def ptrs (s : State) : State := regs s fun x =>
  (((x.setK2 8 0x10000).setK2 10 (scr 0)).setK2 12 (scr 0x8000)).setK2 14 0x3000000000010000
/-- A memory word meets the hypotheses under which its accesses are performed or launched. -/
def accessible (s : State) (i : Instr) : Bool := on i s fun c =>
  match i.memReq c with
  | none => false
  | some q =>
    let s := s.advance c
    let q := c.armed q
    let p := c.publishFor q s
    !q.lanes.isEmpty && c.knows (c.reqPages q) s && (faultsOf (c.checks q s)).isEmpty && (c.memWait q (locsOf (c.checks q s)) s).isNone && p.1 &&
      (c.placeAll q (c.checks q s) (c.seenAll (c.reqPages q) p.2)).2.1
theorem witness_AccessWords_device : ([.ld g .b32 4 (.kpair (r 8)) .none none, .ld g .b64 4 (.kpair (r 8)) (.ext 8 .dflt .weak .none) (some 1),
    .st g .b32 (.kpair (r 8)) .none (r 4), .ldk g .b64 4 (r 8) .none, .stk g .b32 (r 8) .none (r 4)] : List Instr).all (accessible (ptrs gen)) = true := by
  decide
theorem witness_AccessWords_scratch : ([.momld g 3 (r 10) 0, .momst g (r 10) 3 0, .atom g .add .i32 4 (.scr (r 4)) .none (r 6),
    .acas g false 4 (.scr (r 4)) .none (r 6) (r 7), .afadd g .f32 4 (.scr (r 4)) .none (r 6), .ared g (.int .add .i32) (.scr (r 4)) .none (r 6)] : List Instr).all
    (accessible (ptrs gen)) = true := by decide
/-- k16 a pointer that is out of range, and v6 one in the lanes from `n` up, with the handler set. -/
def badPtr (n : Nat) (s : State) : State := handled (regs (ptrs s) fun x =>
  (x.setK2 16 0x10000000000000).setV2 6 (BitVec.allOnes 32) fun l => if n ≤ l then 0x10000000000000 else 0x10000)
/-- A memory word some of whose lanes fault, and whether lanes are left and accesses placed. -/
def faulting (s : State) (i : Instr) (p : MemReq → Bool → Bool → Bool) : Bool := on i s fun c =>
  match i.memReq c with
  | none => false
  | some q =>
    let s1 := s.advance c
    let q := c.armed q
    let r := c.publishFor q s1
    let f := c.faultReq q (faultsOf (c.checks q s1)) r.2
    let pl := c.placeAll q (c.checks q s1) (c.seenAll (c.reqPages q) f.2)
    !q.lanes.isEmpty && c.knows (c.reqPages q) s1 && !(faultsOf (c.checks q s1)).isEmpty &&
      (c.memWait q (locsOf (c.checks q s1)) s1).isNone && r.1 && pl.2.1 && p q f.1 pl.1.isEmpty
theorem witness_AccessWords_faults :
    faulting (badPtr 32 gen) (.ldk g .b32 4 (r 16) .none) (fun q left _ => q.uni && !left) = true ∧
    faulting (badPtr 0 gen) (.ld g .b32 4 (.vpair (r 6)) .none none) (fun q left _ => !q.uni && !left) = true ∧
    faulting (badPtr 31 gen) (.ld g .b32 4 (.vpair (r 6)) .none none) (fun q left empty => !q.uni && left && !empty) = true ∧
    faulting (depths 31 0 1 (badPtr 0 gen)) (.ld g .b32 4 (.vpair (r 6)) .none none) (fun q left empty => !q.uni && left && empty) = true := by
  decide
theorem witness_AccessWords_no_lane : (on (.st ⟨1, false⟩ .b32 (.scr (r 4)) .none (r 6)) gen fun c =>
    c.emask = 0 && (c.stReq .b32 (.scr (r 4)) .none (r 6)).lanes.isEmpty) = true := by decide

/-- v4 the byte offset of each lane's word. -/
def strided (s : State) : State := regs s (·.setV 4 (BitVec.allOnes 32) fun l => BitVec.ofNat 32 (4 * l))
/-- The hypotheses on each lane's scratchpad pointer. -/
def inScratchpad (c : Ctx) (base : Base) (off : MOff) (n : Nat) : Bool := lanewise fun l => !c.emask.getLsbD l ||
  (ptrSpace (c.r.addr base off.off l) = 1 && (c.preCheck (c.r.addr base off.off l) n l).isNone)
theorem witness_ScratchStore : (on (.st g .b32 (.scr (r 4)) (.imm 0xFF80) (r 6)) (strided gen) fun c =>
    let s := strided gen
    let q := c.armed (c.stReq .b32 (.scr (r 4)) (.imm 0xFF80) (r 6))
    c.emask ≠ 0 && inScratchpad c (.scr (r 4)) (.imm 0xFF80) 4 &&
    (c.memWait q ((lanesOf c.emask).map fun l => .scr (ptrAddr (c.r.addr (.scr (r 4)) (.imm 0xFF80 : MOff).off l))) (s.advance c)).isNone &&
    decide (c.publishFor q (s.advance c) = (true, s.advance c))) = true := by decide
theorem witness_ScratchLoad : (on (.ld g .b32 6 (.scr (r 4)) (.ext 0 .dflt .acq .none) (some 1)) (strided gen) fun c =>
    let s := strided gen
    let q := c.ldReq .b32 6 (.scr (r 4)) (.ext 0 .dflt .acq .none) (some 1)
    c.emask ≠ 0 && inScratchpad c (.scr (r 4)) (.ext 0 .dflt .acq .none) 4 &&
    (c.memWait q ((lanesOf c.emask).map fun l => .scr (ptrAddr (c.r.addr (.scr (r 4)) 0 l))) (s.advance c)).isNone) = true := by decide

/-- k7 a length of 256 bytes. -/
def long (s : State) : State := regs (ptrs s) (·.setK 7 256)
theorem witness_PrefetchAndCacheControl_skips :
    (on (.cctlIinv ⟨1, false⟩ (r 8) (r 7) none) (long gen) fun c => c.emask = 0) = true ∧
    (on (.cctlL2evict g (r 10) (r 7) none) (long gen) fun c => ptrSpace (c.kaddr (r 10) (offOf none)) = 1) = true := by decide
/-- A cache-control word on a good pointer of a page that is known. -/
def ranged (i : Instr) (s : State) (p : Ctx → List (Nat × Nat × Nat) → State → Bool) : Bool := on i s fun c =>
  let a := c.kaddr (r 8) (offOf none)
  let n := (c.r.ks (r 7)).toNat
  decide (lowLane c.emask = some 0) && decide (ptrSpace a = 0) && (ptrCause a c.C.scratchBytes c.C.lr.privsz).isNone &&
    c.knows (c.rangePages a 0 n) (s.advance c) && p c (c.physParts (s.advance c) a 0 n) (s.advance c)
theorem witness_PrefetchAndCacheControl_range : ranged (.cctlIinv g (r 8) (r 7) none) (long gen) (fun _ l _ => linesOf l = [512, 513]) = true ∧
    ranged (.cctlL2evict g (r 8) (r 7) none) (long gen) (fun _ l _ => linesOf l = [512, 513]) = true ∧
    [false, true].all (fun inv => ranged (if inv then .cctlL1inv g (r 8) (r 7) none else .cctlL1wb g (r 8) (r 7) none) (long gen)
      fun c l s => (c.l1Back inv l s).1) = true ∧
    (on (.pft g true (.kpair (r 8)) (.imm 64)) (long gen) fun c =>
      let ls := c.pftLanes (.kpair (r 8)) (.imm 64) c.emask
      decide (ls.length = 32) && c.knows (c.lanePages (c.r.addr (.kpair (r 8)) (.imm 64 : MOff).off) ls) ((long gen).advance c)) = true := by
  decide
/-- The cause for which a uniform pointer of a word is bad, when the word may trap in its lanes. -/
def badFor (i : Instr) (s : State) (k : RegNum) (cause : Option Nat) : Bool := on i s fun c =>
  let p := c.kaddr (r k) (offOf none)
  c.emask ≠ 0 && ptrSpace p ≠ 1 && ptrSpace p ≠ 6 && decide (ptrCause p c.C.scratchBytes c.C.lr.privsz = cause)
/-- k18 a pointer of private memory, which this cohort has none of, and k20 one of the pod. -/
def odd (s : State) : State := regs (badPtr 0 s) fun x => (x.setK2 18 0x2000000000000000).setK2 20 0x3000000000010000
theorem witness_PrefetchAndCacheControl_traps :
    ([.cctlIinv g (r 16) (r 7) none, .cctlL2evict g (r 16) (r 7) none, .cctlL1wb g (r 16) (r 7) none, .cctlL1inv g (r 16) (r 7) none] :
      List Instr).all (fun i => badFor i (odd gen) 16 (some 1)) = true ∧
    badFor (.cctlIinv g (r 18) (r 7) none) (odd gen) 18 (some 3) = true ∧
    (on (.cctlL2evict g (r 18) (r 7) none) (odd gen) fun c => ptrSpace (c.kaddr (r 18) (offOf none)) = 2) = true := by decide
theorem witness_PinWords_traps :
    ([.pin g 4 (r 16) (r 7) none, .unpin g 4 (r 16) (r 7) none] : List Instr).all (fun i => badFor i (odd gen) 16 (some 1)) = true ∧
    ([.pin g 4 (r 20) (r 7) none, .unpin g 4 (r 20) (r 7) none] : List Instr).all (fun i => badFor i (odd gen) 20 none &&
      on i (odd gen) fun c => ptrSpace (c.kaddr (r 20) (offOf none)) = 3) = true := by decide
theorem witness_TranslationWords_traps :
    ([.pgreq g 1 (.kpair (r 16)) none, .xlat g true 4 (.kpair (r 16)) none] : List Instr).all (fun i => on i (odd gen) fun c =>
      let fs := c.badPtrs (c.r.addr (.kpair (r 16)) (offOf none))
      c.left fs = [] && c.emask ≠ 0 && !(c.laneTrap fs ((odd gen).advance c)).1) = true := by decide
/-- k16 a pointer of page 2, whose walk for gang 0 has found it not in memory. -/
def absent (s : State) : State := regs { s with walks := [⟨1, 0, 0, 0, 2, false, false, [0], some (.flt 2 1), none⟩] } (·.setK2 16 0x20000)
/-- A translation word on good pointers of known pages. -/
def translates (i : Instr) (s : State) (base : Base) (off : Option Word) (ls : Ctx → List Nat) (p : Ctx → List Page → State → Bool) : Bool :=
  on i s fun c =>
    let addr := c.r.addr base (offOf off)
    let ps := c.lanePages addr (ls c)
    (c.badPtrs addr).isEmpty && c.knows ps (s.advance c) && p c ps (s.advance c)
theorem witness_TranslationWords :
    translates (.pgreq g 1 (.kpair (r 8)) none) (ptrs gen) (.kpair (r 8)) none (fun c => lanesOf c.emask)
      (fun c ps s => ps ≠ [] && ps.all fun q => !c.pageGone s q) = true ∧
    translates (.pgreq g 1 (.kpair (r 16)) none) (absent gen) (.kpair (r 16)) none (fun c => lanesOf c.emask)
      (fun c ps s => ps.any (c.pageGone s) && (c.release s).1.isNone) = true ∧
    translates (.xlat g true 4 (.kpair (r 14)) (some 4)) (ptrs gen) (.kpair (r 14)) (some 4)
      (fun c => xlatLanes true (c.r.addr (.kpair (r 14)) (offOf (some 4))) (lanesOf c.emask)) (fun _ _ _ => true) = true := by
  decide
/-- Die 0 holds a token of each sector of the two lines of that range. -/
def held (s : State) : State := (List.range 4).foldl (fun s i => s.setHold (1024 + i) 0 { count := 1 }) s
theorem witness_PinWords :
    (on (.pin ⟨1, false⟩ 4 (r 8) (r 7) none) (long gen) fun c => c.emask = 0) = true ∧
    (on (.unpin ⟨1, false⟩ 4 (r 8) (r 7) none) (long gen) fun c => c.emask = 0) = true ∧
    ranged (.pin g 4 (r 8) (r 7) none) (held (long gen)) (fun c l s =>
      let x := pinFold c.pinLine (linesOf l) s
      x.1 && x.2.1 = 2) = true ∧
    ranged (.unpin g 4 (r 8) (r 7) none) (long gen) (fun c l s => (pinFold c.unpinLine (linesOf l) s).1) = true := by decide

/-- v5 holds `b` in every lane. -/
def comparand (b : Word) (s : State) : State := regs (strided s) (·.setV 5 (BitVec.allOnes 32) fun _ => b)
/-- The hypotheses of WAITLN but the relation and the time-out. -/
def watchable (i : Instr) (s : State) (p : Ctx → Bool) : Bool := on i s fun c =>
  inScratchpad c (.scr (r 4)) .none 4 && !s.acquireOut c.gid &&
  (lanewise fun l => !s.boarded c.tid (ptrAddr (c.r.addr (.scr (r 4)) 0 l)) (ptrAddr (c.r.addr (.scr (r 4)) 0 l) + 4)) && p c
theorem witness_FencesAndWaits :
    (on (.fence g .ar .sys) gen fun c => gen.accesses.isEmpty && ((gen.advance c).publishCore c.core).1) = true ∧
    (on (.fence g .acq .gang) gen fun c => gen.accesses.isEmpty && c.narrow .gang) = true ∧
    (on (.xfence g) gen fun c => !gen.storesOut c.gid && ((gen.advance c).publishCore c.core).1) = true ∧
    watchable (.waitln g .eq false false 1 (.scr (r 4)) (r 5) 0 0xFFFF .dflt .weak) (comparand 0 gen) (fun c =>
      lanewise fun l => (Rel.eq).holds (wval true 32 (ofBytes (readBytes c.T.scratch (4 * l) 4))) (wval true 32 (c.r.vN 5 1 l))) = true ∧
    watchable (.waitln g .ne false false 1 (.scr (r 4)) (r 5) 0 0 .dflt .acq) (comparand 0 gen) (fun c =>
      c.watchFrom.isNone) = true := by decide
theorem witness_CoherenceWords :
    ([.cwb g true (.kpair (r 8)) none, .cpub g (.kpair (r 8)) none, .tkq g 4 (.kpair (r 8)) none] : List Instr).all (fun i => on i (ptrs gen) fun c =>
      let addr := c.r.addr (.kpair (r 8)) (offOf none)
      let ls := cohLanes addr (lanesOf c.emask)
      let s := (ptrs gen).advance c
      (c.badPtrs addr).isEmpty && c.knows (c.lanePages addr ls) s && (c.pubLines (c.cohSectors addr ls s) s).1) = true ∧
    ([8, 14] : List RegNum).all (fun k => on (.bias g true 4 (r k) (r 7) none) (ptrs gen) fun c =>
      let p := c.kaddr (r k) (offOf none)
      (ptrCause p c.C.scratchBytes c.C.lr.privsz).isNone && (ptrSpace p = 0 || ptrSpace p = 3) && p.toNat % 65536 = 0 &&
        c.knows (c.biasPages p (c.r.ks (r 7)).toNat) ((ptrs gen).advance c)) = true := by decide
theorem witness_CoherenceWords_traps :
    ([(16, some 1, 0), (10, none, 1), (22, none, 0)] : List (RegNum × Option Nat × Nat)).all (fun x =>
      let s := regs (odd gen) (·.setK2 22 0x10001)
      on (.bias g true 4 (r x.1) (r 7) none) s fun c =>
        let p := c.kaddr (r x.1) (offOf none)
        decide (ptrCause p c.C.scratchBytes c.C.lr.privsz = x.2.1) && ptrSpace p = x.2.2 && (x.1 ≠ 22 || p.toNat % 65536 ≠ 0) &&
          !c.record.active && c.tvec s ≠ 0) = true := by decide

/-! ### Witnesses: engines -/

/-- k20 a copy geometry of one row of one block, k22 a remote one of one row of 16 bytes. -/
def geos (s : State) : State := regs (ptrs s) fun x => (x.setK2 20 0).setK2 22 0x10
/-- A copy word meets the hypotheses of CopyIssue. -/
def copies (i : Instr) : Bool := on i (geos gen) fun c =>
  match i.copyPlan c with
  | some (p, _, _, _, _) => (p.fail c.C.scratchBytes c.C.lr.privsz).isNone && (geos gen).xfers.length < 64 &&
      ((geos gen).advance c).boardRoom c.T p.board.length
  | none => false
theorem witness_CopyIssue : ([.cpy g .sx4 .p4 false .rne false 15 (r 8) (r 10) (r 20) 0 .none,
    .cpys g .f32 .rne false 0 (r 10) (r 8) (r 20) 0x100 .stream, .rcpy g 7 (r 10) (r 14) (r 22) 0 .none] : List Instr).all copies = true := by decide
theorem witness_CopyIssue_gather : (on (.cpyg g .f32 .rne false 3 (r 30) (r 10) (r 20) .none) (regs (geos gen) fun x =>
    ((x.setK2 30 0x10000).setK2 32 0x11000).setK2 34 0x12000) fun c =>
      match (Instr.cpyg g .f32 .rne false 3 (r 30) (r 10) (r 20) .none).copyPlan c with
      | some (p, _, _, _, _) => (p.fail c.C.scratchBytes c.C.lr.privsz).isNone
      | none => false) = true := by decide
/-- k24 an RCPY pointer into private memory. -/
def geosBad : State := handled (regs (geos gen) fun x => (x.setK2 24 0x2000000000000000).setK2 26 (scr 8))
theorem witness_CopyIssue_traps :
    (on (.cpy g .sx4 .p4 false .rne false 15 (r 8) (r 26) (r 20) 0 .none) geosBad fun c =>
      match (Instr.cpy g .sx4 .p4 false .rne false 15 (r 8) (r 26) (r 20) 0 .none).copyPlan c with
      | some (p, _, _, _, _) => (p.fail c.C.scratchBytes c.C.lr.privsz).isSome && !c.record.active && c.tvec geosBad ≠ 0
      | none => false) = true ∧
    (on (.rcpy g 7 (r 24) (r 14) (r 22) 0 .none) geosBad fun c => !rcpySpace (c.kaddr (r 24) 0)) = true ∧
    (on (.rcpy g 7 (r 10) (r 24) (r 22) 0 .none) geosBad fun c => rcpySpace (c.kaddr (r 10) 0) && !rcpySpace (c.r.ks2 (r 24)) &&
      (ptrCause (c.kaddr (r 10) 0) c.C.scratchBytes c.C.lr.privsz).isNone) = true := by decide
theorem witness_TimedSendIssue_traps :
    ([(24, 14), (10, 8), (26, 14)] : List (RegNum × RegNum)).all (fun x => on (.tsnd g 4 7 (r x.1) (r x.2) (r 8) 16 .none) geosBad fun c =>
      let a := c.r.ks2 (r x.1)
      let from_ : Bool := ptrSpace a = 0 || ptrSpace a = 1
      let to_ : Bool := ptrSpace (c.r.ks2 (r x.2)) = 3 || ptrSpace (c.r.ks2 (r x.2)) = 6
      !c.record.active && c.tvec geosBad ≠ 0 && from_ = (x.1 ≠ 24) && to_ = (x.2 ≠ 8) &&
        (x.1 ≠ 26 || ((tsndPlan a (c.r.ks2 (r x.2)) 16).fail c.C.scratchBytes c.C.lr.privsz).isSome)) = true := by decide
theorem witness_TimedSendIssue : (on (.tsnd g 4 7 (r 10) (r 14) (r 8) 16 .none) (ptrs gen) fun c =>
    let p := tsndPlan (c.r.ks2 (r 10)) (c.r.ks2 (r 14)) 16
    ptrSpace (c.r.ks2 (r 10)) = 1 && ptrSpace (c.r.ks2 (r 14)) = 3 && (p.fail c.C.scratchBytes c.C.lr.privsz).isNone &&
      ((ptrs gen).advance c).boardRoom c.T p.board.length) = true := by decide
/-- Gang 0's copy group 15 and remote group 7 hold a fault. -/
def faulted (s : State) : State := s.modGang 0 fun x => { x with
  cgrps := Store.set {} x.cgrps 15 { cause := 1, nflt := 1 }, rgrps := Store.set {} x.rgrps 7 { cause := 1, nflt := 1 } }
theorem witness_CopyWaits :
    (on (.cpyw g false 4 (.imm 0x7FFF)) (faulted gen) fun c => (List.range 16).all fun j => (c.G.group false j).inflight = 0 &&
      (j = 15 || (c.G.group false j).cause = 0)) = true ∧
    (on (.cpyw g true 4 (.imm 0xFFFF)) (faulted gen) fun c => (c.G.group false 15).cause = 1) = true ∧
    (on (.rcpyw g false false 4 (.imm 0x7F)) (faulted gen) fun c => (List.range 7).all fun j => (c.G.group true j).inflight = 0 &&
      (c.G.group true j).cause = 0) = true ∧
    (on (.rcpyw g false true 4 (.imm 7)) (faulted gen) fun c => (c.G.group true 7).cause = 1) = true ∧
    normals (faulted gen) [.cpyq g .addr 4 (.imm 15), .cpyq g .info 4 (.imm 15), .cpyqClr g 4 (.imm 15)] = true := by decide
theorem witness_CopyWaits_traps :
    ([(.cpyw g false 4 (ri 5), 2 ^ 16), (.rcpyw g true false 4 (ri 5), 2 ^ 8), (.rcpyw g false true 4 (ri 5), 8), (.cpyq g .addr 4 (ri 5), 16),
      (.cpyqClr g 4 (ri 5), 16)] : List (Instr × Nat)).all (fun x =>
        let s := regs (handled (faulted gen)) (·.setK 5 (BitVec.ofNat 32 x.2))
        on x.1 s fun c => x.2 ≤ (c.r.ksI (ri 5)).toNat && !c.record.active && c.tvec s ≠ 0) = true ∧
    ([(.cpyw g false 4 (.imm 0xFFFF), false, 16), (.rcpyw g false false 4 (.imm 0xFF), true, 8)] : List (Instr × Bool × Nat)).all (fun x =>
      on x.1 (handled (faulted gen)) fun c => (List.range x.2.2).all (fun j => (c.G.group x.2.1 j).inflight = 0) &&
        decide (groupMask x.2.2 (fun j => (2 ^ x.2.2 - 1).testBit j && (c.G.group x.2.1 j).cause ≠ 0) = 2 ^ (x.2.2 - 1))) = true := by decide
/-- A matrix word meets the hypotheses of MatrixIssue. -/
def queues (s : State) (i : Instr) : Bool := on i s fun c =>
  match i.matPlan c with
  | some (p, _) => (p.fail c.C.scratchBytes c.C.lr.privsz).isNone && s.mats.length < 16 && (s.advance c).boardRoom c.T p.board.length
  | none => false
theorem witness_MatrixIssue : ([.mma g .p2 39 (r 10) (r 12) none, .acz g 0 39, .acld g 0 (r 10) 0 0,
    .acdr g 0 (r 10) none none false false false 0 0] : List Instr).all (queues (ptrs gen)) = true ∧
    queues (ptrs (boot .mtx)) (.mloop g .p2 0 (r 10) (r 12) none 0 0 0 0) = true ∧
    (on (.mwait g 4 (.imm 0)) gen fun c => (gen.mats.filter fun m => m.gang = c.gid).length ≤ 0) = true := by decide
theorem witness_MatrixIssue_traps : ([.mma g .p2 39 (r 16) (r 12) none, .acld g 0 (r 16) 0 0] : List Instr).all (fun i => on i (odd gen) fun c =>
    match i.matPlan c with
    | some (p, _) => (p.fail c.C.scratchBytes c.C.lr.privsz).isSome && !c.record.active && c.tvec (odd gen) ≠ 0
    | none => false) = true := by decide
/-! ### Witnesses: synchronisation and channels -/

/-- Gang 0 is in circle 255, which has no other member. -/
def circled (s : State) : State := s.modCohort 0 fun c => { c with members := [⟨none, 255, 0⟩] }
theorem witness_BarrierWords :
    ([.bar g, .arv g 4 none] : List Instr).all (fun i => on i gen fun c => !c.T.tarr.contains c.G.idx &&
      (c.release (gen.advance c)).1.isNone) = true ∧
    ([.cbar g (.imm 255), .arv g 4 (some (.imm 255))] : List Instr).all (fun i => on i (circled gen) fun c => !c.circleBad 255 &&
      !c.circArrived ((circled gen).advance c) 255 && (c.release ((circled gen).advance c)).1.isNone) = true ∧
    (on (.awt g (r 4) none) (regs gen (·.setK 4 1)) fun c => c.T.tphase ≠ (c.r.ks (r 4)).toNat) = true ∧
    (on (.awt g (r 4) (some (.imm 255))) (circled (regs gen (·.setK 4 1))) fun c => !c.circleBad 255 &&
      (c.circ 255).phase ≠ (c.r.ks (r 4)).toNat) = true := by decide
theorem witness_BarrierWords_traps :
    ([.bar g, .arv g 4 none] : List Instr).all (fun i => on i (handled (gen.modTeam 0 fun t => { t with tarr := [0] })) fun c =>
      c.T.tarr.contains c.G.idx && !c.record.active) = true ∧
    ([.cbar g (.imm 0), .arv g 4 (some (.imm 0)), .awt g (r 4) (some (.imm 0))] : List Instr).all (fun i => on i (handled (circled gen)) fun c =>
      c.circleBad 0) = true ∧
    ([.cbar g (.imm 255), .arv g 4 (some (.imm 255))] : List Instr).all (fun i =>
      let s := handled ((circled gen).modCohort 0 fun c => { c with circs := Store.set {} c.circs 255 { arr := [(0, 0)] } })
      on i s fun c => !c.circleBad 255 && c.circArrived (s.advance c) 255 && c.tvec s ≠ 0) = true := by decide
theorem witness_StagesAndMarks_traps :
    ([.sput g (ri 5), .sget g (ri 5)] : List Instr).all (fun i => ([0x2000, 0x10000, 0x20] : List Word).all fun w =>
      on i (handled (regs gen (·.setK 5 w))) fun c => (stageSel (c.r.ksI (ri 5))).all fun x => x.2.2) = true ∧
    (on (.swait g false (ri 5)) (handled (regs gen (·.setK 5 0x10000))) fun c => (stageSel (c.r.ksI (ri 5))).isNone) = true ∧
    ([.marke g true 64 63 (some (r 4)), .markf g false 0 0 (some (r 4))] : List Instr).all (fun i =>
      on i (handled (regs gen (·.setK 4 1))) fun c => c.C.lr.gangs ≤ (c.r.ks (r 4)).toNat && !c.record.active) = true := by decide
theorem witness_StagesAndMarks :
    ([.sput g (.imm 0x0F1F), .sget g (.imm 0x0F1F)] : List Instr).all (fun i => on i gen fun c =>
      stageSel (c.r.ksI (.imm 0x0F1F)) = some (15, 31, false) && (c.release (gen.advance c)).1.isNone) = true ∧
    (on (.swait g false (.imm 0x0F1F)) gen fun c => c.T.phaseBit true 15 31 = false) = true ∧
    (on (.markf g false 192 63 none) gen fun c => gangKey c.tid c.G.idx = c.gid) = true ∧
    (on (.marke g true 64 63 (some (r 4))) gen fun c => (c.r.ks (r 4)).toNat < c.C.lr.gangs &&
      (windowRefs true 64 64).all (inBudget c.C.lr.vbud c.C.lr.kbud)) = true ∧
    (on (.markf g false 0 0 (some (r 4))) gen fun c => (c.r.ks (r 4)).toNat < c.C.lr.gangs &&
      (windowRefs false 0 1).all (inBudget c.C.lr.vbud c.C.lr.kbud)) = true := by decide

/-- Entry 63 of the team's channels: valid, every permission, two registers, one store at a time; k4 selects its register 0. -/
def channel (s : State) : State := regs (s.modTeam 0 fun t => { t with
  chans := Store.set 0 t.chans 63 (BitVec.ofNat 128 (1 + 2 ^ 48 * 2 + 2 ^ 56 + 2 ^ 64 * 15)) }) (·.setK 4 63)
/-- A remote store meets the hypotheses on its entry. -/
def opened (permit : Nat) (wide : Bool) (c : Ctx) : Bool :=
  let e := c.T.chan 63
  let m := c.T.mark 63
  c.r.ks (r 4) = 63 && chValid e && e.getLsbD (64 + permit) && (if wide then 1 else 0) < chCount e && !m.xten && !m.badwin && !m.dead &&
    Store.get 0 c.G.out 63 < chAllow e
theorem witness_RemoteStores :
    (on (.rstv g false (r 4) (r 5) (some (0xFF80, false))) (channel gen) fun c => opened 0 false c &&
      ((c.r.ks (r 5)).setWidth 64 + (0xFF80 : Word).signExtend 64 : DWord).toNat + 128 ≤ c.C.scratchBytes &&
      !(channel gen).boarded c.tid 0xFF80 0x10000) = true ∧
    (on (.rstk g true true (r 4) (r 6) (some true)) (channel gen) fun c => opened 1 true c && !(channel gen).storesOut c.gid &&
      (((channel gen).advance c).publishCore c.core).1) = true ∧
    (on (.rsig g false true (r 4) none) (channel gen) (opened 2 false)) = true := by decide
/-- The three remote stores through the selector in k4. -/
def stores (drop : Bool) : List (Instr × Nat) :=
  [(.rstv g drop (r 4) (r 5) none, 0), (.rstk g drop false (r 4) (r 6) none, 1), (.rsig g drop true (r 4) none, 2)]
theorem witness_RemoteStores_traps :
    (stores false).all (fun x => on x.1 (handled (regs gen (·.setK 4 0x10000))) fun c => (c.r.ks (r 4)).toNat / 2 ^ 16 ≠ 0) = true ∧
    (stores false).all (fun x => on x.1 (handled (regs gen (·.setK 4 63))) fun c => (c.r.ks (r 4)).toNat < 64 && !chValid (c.T.chan 63)) = true ∧
    ([false, true] : List Bool).all (fun drop => (stores drop).all fun x =>
      let s := handled ((channel gen).modTeam 0 fun t => { t with marks := Store.set {} t.marks 63 { dead := true } })
      on x.1 s fun c => chValid (c.T.chan 63) && (c.T.chan 63).getLsbD (64 + x.2) && 0 < chCount (c.T.chan 63) && (c.T.mark 63).dead &&
        !(c.T.mark 63).xten && !(c.T.mark 63).badwin && !c.record.active && c.tvec s ≠ 0) = true ∧
    ([(0xFFFFFFFF, 0x10, 0), (0xFF90, 0, 1), (8, 0, 2)] : List (Word × Word × Nat)).all (fun x =>
      on (.rstv g false (r 4) (r 5) (some (x.2.1, false))) (handled (regs (channel gen) (·.setK 5 x.1))) fun c =>
        let o := ((c.r.ks (r 5)).setWidth 64 + x.2.1.signExtend 64 : DWord).toNat
        chValid (c.T.chan 63) && (match x.2.2 with
          | 0 => 2 ^ 32 ≤ o
          | 1 => o < 2 ^ 32 && c.C.scratchBytes < o + 128
          | _ => o + 128 ≤ c.C.scratchBytes && o % 16 ≠ 0)) = true := by decide
theorem witness_ChannelWords_traps :
    ([.chq g false 4 (.imm 64), .chq g true 4 (ri 5), .chqClr g 4 (ri 5)] : List Instr).all (fun i =>
      on i (handled (regs gen (·.setK 5 64))) fun c => !c.record.active) = true := by decide
theorem witness_ChannelWords :
    normals (channel gen) [.chq g false 4 (.imm 63), .chq g true 124 (.imm 0), .chqClr g 4 (.imm 63), .chgiveRev g 63 4 (r 5),
      .hmqTeam g 4 (.imm 1), .hmqLive g 4 (.imm 1)] = true ∧
    (on (.chgive g 63 1 4 (r 5) (r 6)) (regs gen (·.setK 6 0x01010000)) fun c => c.r.ks (r 6) = 0x01010000 && 0 < c.C.ngangs &&
      1 ≤ 8 * c.C.lr.vbud) = true ∧
    (on (.chgive g 63 0 4 (r 5) (r 6)) gen fun c => (c.r.ks (r 6)).toNat / 2 ^ 24 = 0) = true ∧
    gen.findTeam 0 1 = none := by decide

/-! ### Witnesses: collectives and launch -/

/-- A one-rank gather of one word at scratchpad offset 0, staged at 0x3000. -/
def collBytes : List Byte := toBytes 128 (3 + 2 ^ 16 * 255 + 2 ^ 24 + 2 ^ 48 + 2 ^ 64 + 2 ^ 128 * (2 ^ 60 + 0x1000) + 2 ^ 192 * (2 ^ 60 + 0x2000) +
  2 ^ 320 * 0x3000 + 2 ^ 352 * 4096)
def collective : State := (circled (ptrs (boot .link))).modTeam 0 fun t => { t with scratch := writeBytes [] 0 collBytes }
theorem witness_CollectiveWords_coll : (on (.coll g 4 (r 10) none) collective fun c =>
    let p := c.kaddr (r 10) 0
    let y := ({ s := collective.advance c, feed := c.G.seen } : EngRun).read (c.eng (policyOf p .none)) (ptrSpace p) 0 0 p 128
    let raw := y.1.map (·.getD 0)
    let b := collBlock (ofBytes raw)
    let ranks := c.circleRanks b.circle
    (collPtr c.C.scratchBytes c.C.lr.privsz p 128 128).isNone && (Store.get {} c.T.colls 0 : CollSlot).state = .free &&
      y.2.faults.isEmpty && y.2.stall.isNone && (c.release (collective.advance c)).1.isNone && !b.bad (ofBytes raw) && !b.rset && c.myRank b ranks = some 0 && b.root < ranks.length &&
      (c.collPtrs b ranks.length 0).isNone) = true := by decide
theorem witness_CollectiveWords_traps :
    ([0, 1, 2] : List Nat).all (fun n => on (.coll g 4 (r 10) none)
      (handled (regs collective (·.setK2 10 (if n = 0 then 0x3000000000010000 else if n = 1 then scr 8 else scr 0xFF80)))) fun c =>
        (collPtr c.C.scratchBytes c.C.lr.privsz (c.kaddr (r 10) 0) 128 128).isSome != (n = 2) && !c.record.active) = true ∧
    (collBlock 0).bad 0 = true ∧
    ([.collw g false 4 (ri 5), .collw g true 4 (ri 5), .collq g .state 4 (ri 5)] : List Instr).all (fun i =>
      on i (handled (regs gen (·.setK 5 4))) fun c => 4 ≤ (c.r.ksI (ri 5)).toNat && !c.record.active) = true := by decide
/-- The team's collective slot 3 in a state. -/
def slotted (x : CollSt) (s : State) : State := s.modTeam 0 fun t => { t with colls := Store.set {} t.colls 3 { state := x, status := 1 } }
theorem witness_CollectiveWords_slots :
    (on (.collw g false 4 (.imm 0)) gen fun c => (c.T.coll 0).state = .free) = true ∧
    (on (.collw g false 4 (.imm 3)) (slotted .done gen) fun c => (c.T.coll 3).state = .done) = true ∧
    (on (.collw g true 4 (.imm 3)) (slotted .error gen) fun c => (c.T.coll 3).state = .error) = true ∧
    normals (slotted .error gen) [.collq g .state 4 (.imm 3), .collq g .fault 4 (.imm 3)] = true := by decide

/-- Host memory with a launch record of one team at the start of the tenant's window, and k8 its pointer. -/
def recorded (n : Nat) : State := { (regs gen (·.setK2 8 0x4000000000000000)).modTenant 0 (fun t => { t with hwsz := 256 }) with
  hostMem := writeBytes [] 0 (toBytes 32 n) }
def goodRec : Nat := 0x10000 + 2 ^ 64 + 2 ^ 128 * 48 + 2 ^ 160 * 4 + 2 ^ 168 * 2 + 2 ^ 192
/-- Every cohort slot of die 0 is taken. -/
def crowded : State := { recorded goodRec with cohSlots := (List.range 256).map fun k => (k, Store.get {} gen.cohSlots 0) }
/-- LAUNCH meets the hypotheses on its record, which reads as a refusal code or as a good one with a slot for its cohort. -/
def launches (s : State) (p : Option Nat → Bool → Bool) : Bool := on (.launch g 4 (r 8) none) s fun c =>
  let a := c.kaddr (r 8) 0
  let x := c.release (s.advance c)
  (ptrCause a c.C.scratchBytes c.C.lr.privsz).isNone && ptrSpace a = 4 && a.toNat % 256 = 0 && x.1.isNone &&
    match c.fetch (recReq a 256) x.2 with
    | .bytes bs s2 =>
      let t := c.endRegion (c.acquire true s2)
      auxBytes bs = 0 && (match t.judgeLaunch c.C.dev (c.die % 8) c.tenant bs (some []) with
        | .error k => p (some k) false
        | .ok q => p none (t.newCohort c.C.dev (c.die % 8) c.tenant false q).isSome)
    | _ => false
theorem witness_LaunchWords_launch : launches (recorded goodRec) (fun k n => k = none && n) = true ∧
    launches (recorded 0) (fun k _ => k = some 1) = true ∧ launches crowded (fun k _ => k = some 6) = true := by decide
/-- What the read of the record, and of the table that it names, comes to. -/
def launchReads (s : State) (p : Option (Nat × Option Bool) → Bool) : Bool := on (.launch g 4 (r 8) none) s fun c =>
  let a := c.kaddr (r 8) 0
  match c.fetch (recReq a 256) (c.release (s.advance c)).2 with
  | .wait .. => false
  | .flt .. => p none
  | .bytes bs s2 => match c.fetch (recReq (readRec bs).aux (auxBytes bs)) s2 with
    | .wait .. => false
    | .flt .. => p (some (auxBytes bs, none))
    | .bytes .. => p (some (auxBytes bs, some true))
/-- A record that names a table in page 1, four sectors of which die 0 can read, or in page 2, which a walk has found not in memory. -/
def tabledRec (aux : Nat) : State :=
  (List.range 4).foldl (fun s i => s.setHold (1088 + i) 0 { count := 1 })
    { recorded 0 with hostMem := writeBytes [] 0 (toBytes 72 (goodRec + 2 ^ 512 * aux)),
                      walks := [⟨1, 0, 0, 0, 2, false, false, [0], some (.flt 2 1), none⟩] }
theorem witness_LaunchWords_reads :
    launchReads ((recorded goodRec).modTenant 0 fun t => { t with hwsz := 0 }) (fun x => x = none) = true ∧
    launchReads (tabledRec 0x20000) (fun x => x = some (256, none)) = true ∧
    launchReads (tabledRec 0x11000) (fun x => x = some (256, some true)) = true := by decide
theorem witness_LaunchWords_traps :
    ([(8, some 1, 0), (10, none, 1), (12, none, 4)] : List (RegNum × Option Nat × Nat)).all (fun x =>
      let s := handled (regs gen fun y => ((y.setK2 8 0x10000000000000).setK2 10 (scr 0)).setK2 12 0x4000000000000001)
      on (.launch g 4 (r x.1) none) s fun c =>
        let a := c.kaddr (r x.1) 0
        decide (ptrCause a c.C.scratchBytes c.C.lr.privsz = x.2.1) && ptrSpace a = x.2.2 && (x.1 ≠ 12 || a.toNat % 256 ≠ 0) &&
          !c.record.active && c.tvec s ≠ 0) = true := by decide
/-- Cohort slot 1 holds a cohort in a state; k4 is its handle. -/
def finished (x : CohSt) : State := { regs gen (·.setK 4 0x10001) with
  cohSlots := Store.upd {} gen.cohSlots 1 fun sl => { sl with cohort := some { tenant := 0, dev := 0, state := x } } }
theorem witness_LaunchWords_wait :
    ([(CohSt.done, false, 0), (.error, true, 2), (.cancelled, true, 3)] : List (CohSt × Bool × Nat)).all (fun x =>
      on (.lwait g x.2.1 5 (r 4)) (finished x.1) fun c => c.G.lres = none &&
        (match (finished x.1).findCohort c.C.dev c.tenant (c.r.ks (r 4)) with
          | some (key, y) => key = 1 && y.status = some x.2.2
          | none => false)) = true ∧
    (on (.lwait g true 5 (r 4)) ((finished .done).modGang 0 fun x => { x with lres := some 2 }) fun c => c.G.lres = some 2 &&
      (((finished .done).findCohort c.C.dev c.tenant (c.r.ks (r 4))).any fun p => p.2.status ≠ some 2)) = true ∧
    (on (.lwait g true 5 (r 4)) ((finished .error).modGang 0 fun x => { x with lres := some 2, lwait := some 1 }) fun c =>
      c.G.lres = some 2 && (((finished .error).findCohort c.C.dev c.tenant (c.r.ks (r 4))).any fun p =>
        c.G.lwait = some p.1 && p.2.status = some 2)) = true ∧
    (on (.lwait g false 5 (r 4)) (gen.modGang 0 fun x => { x with lres := some 3 }) fun c => c.G.lres = some 3 &&
      (gen.findCohort c.C.dev c.tenant (c.r.ks (r 4))).isNone) = true ∧
    (on (.lwait g true 5 (r 4)) gen fun c => c.G.lres = none && (gen.findCohort c.C.dev c.tenant (c.r.ks (r 4))).isNone) = true ∧
    normals (finished .done) [.lqry g .state 5 (r 4), .lqry g .placed 5 (r 4), .lqry g .done 5 (r 4), .lqry g .status 5 (r 4)] = true ∧
    (on (.lqry g .state 5 (r 4)) gen fun c => (gen.findCohort c.C.dev c.tenant (c.r.ks (r 4))).isNone) = true := by decide
theorem witness_YieldRegionsAndMigration :
    normals gen [.yield g, .sleep g (.imm 0), .sleep g (.imm 1), .rgn g, .rgnx g] = true ∧
    (on (.tmig g 4 (.imm 9)) gen fun c => c.tmigCode 9 = some 1) = true ∧
    (on (.tmig g 4 (.imm 1)) (gen.modCohort 0 fun x => { x with lr := { x.lr with diemask := 3 } }) fun c => (c.tmigCode 1).isNone) = true := by
  decide

/-! ### Witnesses: system and fabric words -/

theorem witness_FluxRegisters :
    normals gen [.flxcfg g true 4 (.imm 0), .flxcfg g false 4 (.imm 16), .flxcfg g false 4 (.imm 512), .flxq g .passes true 4,
      .flxq g .cfg false 4] = true := by decide
theorem witness_ControlRegisters :
    normals gen [.mfs g true 4 0x004, .mfs g false 4 0x110, .mfs g true 4 0x203, .mts g true (r 4) 0x004, .mts g true (r 4) 0x100,
      .mts g false (r 4) 0x10A, .mts g true (r 4) 0x203, .pwstatReopen g (r 4), .elhdWrite g (r 4)] = true := by decide
theorem witness_FluxRegisters_trap : ([1, 15, 513] : List Word).all (fun w =>
    on (.flxcfg g true 4 (ri 5)) (handled (regs gen (·.setK 5 w))) fun c => c.r.ksI (ri 5) = w && !c.record.active &&
      c.tvec (handled gen) ≠ 0) = true := by decide
/-- Gang 0 of a team of a plain cohort, with a handler. -/
def plain : State := handled (gen.modCohort 0 fun c => { c with control := false })
/-- A word meets the hypotheses of PrivilegeTrap. -/
def barred (i : Instr) : Bool :=
  match plain.gang? 0, plain.team? 0, plain.cohort? 0, opnOf i with
  | some G, some T, some C, .ok o =>
    let c := mkCtx 0 G T C false G.regs.pri.pc o.e.form.bytes o
    G.team = 0 && T.cohort = 0 && plain.curGang = 0 && !plain.curSec && G.resident && G.regs.pri.valid && G.bar.isNone && G.flux.isNone &&
      (poolFaults o.reads G c.amask).isEmpty && checkWord [o] G C.lr = .ok && !c.priv && !c.record.active && c.tvec plain ≠ 0
  | _, _, _, _ => false
theorem witness_PrivilegeTrap : ([.rte g, .mfs g false 4 0x000, .chset g 0 4 (r 5) (r 8), .xlat g true 4 (.kpair (r 8)) none] : List Instr).all
    barred = true := by decide
/-- A word in a gang whose slots or counters are divided, to a trap of its mode. -/
def divided (i : Instr) (s : State) : Bool :=
  match s.gang? 0, s.team? 0, s.cohort? 0, opnOf i with
  | some G, some T, some C, .ok o =>
    let c := mkCtx 0 G T C s.curSec (G.regs.slot s.curSec).pc o.e.form.bytes o
    (G.regs.slot s.curSec).valid && (poolFaults o.reads G c.amask).isEmpty && checkWord [o] G C.lr = .ok && !c.record.active && c.tvec s ≠ 0 &&
      (s.curSec || G.regs.sec.valid || lanewise fun l => !G.regs.pri.lmask.getLsbD l || G.regs.c l ≠ 0)
  | _, _, _, _ => false
theorem witness_PrivilegeTrap_modes :
    divided (.mma g .p2 3 (r 4) (r 6) none) (handled (second 1 gen)) = true ∧ gangOp 0x88 = true ∧
    ([.bar g, .cbar g (.imm 255), .rgn g] : List Instr).all (fun i => divided i (handled { second 1 gen with curSec := false })) = true := by
  decide
theorem witness_TlbInvalidates :
    (on (.tlbiAll g) gen fun c => (c.release (gen.advance c)).1.isNone) = true ∧
    (on (.tlbiRange g (r 8) (r 7)) (long gen) fun c => (c.release ((long gen).advance c)).1.isNone && ptrSpace (c.r.ks2 (r 8)) = 0 &&
      (ptrCause (c.r.ks2 (r 8)) c.C.scratchBytes c.C.lr.privsz).isNone && (c.r.ks2 (r 8)).toNat % 65536 = 0) = true := by decide
theorem witness_TlbInvalidates_traps : ([(8, 0x3000000000010000, 0), (9, 0x10000000000000, 1), (10, 0x10001, 2)] : List (Nat × DWord × Nat)).all
    (fun x => let s := handled (regs (long gen) (·.setK2 8 x.2.1))
      on (.tlbiRange g (r 8) (r 7)) s fun c =>
        let p := c.r.ks2 (r 8)
        !c.record.active && (match x.2.2 with
          | 0 => ptrSpace p ≠ 0
          | 1 => ptrSpace p = 0 && (ptrCause p c.C.scratchBytes c.C.lr.privsz).isSome
          | _ => ptrSpace p = 0 && (ptrCause p c.C.scratchBytes c.C.lr.privsz).isNone && p.toNat % 65536 ≠ 0)) = true := by decide
/-- k4 names the own team, k5 a second one that may be held, k6 none; k16 is the handle of the own cohort. -/
def named (held : Bool) : State := regs { gen with
  teams := Store.set none gen.teams 1 (some { cohort := 0, tidx := 1, hall := 0x1001, slotKey := 1, state := .resident, held := held }),
  teamSlots := Store.upd {} gen.teamSlots 1 fun sl => { sl with team := some 1 } } fun x =>
    (((x.setK 4 1).setK 5 0x1001).setK 6 2).setK 16 0x10000
/-- The team that a register names. -/
def names (i : Instr) (held : Bool) (k : RegNum) (p : Option (Nat × Team) → Bool) : Bool :=
  on i (named held) fun c => p (c.named (r k) (c.endRegion ((named held).advance c)))
theorem witness_TeamControl_names :
    ([.ctxsv g 9 (r 6), .ctxld g 9 (r 6), .halt g 9 (r 6)] : List Instr).all (fun i => names i false 6 Option.isNone) = true ∧
    names (.ctxsv g 9 (r 4)) false 4 (fun x => x.elim false fun x => x.1 = 0) = true ∧
    names (.halt g 9 (r 4)) false 4 (fun x => x.elim false fun x => x.1 = 0 && x.2.state ≠ .saved) = true ∧
    names (.ctxsv g 9 (r 5)) true 5 (fun x => x.elim false fun x => x.1 = 1 && x.2.held) = true ∧
    [false, true].all (fun h => names (.ctxld g 9 (r 5)) h 5 fun x => x.elim false fun x => x.1 = 1 && x.2.held = h) = true := by decide
theorem witness_TeamControl_others :
    (on (.prio g 9 (r 6) (.imm 7)) (named false) fun c => ((named false).findCohort c.C.dev c.tenant (c.r.ks (r 6))).isNone) = true ∧
    ([7, 8] : List Word).all (fun p => on (.prio g 9 (r 16) (.imm p)) (named false) fun c =>
      ((named false).findCohort c.C.dev c.tenant (c.r.ks (r 16))).isSome) = true ∧
    normals gen [.chset g 63 9 (r 4) (r 120)] = true ∧
    (on (.intr g 9 (.imm 0)) gen fun c => (c.release (gen.advance c)).1.isNone) = true := by decide
/-- The tenant holds the grant of its pod; every device has one slot, with the smallest guard; k7 is 15. -/
def granted : State := regs (({ ptrs gen with grants := [(0, some 0)] } : State).modPod 0 fun d => { d with
  slots := [(0, BitVec.ofNat 128 (2 ^ 64 * 2 + 2 ^ 16 * 50 + 1))] }) (fun x => (x.setK 7 15).setK2 16 10000)
theorem witness_FabricWords :
    normals gen [.timeSkew g 4, .cnq g 4 (.imm 63)] = true ∧
    (on (.slotw g (r 10) (r 7)) granted fun c =>
      c.granted granted && (c.r.ks (r 7)).toNat < 16 && (match c.fetch (c.slotReq (r 10)) (granted.advance c) with
        | .bytes bs t => !slotBad (BitVec.ofNat 128 (ofBytes bs)) c.T.group && !(t.dev c.dev).run
        | _ => false)) = true ∧
    (on (.linkcOn g (r 16)) granted fun c => c.granted granted && granted.time + 10000 ≤ (c.r.ks2 (r 16)).toNat &&
      (granted.dev c.dev).rotation ≠ [] && (podDevs 0).all (fun k => (granted.dev k).slots = (granted.dev c.dev).slots) &&
      50 ≤ (granted.dev c.dev).minGuard) = true ∧
    (on (.linkcOff g) granted fun c => c.granted granted) = true := by decide
/-- SLOTW in a state, and what its load gives. -/
def slotting (s : State) (p : Ctx → List Byte → State → Bool) : Bool := on (.slotw g (r 10) (r 7)) s fun c => c.granted s &&
  !c.record.active && c.tvec s ≠ 0 && match c.fetch (c.slotReq (r 10)) (s.advance c) with
    | .bytes bs t => p c bs t
    | _ => false
theorem witness_FabricWords_traps :
    (on (.cnq g 4 (ri 5)) (handled (regs gen (·.setK 5 64))) fun c => 64 ≤ (c.r.ksI (ri 5)).toNat && !c.record.active) = true ∧
    ([.slotw g (r 10) (r 7), .linkcOn g (r 16), .linkcOff g] : List Instr).all (fun i => on i (handled (ptrs (boot .link))) fun c =>
      !c.granted (handled (ptrs (boot .link))) && !c.record.active) = true ∧
    slotting (handled (regs granted (·.setK 7 16))) (fun c _ _ => 16 ≤ (c.r.ks (r 7)).toNat) = true ∧
    slotting (handled (granted.modTeam 0 fun t => { t with scratch := writeBytes [] 0 (toBytes 16 4096) })) (fun c bs _ =>
      slotBad (BitVec.ofNat 128 (ofBytes bs)) c.T.group) = true ∧
    slotting (handled (granted.modDev 0 fun d => { d with run := true })) (fun c bs t => (c.r.ks (r 7)).toNat < 16 &&
      !slotBad (BitVec.ofNat 128 (ofBytes bs)) c.T.group && (t.dev c.dev).run) = true ∧
    (on (.slotw g (r 10) (r 7)) (handled (regs granted (·.setK2 10 0x10000000000000))) fun c =>
      match c.fetch (c.slotReq (r 10)) ((handled (regs granted (·.setK2 10 0x10000000000000))).advance c) with
      | .flt .. => c.granted granted
      | _ => false) = true ∧
    (on (.linkcOn g (r 16)) (handled (regs granted (·.setK2 16 9999))) fun c => (c.r.ks2 (r 16)).toNat < granted.time + 10000) = true ∧
    (let s := handled (granted.modDev 5 fun d => { d with slots := [] });
      on (.linkcOn g (r 16)) s fun c => granted.time + 10000 ≤ (c.r.ks2 (r 16)).toNat && (s.dev c.dev).rotation ≠ [] &&
        (podDevs 0).any fun k => (s.dev k).slots ≠ (s.dev c.dev).slots) = true := by decide
theorem witness_YieldRegionsAndMigration_stop : (gen.team? 0).any (·.state = .resident) = true := by decide

/-! ### Witnesses: events of the token protocol -/

/-- An event is to happen. -/
def ev (e : Ev) (s : State) : State := { s with curEv := some e }
/-- A message, alone in flight, has arrived, and the state it leaves has a property. -/
def got (e : Ev) (s : State) (p : State → Bool) : Bool :=
  match ({ s with curEv := some e, net := [e] } : State).take e with
  | some t => p t
  | none => false
/-- The state in which a message, alone in flight, arrives. -/
def sole (e : Ev) (s : State) : State := { s with curEv := some e, net := [e] }
/-- The machine after reset at a time. -/
def at_ (t : Nat) : State := { State.reset with time := t }
/-- A message of the token protocol about sector 0, sent at time 0 by holder 1. -/
def tok (dest : Nat) (cast : BitVec 8) (n : Nat) (own : Bool) : TokMsg := ⟨0, dest, cast, n, own, own, 1, 0, 7⟩
/-- Holder `h` has tokens of sector 0. -/
def holds (h n : Nat) (own : Bool) (s : State) : State := s.setHold 0 h { count := n, owner := own, dirty := own, data := 5 }
/-- A message to a die is accepted. -/
def takes (m : TokMsg) (s : State) : Bool :=
  !s.holderFenced m.sector m.dest && !s.old m && (s.castOf m.sector m.dest).all (· = m.cast) && (s.standing m.sector m.dest).isNone

theorem witness_TokenMessages_requests :
    ([Ev.trd (tok 255 0 0 false), Ev.twr (tok 255 0 0 false)].all fun e => got e (holds 255 256 true (at_ 20000)) fun s =>
      let r := (s.addHint 255 0 1).forcePublish 255 0;
      takes (tok 255 0 0 false) s && 0 < (s.holdOf 0 255).count && r.1 && (r.2.holdOf 0 255).owner) = true := by decide
theorem witness_TokenMessages_tokens :
    got (.tdat (tok 255 0 256 true)) (at_ 20000) (takes (tok 255 0 256 true)) = true ∧
    got (.ttok (tok 0 0 1 false)) (holds 0 1 true (at_ 20000)) (fun s => takes (tok 0 0 1 false) s && (s.holdOf 0 0).readable) = true ∧
    got (.tdat (tok 0 0 1 true)) (at_ 20001) (fun s => s.old (tok 0 0 1 true) && !s.holderFenced 0 0) = true ∧
    got (.ttok (tok 0 1 1 false)) (holds 0 1 false (at_ 20000)) (fun s => !s.old (tok 0 1 1 false) && s.castOf 0 0 = some 0) = true ∧
    got (.tret (tok homeH 0 1 true)) (at_ 20000) (fun s => !s.homeFenced 0 && (s.standing 0 homeH).isNone &&
      !s.old (tok homeH 0 1 true) && (s.smetaOf 0).cast = 0) = true := by decide
/-- The owner token that a dirty message brings home is written before it counts (R244). -/
theorem test_tret : (match exec .tret (sole (.tret (tok homeH 0 1 true)) ((at_ 5).setHomeTok 0 (255, false))) with
    | .next s => s.homeTokOf 0 = (256, true) && s.memSec 0 = 7 && s.net.isEmpty
    | _ => false) = true := by decide

/-- A recast of sector 0, begun at time 0, that `n` holders of the pod have answered. -/
def recasting (answered : List Nat) (s : State) : State :=
  (s.startRecast 0 false).modHome (unitOf 0) fun x =>
    { x with recast := some { sector := 0, old := 0, first := 0, lastTx := 0, answers := answered } }
/-- Every holder but die 0. -/
def butOne : List Nat := State.reset.peersOf 0 |>.filter (· ≠ 0)
/-- A clamp of sector 0 for holder 1, active since time 0. -/
def clamped (x : ActClamp) (s : State) : State := s.modHome (unitOf 0) fun u => { u with active := some x }
def clamp : ActClamp := { num := 1, req := ⟨0, 1, true⟩, at_ := 0 }

theorem witness_Recasts_begin :
    got (.lossReport 0 0 .clean) (at_ 0) (fun s => s.secState 0 = .idle && (s.smetaOf 0).cast = 0 && s.mayRecast 0) = true ∧
    (let s := clamped clamp (at_ 40000);
      (s.home (unitOf 0)).active = some clamp ∧ s.secState 0 = .active ∧ s.mayRecast 0 = true) ∧
    (let s := (at_ 48000).modHome (unitOf 0) fun u => { u with held := [⟨0, 0, .clean⟩] };
      s.secState 0 = .idle ∧ (s.smetaOf 0).cast = 0 ∧ s.mayRecast 0 = true) := by decide
theorem witness_Recasts_answers :
    got (.trec (recastMsg 0 255 1 0)) (holds 255 256 true (at_ 0)) (fun s => !s.holderFenced 0 255 &&
      (Store.get none s.fences (0 * 512 + 255)).isNone) = true ∧
    got (.trca ⟨0, homeH, 0, 256, true, true, 0, 0, 3⟩) (recasting butOne (at_ 20000)) (fun s => s.secState 0 = .recast &&
      !s.old (tok homeH 0 1 true) && (s.standing 0 homeH).isNone && (s.peersOf 0).all (0 :: butOne).contains) = true ∧
    got (.trca ⟨0, homeH, 0, 0, false, false, 5, 0, 0⟩) (recasting [5] (at_ 20000)) (fun s => s.secState 0 = .recast &&
      !(s.peersOf 0).all [5].contains) = true := by decide
/-- A holder that has acted on a recast answers that one, and one before it, without tokens (R258, R260). -/
theorem witness_Recasts_later : ([1, 200] : List (BitVec 8)).all (fun cast =>
    got (.trec (recastMsg 0 255 cast 0)) ({ at_ 0 with recastAct := Store.set 0 [] 255 2 }) fun s =>
      let last := Store.get 0 s.recastAct (0 * 512 + 255)
      !s.holderFenced 0 255 && last ≠ 0 && (BitVec.ofNat 8 (last - 1) - cast).toNat < 128) = true ∧
    got (.trec (recastMsg 0 255 2 0)) ({ at_ 0 with recastAct := Store.set 0 [] 255 2 }) (fun s =>
      128 ≤ (BitVec.ofNat 8 (Store.get 0 s.recastAct (0 * 512 + 255) - 1) - 2 : BitVec 8).toNat) = true := by decide
theorem witness_Recasts_end :
    (((recasting [] (at_ 10000)).home (unitOf 0)).recast.any fun r => r.lastTx + 10000 ≤ 10000) = true ∧
    (((recasting butOne (at_ 40000)).home (unitOf 0)).recast.any fun r => r.first + 40000 ≤ 40000) = true ∧
    got (.trdone (recastMsg 0 3 1 0)) { at_ 0 with fences := Store.set none [] 3 (some ⟨1, none⟩) } (fun s => !s.holderFenced 0 3 &&
      Store.get none s.fences (0 * 512 + 3) = some ⟨1, none⟩) = true ∧
    got (.trdack { recastMsg 0 homeH 1 0 with req := 7 }) ((at_ 0).modHome (unitOf 0) fun u =>
      { u with done := some { sector := 0, old := 0, first := 0, lastTx := 0 } }) (fun s =>
        (s.home (unitOf 0)).done.any fun r => r.sector = 0 && r.old + 1 = 1) = true ∧
    (Store.get none ({ at_ 20000 with fences := Store.set none [] 3 (some ⟨1, some 20000⟩) } : State).fences (0 * 512 + 3)).any
      (fun f => f.till.any (· ≤ 20000)) = true := by decide
/-- A recast that no owner token and no clean loss answers poisons its sector and restores the tokens (R259). -/
theorem test_recast_end : (match exec .trca (sole (.trca ⟨0, homeH, 0, 0, false, false, 0, 0, 0⟩) (recasting butOne (at_ 5))) with
    | .next s => s.homeTokOf 0 = (256, true) && (s.smetaOf 0).pois && (s.smetaOf 0).cast = 1 && s.net.length = 258
    | _ => false) = true := by decide

/-- A request of holder 1 for every token of sector 0. -/
def miss (attempt sent first : Nat) (clamped : Bool) : Miss := ⟨1, 0, true, attempt, first, sent, false, clamped, false⟩
theorem witness_Clamps_raise :
    (let s := { at_ 3000 with misses := [miss 2 2000 0 false] };
      s.holdsFor 0 1 true = false ∧ (miss 2 2000 0 false).sent + 1000 ≤ s.time ∧ s.time < (miss 2 2000 0 false).first + 4000) ∧
    (let s := { at_ 4000 with misses := [miss 2 3500 0 false] };
      s.holdsFor 0 1 true = false ∧ (miss 2 3500 0 false).first + 4000 ≤ s.time) ∧
    (let s := { at_ 3000 with misses := [miss 3 2000 0 false] };
      s.holdsFor 0 1 true = false ∧ (miss 3 2000 0 false).sent + 1000 ≤ s.time) ∧
    ({ at_ 1000 with misses := [miss 3 0 0 true] } : State).clampLost (miss 3 0 0 true) = true := by decide
/-- The event's miss stands behind others, of another holder and of its own that cannot go on. -/
theorem witness_Clamps_later :
    (let m := miss 2 2000 0 false
      let pre : List Miss := [{ m with holder := 2 }, miss 1 2500 0 false]
      let s := { at_ 3000 with misses := pre ++ [m] };
      s.holdsFor 0 1 true = false ∧ m.sent + 1000 ≤ s.time ∧ s.time < m.first + 4000 ∧
        ∀ x ∈ pre, x.holder = m.holder → x.sector = m.sector → ¬ x.sent + 1000 ≤ s.time) ∧
    (let m := miss 3 3500 0 false
      let pre : List Miss := [miss 1 3500 1000 false]
      let s := { at_ 4000 with misses := pre ++ [m] };
      s.holdsFor 0 1 true = false ∧ m.first + 4000 ≤ s.time ∧ ∀ x ∈ pre, ¬ (x.first + 4000 ≤ s.time ∨ x.attempt = 3)) ∧
    (let m := miss 3 0 0 true
      let pre : List Miss := [miss 3 0 0 false]
      ({ at_ 1000 with misses := pre ++ [m] } : State).clampLost m = true ∧ ∀ x ∈ pre, x.clamped = false) := by decide
theorem witness_Clamps_queue :
    got (.clmp (miss 3 0 0 true).clamp) ((at_ 0).modHome (unitOf 0) fun u => { u with queue := List.replicate 63 ⟨4, 4, true⟩ })
      (fun s => (s.home (unitOf 0)).queue.length = 63 && !(s.home (unitOf 0)).knows ⟨0, 1, true⟩) = true ∧
    got (.clmp (miss 3 0 0 true).clamp) ((at_ 0).modHome (unitOf 0) fun u => { u with queue := List.replicate 64 ⟨4, 4, true⟩ })
      (fun s => 64 ≤ (s.home (unitOf 0)).queue.length) = true ∧
    (let s := (at_ 0).modHome (unitOf 0) fun u => { u with queue := [⟨0, 5, true⟩, ⟨0, 1, true⟩] };
      (s.home (unitOf 0)).active = none ∧ s.secState 0 = .idle ∧ s.homeFenced 0 = false ∧
        batchOrder (s.home (unitOf 0)).queue = [⟨0, 1, true⟩, ⟨0, 5, true⟩]) ∧
    (let s := (at_ 0).modHome (unitOf 0) fun u => { u with batch := [⟨0, 5, true⟩] };
      (s.home (unitOf 0)).active = none ∧ s.secState 0 = .idle ∧ s.homeFenced 0 = false) := by decide
/-- Holder 255 has seen clamp 1 of the home unit of sector 0. -/
def tabled (live : Bool) : State :=
  { at_ 0 with clampTab := Store.set none [] (unitOf 0 * 512 + 255) (some ⟨1, live, true, 0, 1⟩) }
theorem witness_Clamps_answers :
    got (.clact ⟨unitOf 0, 2, 0, 1, true, 255⟩) (holds 255 256 true (tabled false)) (fun s => !s.holderFenced 0 255 &&
      (Store.get none s.clampTab (unitOf 0 * 512 + 255)).all fun c => c.num < 2) = true ∧
    got (.clack ⟨unitOf 0, 1, 0, 1, true, 0⟩ false) (clamped { clamp with acks := butOne, done := true } (at_ 0)) (fun s =>
      (s.peersOf 0).all (0 :: butOne).contains && s.secState 0 = .active) = true ∧
    got (.clack ⟨unitOf 0, 1, 0, 1, true, 0⟩ true) (clamped { clamp with acks := butOne, dea := true } (at_ 0)) (fun s =>
      (s.peersOf 0).all (0 :: butOne).contains) = true ∧
    got (.clack ⟨unitOf 0, 1, 0, 1, true, 0⟩ false) (clamped { clamp with acks := butOne } (at_ 0)) (fun s =>
      (s.peersOf 0).all (0 :: butOne).contains && !s.holderFenced 0 1) = true ∧
    got (.clack ⟨unitOf 0, 1, 0, 1, true, 0⟩ false) (clamped clamp (at_ 0)) (fun s => !(s.peersOf 0).all [0].contains) = true ∧
    got (.cldone ⟨unitOf 0, 1, 0, 1, true, 1⟩) (clamped clamp (at_ 0)) (fun s => (s.peersOf 0).any fun h => !clamp.acks.contains h) = true ∧
    got (.cldea ⟨unitOf 0, 1, 0, 1, true, 255⟩) (tabled true) (fun s => !s.holderFenced 0 255) = true ∧
    (clamped clamp (at_ 0)).unanswered .clact ⟨unitOf 0, 1, 0, 1, true, 255⟩ = true := by decide
/-- A holder under a clamp sends the requester every token it has and answers (R255). -/
theorem test_clact : (match exec .clact (sole (.clact ⟨unitOf 0, 1, 0, 1, true, 0⟩) (holds 0 256 true (at_ 9))) with
    | .next s => s.holdOf 0 0 = {} && s.net = [.tdat ⟨0, 1, 0, 256, true, true, 0, 9, 5⟩, .clack ⟨unitOf 0, 1, 0, 1, true, 0⟩ false]
    | _ => false) = true := by decide

/-! ### Witnesses: memory, translation and timed waits -/

/-- A bound load of one lane into register 4. -/
def loaded : Access :=
  ⟨1, 0, 0, 0, .load false, .v 4 1, none, false, false, false, false, [⟨0, 0, .dram 0 0, .slice, 4, 0, 0, some 9, true, false, 0, false⟩],
    0, false, 0⟩
/-- A store of one lane to the home memory of sector 0. -/
def storing : Access :=
  ⟨1, 0, 0, 0, .store, .none, none, true, false, false, false, [⟨0, 0, .dram 0 0, .home, 4, 9, 0, none, true, false, 0, false⟩], 0,
    false, 0⟩
def walking (remote : Bool) (ans : Option WalkRes) : Walk := ⟨1, 0, 0, 0, 1, remote, remote, [0], none, ans⟩
/-- A translation of page 1. -/
def page1 (t : Nat) (fab : Bool) : Tlb := ⟨0, 0, 0, 0, 2, true, true, t, fab⟩
theorem witness_MemoryEvents_accesses :
    ([Ev.loadDataReturn 1, Ev.storePerformed 1].all fun e => got e { gen with accesses := [loaded] } fun s =>
      (s.accesses.find? (·.id = 1)).any (·.bound)) = true ∧
    ({ gen.modDev 0 (fun d => { d with circQ := [⟨1, 2, 3⟩] }) with accesses := [storing] } : State).circWaits
      (devOfDie storing.die) 1 = true ∧
    got (.homeAccessRequest 1) { gen with accesses := [storing] } (fun s => !s.circWaits (devOfDie storing.die) 1 && s.accesses.all fun b => b.id != 1 || b.lanes.all fun y =>
      !s.windowDown b y && (y.loc.sec?).all fun sec => !s.homeFenced sec) = true := by decide
theorem witness_MemoryEvents_walks :
    ({ gen with walks := [walking false none] } : State).walks.find? (fun x => x.id = 1 && x.res.isNone) = some (walking false none) ∧
    got (.remoteWalkRequest 1) { gen with walks := [walking true none] } (fun s => s.walks.all fun w => w.ans.isNone &&
      !s.circWaits (devOfDie w.die) w.id) = true ∧
    ([1, 7] : List Nat).all (fun n => got (.tlbiRequest 0 0 (some (1, 1)) 0) ((gen.modGang 0 fun x =>
      { x with wait := .acks, acks := n }).modDie 0 fun d => { d with tlb := [page1 0 false] }) fun s =>
        (s.gang? 0).any (fun x => x.wait = .acks && x.acks = n) && (s.die 0).tlb.all (·.named 0 (some (1, 1)))) = true := by decide
theorem witness_MemoryEvents_fills :
    got (.lineFillComplete ⟨0, some 0, 0, false, false, false⟩) ((at_ 0).setHold 0 0 { count := 1 } |>.setHold 1 0 { count := 1 }) (fun s =>
      !(s.die 0).fenced && !s.bypasses 0 0 && !s.hostBias 0 (secPa 0) && !s.hostBias 0 (secPa 1) &&
      (s.fillReady ⟨0, some 0, 0, false, false, false⟩).1) = true ∧
    (let s := (holds 0 256 true (at_ 32000)).setL1 0 0 { valid := 1, dirty := 1, data := 9 };
      s.overdue 0 && ((s.modDie 0 fun d => { d with scfTimed := 1 }).publishCore 0).1) = true := by decide
/-- A remote fabric entry goes after exactly 1 ms (R404), and one a tick younger stays. -/
theorem test_fabric_expiry : (match exec .fabricTlbExpiry (ev (.fabricTlbExpiry 0) ((at_ 1000001).modDie 0 fun d =>
      { d with tlb := [page1 1 true, page1 2 true, page1 0 false] })) with
    | .next s => (s.die 0).tlb = [page1 2 true, page1 0 false]
    | _ => false) = true := by decide
theorem witness_WaitEvents :
    (([.watch 0 0, .watch 0 100, .sleep 0] : List Wait).all fun w => ((gen.modGang 0 fun x => { x with wait := w }).gang? 0).any
      fun x => x.wait = w) = true ∧
    (((gen.modGang 0 fun x => { x with flux := some { ctx := {}, ending := true } }).gang? 0).any (·.passOver)) = true := by
  decide

/-! ### Witnesses: the host, engines and messages -/

/-- The host holder of hub 0 of device 0 has tokens of sector 0, and its filter an entry. -/
def hosted (n : Nat) (s : State) : State := (s.setHold 0 256 { count := n, owner := true, data := 5 }).modHub 0 (·.setFilter 0 n 1)
/-- A pool access of one lane that is not complete. -/
def pooled : Access :=
  ⟨1, 0, 0, 0, .store, .none, none, true, false, false, false,
    [⟨0, 0, .pool (3 * 2 ^ 64 + 8), .pool, 4, 9, 0, none, true, false, 0, false⟩], 0, false, 0⟩
theorem witness_HostEvents :
    hostHolder 0 = 256 ∧ ((at_ 0).hub 0).portUp = true ∧ hostSector 0 0 = true ∧ ((at_ 0).hub 0).filtered 0 = 0 ∧
    ((at_ 0).hub 0).filter.length < 2 ^ 20 ∧ ((hosted 1 (at_ 0)).hub 0).filtered 0 = 1 ∧
    ((hosted 256 (at_ 0)).holdOf 0 256).count ≠ 0 ∧ ((hosted 256 (at_ 0)).hub 0).filtered 0 ≠ 0 ∧
    ((((hosted 256 (at_ 0)).beginRecall 0 256 false none).hub 0).recalls.find? (·.sector = 0)).any (·.till ≤ 2000000) = true := by decide
theorem witness_HostEvents_flip :
    (let s := (at_ 0).modDev 0 fun d => { d with flips := [⟨3, true, [(1, 4)], 1, 0, 4, 0⟩] };
      (s.dev 0).flips.find? (·.page = 3) = some ⟨3, true, [(1, 4)], 1, 0, 4, 0⟩ ∧ s.pageBusy 0 3 = false) := by
  decide
theorem witness_HostEvents_pool :
    (let s := { at_ 2000000 with accesses := [pooled] };
      (s.accesses.find? fun a => a.id = 1 && a.at_ + 2000000 ≤ s.time) = some pooled ∧
      (pooled.lanes.find? fun y => y.got.isNone && y.place = .pool) = pooled.lanes.head?) ∧
    (loaded.lanes.all fun y => y.got.isSome) = true := by decide
/-- An access to the memory of host 0, not complete, before the port of hub 0, which the host's copy of sector 0 lies behind. -/
theorem witness_HostEvents_port :
    (let a : Access := { storing with lanes := storing.lanes.map fun y => { y with loc := .host 64, place := .host } }
      let s : State := { hosted 256 (at_ 0) with accesses := [a] };
      (s.hub 0).portUp = true ∧ (s.hub 0).filter.any (fun e => hubOfHolder e.sector (hostHolder 0) = 0) = true ∧
      s.accesses.any (fun a => a.lanes.any fun y => y.got.isNone && y.loc = Loc.host 64) = true) := by decide
/-- A shelf that fails fences the window of its tenant (R271). -/
theorem test_shelf : (match exec .shelfFailure (ev (.shelfFailure 3) ((at_ 0).modTenant 0 fun t => { t with pwsz := 4096, shelf := 3 })) with
    | .next s => (s.tenant 0).fenced && !(s.tenant 1).fenced
    | _ => false) = true := by decide

/-- A transfer of one scratchpad word to another place. -/
def xfer (k : XKind) (begun done : Bool) : Xfer :=
  ⟨1, 0, 0, 0, 0, 0, 0, k, scr 0, scr 0x1000, 16, 4, 0, 0, 0, 0, 0, 0, [⟨0, 16, false⟩, ⟨0x1000, 0x1010, true⟩], begun, done,
    [some 1, some 2], [], [], none, none, [], none, []⟩
def plainCopy : XKind := .cpy .f32 .p4 false .rne false
theorem witness_EngineEvents_copy :
    (let s := { gen with xfers := [xfer plainCopy false false] };
      s.xferHeld (xfer plainCopy false false) = false ∧ (xfer plainCopy false false).farGroups = [] ∧
        ((xfer plainCopy false false).run s).2.stall = none ∧ ((xfer plainCopy false false).run s).2.faults = []) ∧
    (let q := { xfer plainCopy false false with src := scr 0x10000 };
      (q.run gen).2.stall = none ∧ (q.run gen).2.faults ≠ []) ∧
    (let q := { xfer plainCopy false false with src := 0x200000 };
      (q.run gen).2.stall ≠ none) ∧
    (let q := { xfer .rcpy false false with dst := 0x6008000000000000 };
      let s := { gen.modDev 0 (fun d => { d with run := true }) with xfers := [q] };
      s.xferHeld q = false ∧ q.farGroups = [1] ∧ (s.dev (devOfDie q.die)).run = true) ∧
    (let s := { gen with xfers := [xfer plainCopy true true] };
      (s.pubAll 0 ((xfer plainCopy true true).wrote.map lineOfSec).eraseDups).1 = true) := by decide
theorem witness_EngineEvents_waits :
    (let q := { xfer plainCopy false false with board := [⟨0, 16, true⟩] };
      ({ gen with xfers := [{ q with id := 0 }, q] } : State).xferHeld q = true) ∧
    (let q := { xfer (.coll 0 (.recv 0 1)) false false with dst := scr 0x10000 };
      let s := { gen with xfers := [q] };
      s.xferHeld q = false ∧ (q.run s).2.stall = none ∧ (q.run s).2.faults ≠ [] ∧ ((q.run s).2.s.team? q.team).isSome = true) := by decide
/-- The read of a timed send's source. -/
def reading (q : Xfer) (s : State) (len : Nat) : List (Option Byte) × EngRun :=
  ({ s := s, old := q.log, feed := q.fed, byp := q.byp } : EngRun).read q.eng (ptrSpace q.src) 0 0 q.src len
theorem witness_EngineEvents_timed :
    (let q := xfer (.tsnd 0 2 4) false false;
      let s := { gen with xfers := [q] };
      (s.team? 0).all (fun t => !t.away) = true ∧ (reading q s 2).2.stall = none ∧ (reading q s 2).2.faults = []) ∧
    (let q := { xfer (.tsnd 0 2 4) true false with unread := some 2, src := 0x200000 };
      let s := { gen with xfers := [q] };
      s.xfers.find? (·.id = q.id) = some q ∧ ptrSpace q.src ≠ 1 ∧ (reading q s 2).2.stall ≠ none) ∧
    (let q := { xfer (.tsnd 0 2 4) true false with dst := scr 0x1000, unread := none };
      let s := { gen with xfers := [q] };
      q.timed = true ∧ s.xferHeld q = false ∧ (q.run s).2.stall = none) := by decide
/-- A matrix instruction that clears a tile, in the queue of core 0. -/
def clears (begun : Bool) : MatEnt := ⟨1, 0, 0, 0, .acz 3 1, [], begun⟩
theorem witness_EngineEvents_matrix :
    (let s := { gen with mats := [clears false] };
      s.matHead 0 = some (clears false) ∧ (s.team? 0).isSome = true ∧ s.barred 1 0 [] = false) ∧
    (clears true).op.finished = true := by decide

theorem witness_MessageEvents_barriers :
    got (.circleArrival 0 255 0 0) (circled gen) (fun s => (s.cohort? 0).any fun c => (Store.get {} c.circs 255 : CircBar).phase = 0 &&
      !(Store.get {} c.circs 255 : CircBar).arr.contains (0, 0) && (s.team? 0).any (·.cohort = 0)) = true ∧
    got (.phaseEndNotice 0 255 0) (gen.modGang 0 fun x => { x with bar := some ⟨some 255, 0⟩ }) (fun s =>
      (s.gang? 0).any fun x => x.bar = some ⟨some 255, 0⟩ && (s.team? x.team).any fun t => !t.away) = true ∧
    got (.phaseEndNotice 0 255 0) gen (fun s => (s.gang? 0).any fun x => x.bar ≠ some ⟨some 255, 0⟩) = true := by decide
/-- A register write of gang 0, over entry 63, to register v5 of gang 0 of the team with hallmark `h`. -/
def rstore (h : Word) (tenant : Nat) : RStore := ⟨0, 0, 63, streamId 0 63 0, 0, tenant, h, 0, 5, .k32 7, false⟩
theorem witness_MessageEvents_stores :
    got (.remoteStoreArrival (rstore 0x2001 0)) gen (fun s => (s.byHall 0 0x2001).isNone) = true ∧
    got (.remoteStoreArrival (rstore 1 3)) gen (fun s => (s.byHall 0 1).any fun p => !s.ofTenant p.2 3) = true ∧
    got (.remoteStoreArrival (rstore 1 0)) gen (fun s => (s.byHall 0 1).any fun p => s.ofTenant p.2 0) = true ∧
    got (.remoteStoreAck 0 63 (streamId 0 63 0) .applied) gen (fun s => s.streamNow 0 63 (streamId 0 63 0)) = true := by decide

/-- CHGIVE of an image for entry 2 by the team with hallmark 1, a revocation, or CHSET. -/
def given (revoke force : Bool) (image : BitVec 128) : ChanMsg := ⟨0, 0, 4, 0, 1, 1, 2, image, revoke, force⟩
/-- Entry 2 of team 0: valid, of the team with hallmark `h`. -/
def entry2 (h : Nat) : State := gen.modTeam 0 fun t => { t with chans := Store.set 0 t.chans 2 (BitVec.ofNat 128 (h + 2 ^ 67)) }
theorem witness_MessageEvents_channels :
    ([given false true (2 ^ 68 - 1), given false true (2 ^ 68), given true false 0, given false false 7] : List ChanMsg).all (fun m =>
      got (.chgiveArrival m) gen fun s => (s.byHall 0 1).any fun p => p.1 = 0 && p.2.live && s.ofTenant p.2 0) = true ∧
    gen.byHall 0 2 = none ∧ chValid ((entry2 1).chanOf 0 2) = true ∧ chHall ((entry2 1).chanOf 0 2) = 1 ∧
    chValid ((entry2 2).chanOf 0 2) = true ∧ chHall ((entry2 2).chanOf 0 2) ≠ 1 ∧ chValid (gen.chanOf 0 2) = false := by decide

/-! ### Witnesses: collectives, scheduling and movement -/

/-- Slot 2 of team 0 runs a collective of identity 5 as its rank 0. -/
def running (x : CollSt) : State :=
  gen.modTeam 0 fun t => { t with colls := Store.set {} t.colls 2 { state := x, coll := 5, block := { tmo := 1 }, ranks := [1] } }
theorem witness_CollectiveEvents :
    ([CollSt.matching, .run] : List CollSt).all (fun x => got (.collMatch 2) (running x) fun s => (s.team? 0).any fun t => (t.coll 2).state = x) = true ∧
    (({ running .matching with time := 1000000 } : State).team? 0).any (fun t => let x := t.coll 2;
      x.state = .matching && x.block.tmo ≠ 0 && x.since + x.block.tmo * 1000000 ≤ 1000000) = true ∧
    got (.collStepArrival ⟨5, 1, 0, 0, true, []⟩) (running .run) (fun s => (s.collRank 5 0).any fun p =>
      p.1 = 0 && p.2.1 = 2 && p.2.2.1.state = .resident && (p.2.2.2.lands ⟨5, 1, 0, 0, true, []⟩).isNone) = true := by decide
/-- The collective of `running` has a part for the chunk 0 of rank 1 and one for the parent of the leaves 0 and 1 of tree 0. -/
def parted : State := (running .run).modColl 0 2 fun x => { x with parts := [{ job := .recv 0 1, unit := 0 }, { job := .node 0 (2 ^ 24), unit := 1 }] }
theorem witness_CollectiveEvents_lands :
    ([⟨5, 1, 0, 0, true, [1]⟩, ⟨5, 1, 0, 1, false, [1]⟩] : List CollStep).all (fun m =>
      got (.collStepArrival m) parted fun s => (s.collRank 5 0).any fun p => p.2.2.1.state = .resident && (p.2.2.2.lands m).isSome) = true ∧
    ([true, false] : List Bool).all (fun b => got (.permitReturn 0 2 1 b) parted fun s => (s.team? 0).isSome) = true := by decide

/-- A cohort of device 0, tenant `tenant`, with teams of one core on dies 0 and 1. -/
def cohortOf (tenant prio : Nat) (x : CohSt) : Cohort :=
  { tenant := tenant, dev := 0, lr := { diemask := 3, prio := prio, pword := 1 + 64 + 4096 * 20 }, roles := [.gen], state := x }
/-- Every core of die 0 is one of team 0's, under another partition word. -/
def full (s : State) : State := s.modTeam 0 fun t => { t with cores := List.range 48 }
/-- The machine after `boot .gen` with a cohort in slot 1 and its team 1, in the start queue of core 0 of die 0. -/
def two (c : Cohort) (f : Team → Team) (time : Nat) : State :=
  ((({ gen with time := time } : State).setTeam 1 (f { cohort := 1, tidx := 0 })).modCore 0 fun k => { k with startQ := [1] }).modTenant 0
    (fun t => { t with sched := 0x0007000A }) |> fun s => { s with cohSlots := Store.upd {} s.cohSlots 1 fun sl => { sl with cohort := some c } }
/-- A property of team 1 and its cohort, which are there. -/
def team1 (s : State) (p : Team → Cohort → Bool) : Bool :=
  match s.team? 1, s.cohort? 1 with
  | some t, some c => t.cohort = 1 && p t c
  | _, _ => false
theorem witness_SchedulingEvents_cohorts :
    (two (cohortOf 0 0 .depwait) id 0).cohort? 1 = some (cohortOf 0 0 .depwait) ∧
    (cohortOf 0 0 .depwait).lr.dep0 = 0 ∧ (cohortOf 0 0 .depwait).lr.dep1 = 0 ∧
    (two { cohortOf 0 0 .depwait with depFail := true } id 0).cohort? 1 = some { cohortOf 0 0 .depwait with depFail := true } ∧
    (let c := cohortOf 0 0 .dispatch;
      (two c id 0).cohort? 1 = some c ∧ c.placed < c.lr.nteams ∧ (two c id 0).laterCohort 1 c = false ∧ ((two c id 0).dev 0).boot = none ∧
        (two c id 0).pickDie c = some 1) := by decide
theorem witness_SchedulingEvents_steal :
    (let s := two (cohortOf 0 0 .run) id 0;
      s.idleCore 1 = true ∧ (s.core 1).startQ = [] ∧ (s.die 0).fenced = false ∧ (s.core 0).startQ ≠ [] ∧
      (List.range 48).all (fun k => (s.core (coreKey 0 k)).startQ.length ≤ (s.core 0).startQ.length) = true) ∧
    got (.stealReply 1 [1]) (two (cohortOf 0 0 .run) id 0) (fun s => (s.team? 1).any (·.state = .waiting) && [1].Nodup) = true := by decide
/-- A die whose last slot holds no team has a slot for one. -/
theorem slot_free (s : State) (di : Nat) (h : (Store.get {} s.teamSlots (di * 4096 + 4095) : TeamSlot).team.isSome = false) :
    (s.freeTeamSlot di).isSome = true := by
  unfold State.freeTeamSlot
  rw [show List.range 4096 = List.range 4095 ++ [4095] from List.range_succ, List.foldl_append]
  simp only [List.foldl_cons, List.foldl_nil, h, Bool.false_eq_true, if_false]
  split
  · simp
  · split <;> simp [*]
/-- A team that its die has cores and a slot for starts. -/
theorem starts (s : State) (tid : Nat) (t : Team) (c : Cohort) (ht : s.team? tid = some t) (hc : s.cohort? t.cohort = some c)
    (hp : (placeOn (s.dieUse t.die) c.lr c.roles (if t.stolen then some t.startQ else none)).isSome = true)
    (hf : (s.freeTeamSlot t.die).isSome = true) : (s.startTeam tid).isSome = true := by
  obtain ⟨p, hp⟩ := Option.isSome_iff_exists.1 hp
  obtain ⟨n, hf⟩ := Option.isSome_iff_exists.1 hf
  simp only [State.startTeam, ht, hc, hp, hf, Option.isSome_some]
/-- Team 1 as it waits, and a state in which it may start, with or without its whole cohort. -/
def waiter : Team := { cohort := 1, tidx := 0 }
def ready (all : Bool) : State :=
  two { cohortOf 0 0 .run with placed := 1, lr := { (cohortOf 0 0 .run).lr with cosched := all } } id 0
theorem witness_SchedulingEvents_start (all : Bool) :
    team1 (ready all) (fun t c => (ready all).inQueue 1 t && !(ready all).stoppedFirst t.die c.lr.prio none && c.lr.cosched == all) = true ∧
    ((ready all).startTeam 1).isSome = true := by
  refine ⟨by revert all; decide, starts _ 1 waiter ?_ ?_ ?_ ?_ (slot_free _ _ ?_)⟩
  · exact { cohortOf 0 0 .run with placed := 1, lr := { (cohortOf 0 0 .run).lr with cosched := all } }
  all_goals revert all; decide
theorem witness_SchedulingEvents_move :
    (let s := full (two (cohortOf 0 0 .run) id 50000);
      team1 s (fun t c => s.mayMove t c 1 && s.inQueue 1 t) = true) ∧
    got (.teamInstall 1 1) (two (cohortOf 0 0 .run) (fun t => { t with state := .migrating }) 0) (fun s =>
      !(s.die 1).fenced && (s.queueCore 1).isSome && (s.team? 1).any (·.hall = 0)) = true ∧
    got (.teamInstall 1 1) (two (cohortOf 0 0 .run) (fun t => { t with state := .migrating, hall := 3 }) 0) (fun s =>
      (s.team? 1).any (·.tmig.isNone)) = true ∧
    [0, 1].all (fun die => team1 (two (cohortOf 0 0 .run) (fun t => { t with
      state := .saved, die := die, tmig := some ⟨0, 4, 1, 5, 0⟩ }) 5) fun t _ =>
        t.tmig.any fun m => m.till ≤ 5 && m.target ≠ 9 && (die ≠ 0) == (t.die ≠ m.origin)) = true := by decide
theorem witness_SchedulingEvents_preempt :
    (let s := full (two (cohortOf 0 1 .run) id 10000);
      team1 s (fun t c => s.needsRoom 1 t c && t.since + 10000 ≤ s.time && s.victims t c [] [] [0] = some [0]) = true) ∧
    (let s := full (two (cohortOf 1 0 .run) id 10000);
      (s.team? 0).any (fun t => t.state = .resident && t.since + 1000 * ((s.tenant 0).sched.toNat % 2 ^ 16) ≤ s.time) = true ∧
      team1 s (fun t c => s.needsRoom 1 t c && c.tenant ≠ 0) = true) := by decide
theorem witness_SchedulingEvents_save :
    (let s := gen.modTeam 0 fun t => { t with state := .stopping };
      (s.saveTeam 0).isSome = true) ∧
    (let s := gen.modTeam 0 fun t => { t with state := .stopping, ending := some (1, 0, 0, 0) };
      s.quiet 0 1 = true ∧ (s.team? 0).any (fun t => (s.publishTeam t).1) = true) ∧
    (let s := (gen.modTeam 0 fun t => { t with state := .stopping }).modGang 0 fun x => { x with rgnOpen := true };
      (s.restartTeam 0).isSome = true) ∧
    (let s := (gen.modTeam 0 fun t => { t with state := .restart }).modGang 0 fun x => { x with resident := false };
      (s.team? 0).any (fun t => t.returnable && !(s.die t.die).fenced && !s.stoppedFirst t.die (s.prioOf t) (some t.stopAt)) = true ∧
        (s.placeAgain 0).isSome = true) := by decide
/-- Nine resident gangs of team 0 on partition 0 of core 0: eight active, and one that has waited since time 0. -/
def nine : State := (List.range 9).foldl (fun s i => s.setGang i { team := 0, idx := i, resident := true, active := i < 8, movedAt := 20000 - i })
  { gen with time := 40000 }
theorem witness_SchedulingEvents_swap :
    oldest (nine.partGangs 0 0 0) = some 8 ∧ (nine.gang? 8).any (fun x => max x.movedAt x.eligAt + 20000 ≤ nine.time) = true ∧
    ((nine.partGangs 0 0 0).filter fun p => p.2.active).map (·.2.movedAt) = (List.range 8).map (20000 - ·) := by decide
/-- The waiting gang takes the place of the active gang that has gone longest without a move (R362). -/
theorem test_swap : (match exec .pendingForcedSwap (ev (.pendingForcedSwap 0 0) nine) with
    | .next s => (s.gang? 7).any (fun x => !x.active) && (s.gang? 8).any (·.active)
    | _ => false) = true := by decide

/-! ### Witnesses: the fabric and devices -/

theorem witness_FabricEvents_links :
    (let s := (at_ 0).modLink 0 95 fun l => { l with up := true, lost := 8 };
      ((s.dev 0).link 95).up = true ∧ 8 ≤ ((s.dev 0).link 95).lost) ∧
    (let s := (at_ 0).modLink 0 31 fun l => { l with train := true };
      ((s.dev 0).link 31).train = true) ∧
    (let s := (at_ 0).modLink 0 95 fun l => { l with down := 0x80 };
      ((s.dev 0).link (32 + 63)).down.getLsbD 7 = true) := by decide
/-- A flit with an owner token is reported lost, and the message beside it stays (R414). -/
theorem test_flit : (match exec .flitRetryExhausted { at_ 0 with net := [.tdat (tok 4 0 1 true), .trd (tok 5 0 0 false)],
                                                                 curEv := some (.flitRetryExhausted 0 40 [0, 1]) } with
    | .next s => s.net = [.trd (tok 5 0 0 false), .lossReport 0 0 .dirty]
    | _ => false) = true := by decide
theorem witness_FabricEvents_rates :
    (((at_ 0).die 0).rateOf 2047).isNone = true ∧
    (let s := { (at_ 1000) with dies := Store.set {} [] 0 { rates := [(63, some ⟨7, 128, 0, 0⟩)] } };
      (s.die 0).rateOf 7 = some 63 ∧ Store.get none (s.die 0).rates 63 = some ⟨7, 128, 0, 0⟩) ∧
    (let s := { (at_ 2000) with dies := Store.set {} [] 0 { rates := [(63, some ⟨7, 248, 0, 0⟩)] } };
      Store.get none (s.die 0).rates 63 = some ⟨7, 248, 0, 0⟩ ∧ 0 + 2000 ≤ s.time) := by decide
theorem witness_FabricEvents_clocks :
    (let s := (at_ 1000).modDie 0 fun x => { x with pendClk := some (1000, 600) };
      (s.die 0).pendClk = some (1000, 600) ∧ 1000 ≤ s.time) ∧
    (let s := (at_ 1000000).modDev 0 fun d => { d with plimit := 1200, thrAt := 1 };
      (s.dev 0).plimit < 1201 ∧ (s.dev 0).thrAt - 1 + 1000000 ≤ s.time ∧ s.fastest 0 = some 0 ∧ 650 ≤ (s.die 0).target) := by decide
/-- A descriptor of a slot of 100 µs with a guard of 60 ns that connects group 3. -/
def desc : BitVec 128 := BitVec.ofNat 128 (100 + 2 ^ 16 * 60 + 2 ^ 64 * 8)
/-- The device runs a rotation of that slot. -/
def rotating (time : Nat) : State := (at_ time).modDev 0 fun d => { d with slots := [(0, desc)], run := true, startAt := 1000, circQ := [⟨1, 3, 5⟩] }
theorem witness_FabricEvents_circuit :
    ([1, 32] : List Nat).all (fun n => got (.slotTableWrite 0 0 desc 0) (gen.modGang 0 fun x => { x with wait := .acks, acks := n }) fun s =>
      (s.gang? 0).any fun x => x.wait = .acks && x.acks = n) = true ∧
    ((at_ 0).modDev 0 fun d => { d with startAt := 1 }).dev 0 ≠ (at_ 0).dev 0 ∧
    ((rotating 101000).dev 0).slotNow 101000 = some (desc, 0) ∧ ((rotating 1060).dev 0).slotNow 1060 = some (desc, slotGuard desc) ∧
    ((rotating 1040).dev 0).slotNow 1040 = some (desc, 40) ∧ 40 < slotGuard desc ∧
    ((rotating 5000).dev 0).stopAt = none ∧
    (let d := { (rotating 5000).dev 0 with stopAt := some (101000, false) };
      d.run = true ∧ d.stopAt = some (101000, false) ∧ 5000 < 101000) := by decide
/-- What a slot's time suffices for is sent, and what is left waits for the next rotation (R423). -/
theorem test_slot : (((rotating 101000).dev 0).sendSlot 101000).circQ = [⟨1, 3, 5⟩] ∧
    (((rotating 5000).dev 0).sendSlot 5000).circQ = [] := by decide

/-! ### Witnesses: further clauses -/

/-- Page 0 of device 0 is in host bias. -/
def biased (s : State) : State := s.modDev 0 fun d => { d with bias := Store.set false d.bias 0 true }
theorem witness_TokenMessages_hostBias :
    got (.tdat (tok 0 0 256 true)) (biased (at_ 20000)) (fun s => takes (tok 0 0 256 true) s && s.hostBias (secDev 0) (secPa 0)) = true ∧
    got (.ttok (tok 255 0 1 false)) (biased (at_ 0)) (fun s => takes (tok 255 0 1 false) s && s.hostBias (secDev 0) (secPa 0)) = true := by
  decide
theorem witness_Recasts_again :
    got (.trec (recastMsg 0 255 1 0)) { at_ 20000 with recastAct := Store.set 0 [] 255 2 } (fun s => !s.holderFenced 0 255 &&
      Store.get 0 s.recastAct (0 * 512 + 255) = (1 : BitVec 8).toNat + 1) = true ∧
    ((((at_ 0).modHome (unitOf 0) fun u => { u with done := some { sector := 0, old := 0, first := 0, lastTx := 0 } }).home (unitOf 0)).done.any
      fun r => r.sector = 0) = true ∧
    (let s := (at_ 48000).modHome (unitOf 0) fun u => { u with held := [⟨0, 5, .dirty⟩] };
      (s.smetaOf 0).cast ≠ 5 ∧ s.secState 0 = .idle) := by decide
theorem witness_MemoryEvents_remote :
    (let w := walking true (some (.flt 1 0));
      ({ gen with walks := [w] } : State).walks.find? (fun x => x.id = w.id && x.res.isNone) = some w ∧ w.remote = true) ∧
    got (.remoteWalkRequest 1) { gen with walks := [walking true none] } (fun s => !s.circWaits (devOfDie 0) 1) = true ∧
    got (.lineFillComplete ⟨0, none, 0, true, false, false⟩) (biased (at_ 0) |>.modDev 0 fun d => { d with bias := [] }) (fun s =>
      !(s.die 0).fenced && !s.bypasses 0 0 && !s.hostBias 0 (secPa 0) && !s.hostBias 0 (secPa 1)) = true := by decide
theorem witness_WaitEvents_secondary :
    (([.watch 0 0, .sleep 0] : List Wait).all fun w => ((gen.modGang 0 fun x => { x with wait2 := w }).gang? 0).any
      fun x => x.wait2 = w) = true := by decide
theorem witness_MessageEvents_away :
    got (.phaseEndNotice 0 255 0) ((gen.modTeam 0 fun t => { t with state := .saved }).modGang 0 fun x => { x with bar := some ⟨some 255, 0⟩ })
      (fun s => (s.team? 0).any Team.away) = true ∧
    got (.phaseEndNotice 0 255 1) (gen.modGang 0 fun x => { x with bar := some ⟨some 255, 0⟩ })
      (fun s => (s.gang? 0).any fun x => x.bar ≠ some ⟨some 255, 1⟩) = true ∧
    got (.remoteStoreArrival (rstore 1 0)) (gen.modTeam 0 fun t => { t with state := .restart }) (fun s =>
      (s.byHall 0 1).any fun p => s.ofTenant p.2 0 && p.2.state = .restart) = true := by decide
theorem witness_CollectiveEvents_away :
    got (.collStepArrival ⟨5, 1, 0, 0, true, []⟩) ((running .run).modTeam 0 fun t => { t with state := .saved }) (fun s =>
      (s.collRank 5 0).any fun p => p.1 = 0 && p.2.1 = 2 && p.2.2.1.state = .saved) = true ∧
    got (.collStepArrival ⟨6, 1, 0, 0, true, []⟩) (running .run) (fun s => (s.collRank 6 0).isNone) = true ∧
    got (.collMatch 2) (running .done) (fun s => (s.team? 0).any fun t => (t.coll 2).state ≠ .matching && (t.coll 2).state ≠ .run) = true := by
  decide
/-- A core of team 0 with narrow dirty bytes whose tokens another die holds. -/
def unpublished (s : State) : State := (holds 1 256 true s).setL1 0 0 { valid := 1, dirty := 1, data := 9 }
theorem witness_SchedulingEvents_waits :
    (let s := unpublished (gen.modTeam 0 fun t => { t with state := .stopping }) |>.setHomeTok 0 (0, false);
      (s.team? 0).any (fun t => t.ending.isNone && t.state = .stopping) = true ∧ (s.saveTeam 0).isNone = true) ∧
    (let s := ((unpublished (gen.modTeam 0 fun t => { t with state := .stopping })).modGang 0 fun x => { x with rgnOpen := true }).setHomeTok 0
        (0, false);
      ((s.team? 0).any fun t => (s.cohort? 0).any fun c => s.restarts 0 t c) = true ∧ (s.restartTeam 0).isNone = true) := by decide
theorem witness_FabricEvents_more :
    (let s := { (at_ 4000) with dies := Store.set {} [] 0 { rates := [(63, some ⟨7, 128, 0, 0⟩)] } };
      Store.get none (s.die 0).rates 63 = some ⟨7, 128, 0, 0⟩ ∧ (s.time - 0) / 2000 = 2) ∧
    ((({ gen with net := [.slotTableWrite 0 0 desc 0, .slotTableWrite 1 0 desc 0] } : State).take (.slotTableWrite 0 0 desc 0)).any
      fun s => s.net = [.slotTableWrite 1 0 desc 0]) = true ∧
    (let s := rotating 101000 |>.modDev 0 fun d => { d with stopAt := some (101000, true) };
      (s.dev 0).run = true ∧ (s.dev 0).stopAt = some (101000, true)) := by decide
/-- The clock of die 0 steps to 600 MHz at 1 µs. -/
def clocked (time : Nat) : State := (at_ time).modDie 0 fun x => { x with pendClk := some (1000, 600) }
theorem witness_StepRunsDecoded_time :
    ({ at_ 0 with agenda := [] } : State).nextTimed = none ∧ (clocked 0).nextTimed = some (1000, .clockStep 0) ∧
    (clocked 1000).nextTimed = some (1000, .clockStep 0) ∧
    [at_ 0, clocked 0].all (fun s => s.woken.isNone) = true := by decide
/-- Time stops at a clock step's tick, and the step happens before time goes on (R419). -/
theorem test_time : (match step { clocked 0 with agenda := [.time 5000] } with
    | .next s => s.time = 1000
    | _ => false) = true ∧
    (match step { clocked 1000 with agenda := [.time 5000] } with
    | .next s => s.time = 1000 && (s.die 0).mhz = 600
    | _ => false) = true := by decide
theorem witness_DeviceEvents_errors :
    backed (secPa 0) = true ∧ losable (.trd (tok 1 0 0 false)) = true ∧
    ([(none, false), (some 5, true)] : List (Option Nat × Bool)).all (fun p =>
      ((at_ 0).modDie 0 fun d => { d with relock := p.1 }).frozen (.trd (tok 0 0 0 false)) = p.2) = true := by decide
/-- What the start of device 1 finds: `n` the step that fails, `id` the number at its connector. -/
def found (n id : Nat) : StartOutcome := ⟨n, 0x7F, id, [(0, 0)], none⟩
/-- Device 1 runs a start that is at step `p`, and device 2 has reported `id2`. -/
def booting (warm halt : Bool) (p n id id2 : Nat) (s : State) : State :=
  (s.modDev 1 fun d => { d with phase := p, busy := true, boot := some ⟨warm, found n id, halt⟩ }).modDev 2 fun d => { d with ident := some id2 }
theorem witness_DeviceEvents_begin :
    (((at_ 0).take (.coldStart 1 (found 0 1))).isNone && ((at_ 0).dev 1).boot.isNone && !((at_ 0).dev 1).busy) = true ∧
    got (.coldStart 1 (found 0 1)) (booting false false 1 0 1 2 (at_ 0)) (fun s => (s.dev 1).boot.isSome) = true ∧
    got (.warmStart 0 0 (found 0 0)) (gen.modDev 0 fun d => { d with boot := some ⟨true, found 0 0, true⟩ }) (fun s =>
      (s.dev 0).boot.any (·.halt) && s.liveTeams 0 ≠ []) = true ∧
    got (.warmStart 1 0 (found 0 1)) (booting true true 7 0 1 2 (at_ 0)) (fun s => (s.dev 1).boot.any (·.halt) && s.liveTeams 1 = []) = true ∧
    got (.warmStart 1 0 (found 0 1)) (booting true false 2 0 1 2 (at_ 0)) (fun s => (s.dev 1).boot.any (!·.halt)) = true := by decide
/-- A start at a step, and whether the step fails. -/
def fails (warm : Bool) (p n id id2 : Nat) : Bool := (booting warm false p n id id2 (at_ 0)).stepFails 1 p ⟨warm, found n id, false⟩
theorem witness_DeviceEvents_steps :
    [1, 3, 5].all (fun p => fails false p p 1 2 && !fails false p 0 1 2 && stepAfter false p ≠ 7) = true ∧
    [(1, 1), (33, 2), (1, 2)].map (fun x => fails true 2 0 x.1 x.2) = [true, true, false] ∧
    fails false 6 0 1 2 = false ∧ stepAfter false 6 = 7 ∧ stepAfter true 2 = 4 ∧ (found 3 1).dieOk.getLsbD 7 = false := by decide
/-- An image that verifies, and is not too old, passes step 4. -/
theorem witness_DeviceEvents_image (h : Config.sm2Verify 0 (Config.sm3 []) 0 = true) :
    ((booting false false 4 0 1 2 (at_ 0)).modDev 1 fun d => { d with fuseKey := Config.sm3 (toBytes 64 0) }).stepFails 1 4
      ⟨false, found 0 1, false⟩ = false := by
  have hd : (((booting false false 4 0 1 2 (at_ 0)).modDev 1 fun d => { d with fuseKey := Config.sm3 (toBytes 64 0) }).dev 1) =
      { ((booting false false 4 0 1 2 (at_ 0)).dev 1) with fuseKey := Config.sm3 (toBytes 64 0) } := rfl
  have hi : (booting false false 4 0 1 2 (at_ 0)).dev 1 =
      { phase := 4, busy := true, boot := some ⟨false, found 0 1, false⟩ } := rfl
  simp only [State.stepFails, hd, hi, Dev.accepts, Dev.image, found]
  simp
  exact h
/-- A control cohort's record in the tenant's host window of device 1, which takes commands. -/
def startable : State :=
  (((at_ 0).modTenant (tenantKey 1 0) fun t => { t with hwsz := 256 }).modDev 1 fun d => { d with phase := 7 }) |> fun s =>
    { s with hostMem := writeBytes [] (2 ^ 64) (toBytes 32 goodRec) }
theorem witness_DeviceEvents_start :
    (startable.dev 1).busy = false ∧ (startable.dev 1).phase = 7 ∧ ptrSpace (0x4000000000000000 : DWord) = 4 ∧
    ptrCause (0x4000000000000000 : DWord) 0 0 = none ∧ startable.cohortList = [] ∧
    (match startable.readLaunch 1 ((startable.controlDie 1).getD 0) 0 0x4000000000000000 with
      | .ok q => ((startable.controlDie 1).bind fun die => startable.newCohort 1 die 0 true q).isSome
      | .error _ => false) = true := by decide
theorem witness_DeviceEvents_commands :
    (let s := gen.modDev 0 fun d => { d with phase := 7 };
      (s.dev 0).phase = 7 ∧ (s.dev 0).busy = false ∧ (s.dev 0).run = false ∧ (s.die 7).fenced = false ∧
      Store.get none s.grants 0 = none ∧ (s.cohortList.any fun p => p.2.dev = 0 && p.2.tenant = 0 && p.2.going) = true) ∧
    quietReg 0x101 = true ∧ quietReg 0x110 = false ∧
    ([(0, 5), (1, 0xFF)] : List (Nat × Nat)).all (fun x =>
      (podDevs 0).any fun k => k ≠ 3 && (Store.get none ({ at_ 0 with grants := [(1, some 6)] } : State).grants k).any (· ≠ x.2)) = true ∧
    (podDevs 0).all (fun k => k = 1 || (Store.get none ({ at_ 0 with grants := [(1, some 6)] } : State).grants k).all (· = 6)) = true := by
  decide

/-! ### Decoding and the machine as a whole -/

/-- IF_P inside a block of 32 bytes, at its end, and past it (R62, R74). -/
theorem test_decode_block : decodeWord 0x000000200000000000401C19 20 = .one (.ifThen false 1 0x20) 12 ∧
    decodeWord 0x000000200000000000401C19 21 = .illegal 1 := by decide
/-- Reserved bits of a payload, and a major opcode that the tables do not give (R74). -/
theorem test_decode_illegal : decodeWord 0x4000000000001C00 0 = .illegal 2 ∧ decodeWord 0x1FFC 0 = .illegal 3 := by decide
/-- KADD k8, k5, k6 and KADD k4, k5, k6 are a pair; the same destination twice, and a source of B that names A's destination,
are pairing faults, but not a source of A that names B's (R71). -/
theorem test_decode_pair :
    decodeWord (0x0000000301411C480000000301421C4B : BitVec 128) 0 = .two (.kadd g false 8 (r 5) (ri 6)) (.kadd g false 4 (r 5) (ri 6)) ∧
    decodeWord (0x0000000301411C480000000301411C4B : BitVec 128) 0 = .pairing ∧
    decodeWord (0x0000000301411C480000000301415C4B : BitVec 128) 0 = .pairing ∧
    decodeWord (0x0000000301415C480000000301411C4B : BitVec 128) 0 = .two (.kadd g false 4 (r 5) (ri 6)) (.kadd g false 5 (r 5) (ri 6)) := by
  decide
theorem witness_DecodeEncode :
    (Instr.kadd g false 4 (r 5) (ri 6)).WellFormed = true ∧ (encode (.kadd g false 4 (r 5) (ri 6))).isSome = true ∧
    (encode (.kadd g false 4 (r 5) (ri 6))).all (fun e => decodeOp e = .op (.kadd g false 4 (r 5) (ri 6))) = true := by decide

/-- KADD k4, k5, k6 where the next step fetches. -/
def placed : State := State.reset.withFetchWord 64 0x0000000301411C48
/-- The step of gang 0 reads that word at bootVa and executes it, and what it comes to has a property. -/
def fetches (s : State) (p : State → State → Bool) : Bool :=
  let q := ({ s with agenda := [] } : State).makeActive 0
  let k := q.turnOf 0
  let x := q.readyIssue k
  decide (s.agenda = [.issue 0]) && ({ s with agenda := [] } : State).mayIssue 0 && k = 0 && (q.gang? k).all (fun P => P.flux.all fun f => f.held.isEmpty) &&
    match x.fetchBlock 0 0 0 0 (BitVec.ofNat 64 bootVa) with
    | .ok b u => decide (decodeWord (b.setWidth 128) 0 = .one (.kadd g false 4 (r 5) (ri 6)) 8) &&
        (match exec (.kadd g false 4 (r 5) (ri 6)) u with
          | .next t => p x t
          | _ => false)
    | _ => false
theorem witness_StepRunsDecoded : fetches placed (fun s t => !s.curSec && !secHeld s t 0 && !(s.gang? 0).any Gang.split) = true := by
  decide
/-- Gang 0 split: its secondary slot is at that word, its primary slot at a NOP past it, and k5 is owed or not. -/
def forked (owed : List (Nat × RegRef)) : State := placed.modGang 0 fun x => { x with
  owed := owed,
  regs := { x.regs with pri := { x.regs.pri with pc := 0x10008, lmask := 0xFFFF }, sec := ⟨0x10000, 0xFFFF0000, true, 1, 0⟩ } }
theorem witness_StepRunsDecoded_split :
    fetches (forked []) (fun s t => s.curSec && !secHeld s t 0) = true ∧
    fetches (forked [(1, .k 5)]) (fun s t => s.curSec && secHeld s t 0 && t.priFree 0 &&
      match issuePrimary 0 t with
      | .next _ => true
      | _ => false) = true := by decide
theorem witness_StepRunsDecoded_fetch :
    codeOk (BitVec.ofNat 64 bootVa) = true ∧
    (match placed.translate 0 0 0 1 0 false with
      | .ok e => e.x && !placed.poisonAt 0 (e.pa bootVa) && (Store.find (placed.core 0).icache (icKey 0 bootVa)).isNone
      | _ => false) = true ∧
    ({ at_ 0 with agenda := [] } : State).frozen (.relockEnd 0) = false := by decide
/-- A pending gang whose word waits no more is looked at before time goes on (R362). -/
theorem witness_StepRunsDecoded_woken :
    ((placed.modGang 0 fun x => { x with active := false, wait := .interlock }).woken) = some 0 ∧
    ((placed.modGang 0 fun x => { x with active := false, wait := .interlock }).nextTimed).isNone = true := by decide
/-- The step adds k5 and k6 into k4 and goes on past the word. -/
theorem test_step : (match step (placed.modRegs 0 fun x => (x.setK 5 40).setK 6 2) with
    | .next s => (s.gang? 0).any fun x => x.regs.k 4 = 42 && x.regs.pri.pc = 0x10008
    | _ => false) = true := by decide
theorem witness_MemoryFormKept : placed.memWf = true ∧ (match step placed with
    | .next _ => true
    | _ => false) = true := by decide

end Sys2Proof.Tests
end

section
/-!
SUPPORT. The fixed registers and the words that only write registers: O50 and O1.
-/
namespace Sys2Proof.Machine

/-! ### Writes that the fixed registers discard (R31) -/

theorem foldl_putV_discards (ls : List Nat) (x : Regs) {r : Nat} (hr : 255 ≤ r) (f : Nat → Word) :
    ls.foldl (fun x l => x.putV r l (f l)) x = x := by
  induction ls with
  | nil => rfl
  | cons l ls ih => rw [List.foldl_cons, show x.putV r l (f l) = x from if_pos hr, ih]

/-- A write of v255 keeps nothing (R31). -/
theorem setV_discards (x : Regs) {r : Nat} (hr : 255 ≤ r) (m : BitVec 32) (f : Nat → Word) : x.setV r m f = x := by
  unfold Regs.setV
  rw [foldl_putV_discards _ _ hr]
  exact if_pos hr

/-- A write of k127 keeps nothing (R31). -/
theorem setK_discards (x : Regs) {r : Nat} (hr : 127 ≤ r) (w : Word) : x.setK r w = x := if_pos hr

/-- Settles O50: reads of the fixed registers are constant, and each write of one is discarded, the high half of a write to
the pair at k126 among them. -/
theorem fixedRegisters : Obligations.FixedRegisters := by
  intro x m f b w z q l
  have hv : x.setV 255 m f = x := setV_discards x (Nat.le_refl 255) m f
  exact ⟨rfl, rfl, rfl, rfl, rfl, rfl, congrArg Regs.vregs hv, congrArg Regs.vfull hv, setK_discards x (Nat.le_refl 127) w,
    rfl, rfl, setK_discards _ (Nat.le_refl 127) _⟩

/-! ### Words whose whole effect is to write registers -/

/-- Instruction `i` is the issue of an effect that, past the word, writes the registers `ds` in the executing lanes and does
nothing else. -/
def IssuesWrite (ds : List RegRef) (i : Instr) (s : State) (c : Ctx) : Prop :=
  ∃ eff, exec i s = issue i s eff ∧ Wrote ds c s (eff c (s.advance c))

/-- The destinations may be read off the word's constructor. -/
theorem issuesWrite_intro {i : Instr} {s : State} {c : Ctx} {ds es : List RegRef} {eff : Ctx → State → Res}
    (hds : i.regDests = some ds) (hes : i.regDests = some es) (hexec : exec i s = issue i s eff)
    (hw : Wrote es c s (eff c (s.advance c))) : IssuesWrite ds i s c :=
  ⟨eff, hexec, Option.some.inj (hes.symm.trans hds) ▸ hw⟩

/-- Such a word completes when it executes normally, and memory is as before. -/
theorem IssuesWrite.completes {ds : List RegRef} {i : Instr} {s : State} {c : Ctx} (h : IssuesWrite ds i s c)
    (hn : normal i s = some c) :
    ∃ x, exec i s = .next (s.put c x) ∧ RegFrame ds c.emask c.past x ∧ SameMemory s (s.put c x) := by
  obtain ⟨eff, hexec, x, hdone, hframe⟩ := h
  refine ⟨x, ?_, hframe, put_memory s c x⟩
  rw [hexec, issue_normal hn, hdone]
  rfl

/-- A wide product or sum takes a pair, whatever the type (R125). -/
theorem wrote_wide (c : Ctx) (s : State) (b : Bool) (d : RegNum) (f : Nat → DWord) :
    Wrote (vDest (b || true) d) c s (c.putV2 (s.advance c) d f) := by
  rw [Bool.or_true]
  exact wrote_putV2 ..

/-- A result of a type's own width takes what the type takes (R125). -/
theorem wrote_narrow (c : Ctx) (s : State) (t : IntT) (d : RegNum) (f : Nat → Int) :
    Wrote (vDest (t.is64 || false) d) c s (c.putT (s.advance c) t d f) := by
  rw [Bool.or_false]
  exact wrote_putT ..

/-- A moment register keeps its value when no lane executes (R165). -/
theorem wrote_putM (c : Ctx) (s : State) (d : MomNum) (t : Trip) : Wrote [.m d.toNat] c s (c.putM (s.advance c) d t) :=
  wrote_if _ _ _ _ _ (wrote_mod fun x => setM_frame x _ _ _)

/-- A value that goes to a uniform register when a lane executes, or to a vector register (R169, R180). -/
theorem wrote_uniOrLane (c : Ctx) (s : State) (uni : Bool) (d : RegNum) (v : Word) :
    Wrote (if uni then [.k d.toNat] else [.v d.toNat]) c s
      (if uni then (if c.emask = 0 then .done (s.advance c) else c.putK (s.advance c) d v)
       else c.putV (s.advance c) d fun _ => v) := by
  cases uni
  · exact wrote_putV ..
  · exact wrote_if _ _ _ _ _ (wrote_putK ..)

/-- Every register-only word, grouped by the way its effect writes: a uniform register or pair, a vector register or pair, a
typed result, a predicate, a moment register, or, one by one, by what the word's own fields choose. -/
theorem issuesWrite_of_regDests {i : Instr} {ds : List RegRef} (hds : i.regDests = some ds) (hwf : i.WellFormed = true)
    (s : State) (c : Ctx) : IssuesWrite ds i s c := by
  cases i with
  | nop => exact issuesWrite_intro hds rfl rfl (wrote_none ..)
  | kmov | kadd | ksub | kmul | kand | kor | kxor | kshl | kshr | ksra | kmin | kmax | ksel =>
    exact issuesWrite_intro hds rfl rfl (wrote_ifK ..)
  | timeNow | cycClk => exact issuesWrite_intro hds rfl rfl (wrote_putK2 ..)
  | cycFreq | cycSteps | linkcSt | linkcCst => exact issuesWrite_intro hds rfl rfl (wrote_putK ..)
  | kbc | isel | and | or | xor | andn | orn | xnor | not | shl | shr | sra | rot | brev =>
    exact issuesWrite_intro hds rfl rfl (wrote_ifV ..)
  | iadd | isub | idiv | irem | imin | imax | iabs | ineg => exact issuesWrite_intro hds rfl rfl (wrote_putT ..)
  | icmp | fcmp => exact issuesWrite_intro hds rfl rfl (wrote_putP ..)
  | lea => exact issuesWrite_intro hds rfl rfl (wrote_putV2 ..)
  | isad | tern | fshl | fshr | popc | clz | ctz | bfx | bfi | bmsk | permb | padd | psub | pmul | pmin | pmax | pavg | pshl
  | pshr | psra | pcmp | fadd | fsub | fmul | ffma | fdiv | fmin | fmax | fclass | frcp | frsq | fsqrt | fexp2 | flog2 | fsin
  | fcos | ftanh | xadd2 | xmul2 | xfma2 | cvtif | cvtff | cvtffWide | cvtbk | cvtbkWide | fscale | fround | ffrac | lscan
  | momd | momn => exact issuesWrite_intro hds rfl rfl (wrote_putV ..)
  | momz | momu | momw | momm => exact issuesWrite_intro hds rfl rfl (wrote_putM ..)
  | lred | momq => exact issuesWrite_intro hds rfl rfl (wrote_uniOrLane ..)
  | kcmp g rel uns b64 q a b =>
    refine issuesWrite_intro hds rfl rfl ?_
    cases b64 <;> exact wrote_putQ ..
  | kli g b64 d v =>
    refine issuesWrite_intro hds rfl rfl ?_
    cases v with
    | i32 w => exact wrote_ifK ..
    | i64 w =>
      have hb : b64 = true := (Bool.and_eq_true_iff.mp hwf).2
      subst hb
      exact wrote_putK2 ..
  | mov g b64 d a =>
    refine issuesWrite_intro hds rfl rfl ?_
    cases a with
    | reg r => exact wrote_ifV ..
    | i32 w => exact wrote_ifV ..
    | i64 w =>
      have hb : b64 = true := hwf
      subst hb
      exact wrote_putV2 ..
  | vtok g b64 d a =>
    refine issuesWrite_intro hds rfl rfl ?_
    cases lowLane c.emask with
    | none => exact wrote_done ..
    | some l => exact wrote_ifK ..
  | movs g uni d v =>
    refine issuesWrite_intro hds rfl rfl ?_
    cases uni
    · exact wrote_ifV ..
    · exact wrote_ifK ..
  | imul g t k d a b =>
    refine issuesWrite_intro hds rfl rfl ?_
    cases k with
    | lo => exact wrote_narrow ..
    | hi => exact wrote_narrow ..
    | wide => exact wrote_wide ..
  | imad g t wide d a b x =>
    refine issuesWrite_intro hds rfl rfl ?_
    cases wide
    · exact wrote_narrow ..
    · exact wrote_wide ..
  | cvtfi g t rm d a =>
    refine issuesWrite_intro hds rfl rfl ?_
    by_cases h : t.width = 64
    · simp only [h, if_true, decide_true]; exact wrote_putV2 ..
    · simp only [h, if_false, decide_false]; exact wrote_putV ..
  | shfl g mode w d a b p =>
    exact issuesWrite_intro hds rfl rfl (wrote_mod fun x => (setV_frame x _ _ _).trans (setP_frame _ _ _ _))
  | vote g k uni inv d p =>
    refine issuesWrite_intro hds rfl rfl ?_
    cases k with
    | ballot =>
      cases uni
      · exact wrote_if _ _ _ _ _ (wrote_putV ..)
      · exact wrote_if _ _ _ _ _ (wrote_putK ..)
    | any | all =>
      cases uni
      · exact wrote_if _ _ _ _ _ (wrote_putP ..)
      · exact wrote_if _ _ _ _ _ (wrote_putQ ..)
  | lmatch g all b64 d a =>
    refine issuesWrite_intro hds rfl rfl ?_
    cases all
    · exact wrote_putV ..
    · exact wrote_putP ..
  | _ => exact absurd hds nofun

/-- Settles O1: each register-only word is the issue of an effect that writes its destinations and nothing else, by cases on
the word. -/
theorem registerWords : Obligations.RegisterWords := by
  intro i s c ds hds hn
  obtain ⟨o, hc, -⟩ := checked_of_normal hn
  obtain ⟨-, -, -, -, -, -, hwf, -⟩ := gang_of_checked hc
  exact (issuesWrite_of_regDests hds hwf s c).completes hn

end Sys2Proof.Machine
end

section
/-!
SUPPORT. The decoder and the encoder: worked words (O57) and where decoding an encoding loses some of it (O58).
-/
namespace Sys2Proof

/-- Settles O57: the decoder is run on each of the words. -/
theorem decodeWords : Obligations.DecodeWords := by
  unfold Obligations.DecodeWords
  decide

/-- EXIT in the 64-bit form decodes whatever its upper half holds: the decoder leaves the `hi` of a word without one unread, and
nothing in `Enc` keeps it at 0. -/
theorem decodeOp_exit (hi : BitVec 64) : decodeOp ⟨.w64, mkPl 0x0D 0 0 gFix 0 f0 f0 f0, hi⟩ = .op (.exit gFix) := rfl

/-- Refutes O58: two encodings of EXIT that differ in the upper half, which the 64-bit form has not, decode to the same
instruction, and it encodes to one of them alone. The second conjunct ranges over every `Enc`, and so over those that `Enc.ofBits`
reads from no word: the counterexample is one of them. -/
theorem not_decodeEncode : ¬ Obligations.DecodeEncode := by
  rintro ⟨-, hback⟩
  obtain ⟨-, h0⟩ := hback ⟨.w64, mkPl 0x0D 0 0 gFix 0 f0 f0 f0, 0⟩ (.exit gFix) (decodeOp_exit 0)
  obtain ⟨-, h1⟩ := hback ⟨.w64, mkPl 0x0D 0 0 gFix 0 f0 f0 f0, 1⟩ (.exit gFix) (decodeOp_exit 1)
  have hhi : (0 : BitVec 64) = 1 := congrArg Enc.hi (Option.some.inj (h0.symm.trans h1))
  exact absurd hhi (by decide)

end Sys2Proof
end

section
/-!
SUPPORT. Words that their guard holds back (O2) and what one step runs (O56).
-/
namespace Sys2Proof.Machine

/-! ### Words that their guard holds back -/

/-- The meaning of every instruction that has an encoding is the issue of some effect; the others are the events. -/
theorem exec_eq_issueF {i : Instr} (h : encode i ≠ none) (s : State) :
    ∃ act eff, exec i s = issueF i s act eff := by
  cases i with
  | _ => first | exact ⟨_, _, rfl⟩ | exact absurd rfl h

theorem encode_of_opnOf {i : Instr} {o : Opn} (h : opnOf i = .ok o) : encode i ≠ none := by
  intro hn
  simp only [opnOf, hn, reduceCtorEq] at h

/-- Settles O2: what passes the checks has an encoding, so its meaning is an issue, and an issue that the guard holds back only
moves the PC. -/
theorem guardedOffWords : Obligations.GuardedOffWords := by
  intro i s c h
  obtain ⟨o, hc, -⟩ := checked_of_guardedOff h
  obtain ⟨-, -, -, -, -, ho, -, -⟩ := gang_of_checked hc
  obtain ⟨act, eff, he⟩ := exec_eq_issueF (encode_of_opnOf ho) s
  rw [he, issueF_guardedOff h, advance_self]

/-! ### What a step performs -/

theorem step_of_agenda {s : State} {h : Happening} {rest : List Happening} (ha : s.agenda = h :: rest) :
    step s = perform h { s with agenda := rest } := by
  simp only [step, State.takeHappening, ha]

theorem issueGang_of_issueNext {gid : Nat} {s t : State} (h : s.mayIssue gid = true)
    (ht : issueNext ((s.makeActive gid).turnOf gid) (s.makeActive gid) = .next t) :
    issueGang gid s = .next ((s.makeActive gid).afterTurn t ((s.makeActive gid).turnOf gid)) := by
  simp only [issueGang, h, ht, Bool.not_true, Bool.false_eq_true, if_false]

/-- No pass of the gang waits for the load it began at. -/
def NoneHeld (s : State) (gid : Nat) : Prop :=
  ∀ P f, s.gang? gid = some P → P.flux = some f → f.held = []

theorem issueHeld_of_noneHeld {gid : Nat} {s : State} (h : NoneHeld s gid) : issueHeld gid s = (false, .next s) := by
  unfold issueHeld
  split
  · rfl
  next g hg =>
    split
    · rfl
    next f hf => rw [h g f hg hf]; rfl

theorem issueNext_of_noneHeld {gid : Nat} {s : State} (h : NoneHeld s gid) :
    issueNext gid s = issueSlot gid (s.readyIssue gid) := by
  simp only [issueNext, issueHeld_of_noneHeld h]

/-- A decoded word as a fetch gives it; `none` for one that is illegal or wrongly paired. -/
def Decoded.fetched (d : Decoded) (s : State) : Option Fetched :=
  match d with
  | .one i _ => some (.one i s)
  | .two a b => some (.two a b s)
  | _ => none

/-- A block that is there gives the word at the PC, unless only a lane-local word may issue and it is none (R156). -/
theorem fetch_of_block {r u : State} {k : Nat} {sec loc : Bool} {G : Gang} {T : Team} {C : Cohort} {b : BitVec 256} {f : Fetched}
    (hG : r.gang? k = some G) (hT : r.team? G.team = some T) (hC : r.cohort? T.cohort = some C)
    (hb : r.fetchBlock (coreKey T.die G.core) C.tenant T.dev k (G.pc sec) = .ok b u)
    (hd : Decoded.fetched (decodeWord ((b >>> (8 * ((G.pc sec).toNat % 32))).setWidth 128) ((G.pc sec).toNat % 32)) u = some f)
    (hl : loc = true → wordLocal ((b >>> (8 * ((G.pc sec).toNat % 32))).setWidth 128) = true) :
    r.fetch k sec loc = f := by
  have hstop : (loc && !wordLocal ((b >>> (8 * ((G.pc sec).toNat % 32))).setWidth 128)) = false := by
    cases loc with
    | false => rfl
    | true => rw [hl rfl]; rfl
  simp only [State.fetch, hG, hT, hC, hb, hstop, Bool.false_eq_true, if_false]
  revert hd
  cases decodeWord ((b >>> (8 * ((G.pc sec).toNat % 32))).setWidth 128) ((G.pc sec).toNat % 32) with
  | one i n => exact Option.some.inj
  | two i j => exact Option.some.inj
  | illegal c => exact nofun
  | pairing => exact nofun

theorem issueSlot_primary {k : Nat} {r : State} (h : r.curSec = false) :
    issueSlot k r = runFetched (r.fetch k false ((r.gang? k).any (·.split))) := by
  simp only [issueSlot, h, Bool.false_eq_true, if_false]

/-- The secondary slot's word runs, and the primary slot's where the secondary could not issue (R156). -/
theorem issueSlot_secondary {k : Nat} {r t : State} (h : r.curSec = true) (ht : runFetched (r.fetch k true false) = .next t) :
    issueSlot k r = if secHeld r t k && t.priFree k then issuePrimary k t else .next t := by
  simp only [issueSlot, h, ht, if_true]

/-- What the word at the PC comes to, `f`, is what the issuing slot comes to, but for the primary slot's own word where the
secondary could not issue. -/
theorem issueSlot_of_block {r u t : State} {k : Nat} {G : Gang} {T : Team} {C : Cohort} {b : BitVec 256} {f : Fetched}
    (hG : r.gang? k = some G) (hT : r.team? G.team = some T) (hC : r.cohort? T.cohort = some C)
    (hb : r.fetchBlock (coreKey T.die G.core) C.tenant T.dev k (G.pc r.curSec) = .ok b u)
    (hd : Decoded.fetched (decodeWord ((b >>> (8 * ((G.pc r.curSec).toNat % 32))).setWidth 128) ((G.pc r.curSec).toNat % 32)) u =
      some f)
    (ht : runFetched f = .next t) :
    ((r.curSec = true → (secHeld r t k && t.priFree k) = false) →
      (r.curSec = false → G.split = true →
        wordLocal ((b >>> (8 * ((G.pc r.curSec).toNat % 32))).setWidth 128) = true) → issueSlot k r = .next t) ∧
    (r.curSec = true → (secHeld r t k && t.priFree k) = true → issueSlot k r = issuePrimary k t) := by
  cases hs : r.curSec with
  | false =>
    rw [hs] at hb hd
    refine ⟨fun _ hl => ?_, nofun⟩
    rw [issueSlot_primary hs, hG]
    exact (congrArg runFetched (fetch_of_block hG hT hC hb hd (hl rfl))).trans ht
  | true =>
    rw [hs] at hb hd
    have hf : r.fetch k true false = f := fetch_of_block hG hT hC hb hd nofun
    have hsec := issueSlot_secondary hs ((congrArg runFetched hf).trans ht)
    exact ⟨fun hn _ => by rw [hsec, hn rfl]; rfl, fun _ hp => by rw [hsec, hp]; rfl⟩

/-! ### Blocks of code -/

theorem fetchBlock_cached {s : State} {ck tenant dev gid : Nat} {va : DWord} {e : Tlb} {b : BitVec 256} (hv : codeOk va = true)
    (ht : s.translate ck tenant dev (va.toNat / 65536) gid false = .ok e) (hx : e.x = true)
    (hb : Store.find (s.core ck).icache (icKey tenant va.toNat) = some b) :
    s.fetchBlock ck tenant dev gid va = .ok b s := by
  simp only [State.fetchBlock, hv, ht, hx, hb, Bool.not_true, Bool.false_eq_true, if_false]

theorem fetchBlock_read {s : State} {ck tenant dev gid : Nat} {va : DWord} {e : Tlb} {b : BitVec 256} (hv : codeOk va = true)
    (ht : s.translate ck tenant dev (va.toNat / 65536) gid false = .ok e) (hx : e.x = true)
    (hn : Store.find (s.core ck).icache (icKey tenant va.toNat) = none)
    (hp : s.poisonAt dev (e.pa (va.toNat / 32 * 32)) = false)
    (hb : BitVec.ofNat 256 (ofBytes (s.sysRead dev (e.pa (va.toNat / 32 * 32)) 32)) = b) :
    s.fetchBlock ck tenant dev gid va =
      .ok b (s.modCore ck fun c => { c with icache := Store.insert c.icache (icKey tenant va.toNat) b }) := by
  simp only [State.fetchBlock, hv, ht, hx, hn, hp, hb, Bool.not_true, Bool.false_eq_true, if_false]

/-! ### Time -/

theorem passTime_free {s : State} (h : s.nextTimed = none) (t : Nat) : s.passTime t = s.woken.elim (.time t) .issue := by
  simp only [State.passTime, h]

/-- The passing of time where an event has a time of its own: the event itself when its time has come. -/
theorem passTime_timed {s : State} {d : Nat} {e : Ev} (h : s.nextTimed = some (d, e)) (t : Nat) :
    s.passTime t = if d ≤ s.time then .event e else s.woken.elim (.time (min t d)) .issue := by
  simp only [State.passTime, h]

theorem step_time_passes {s : State} {t u : Nat} {rest : List Happening} (ha : s.agenda = .time t :: rest)
    (hp : ({ s with agenda := rest } : State).passTime t = .time u) :
    step s = .next { s with agenda := rest, time := max s.time u } := by
  simp only [step_of_agenda ha, perform, hp]

theorem step_time_looks {s : State} {t g : Nat} {rest : List Happening} (ha : s.agenda = .time t :: rest)
    (hp : ({ s with agenda := rest } : State).passTime t = .issue g) : step s = issueGang g { s with agenda := rest } := by
  simp only [step_of_agenda ha, perform, hp]

theorem step_time_event {s : State} {t : Nat} {e : Ev} {rest : List Happening} (ha : s.agenda = .time t :: rest)
    (hp : ({ s with agenda := rest } : State).passTime t = .event e) :
    step s = exec e.instr (({ s with agenda := rest } : State).withEvent e) := by
  simp only [step_of_agenda ha, perform, hp]

/-- Settles O56: the word at the PC comes to what its slot comes to, and a gang whose pass waits for no load issues from a slot; a
block, an event and the passing of time are read off their definitions. -/
theorem stepRunsDecoded : Obligations.StepRunsDecoded := by
  refine ⟨?_, ?_, ?_, ?_⟩
  · intro s gid rest G T C b u ha hm p k hheld r hG hT hC pc hb w runs
    have hrun : ∀ f, Decoded.fetched (decodeWord w (pc.toNat % 32)) u = some f → runs (runFetched f) := by
      intro f hd t ht
      obtain ⟨hone, hpri⟩ := issueSlot_of_block hG hT hC hb hd ht
      have hstep : ∀ {t'}, issueSlot k r = .next t' → step s = .next (p.afterTurn t' k) := fun h =>
        (step_of_agenda ha).trans (issueGang_of_issueNext hm ((issueNext_of_noneHeld hheld).trans h))
      exact ⟨fun hn hl => hstep (hone hn hl), fun t' hs hp h => hstep ((hpri hs hp).trans h)⟩
    exact ⟨fun i n hd => hrun (.one i u) (by rw [hd]; rfl), fun i j hd => hrun (.two i j u) (by rw [hd]; rfl)⟩
  · intro s ck tenant dev gid va e hv ht hx
    exact ⟨fun b hb => fetchBlock_cached hv ht hx hb, fun hn hp => fetchBlock_read hv ht hx hn hp rfl⟩
  · intro s e rest ha hf
    rw [step_of_agenda ha]
    simp only [perform, State.withEvent, hf, Bool.false_eq_true, if_false]
  · intro s t rest ha r
    refine ⟨fun hn hw => ?_, fun g hn hw => ?_, fun d e hn => ⟨fun hd hw => ?_, fun g hd hw => ?_, fun hd => ?_⟩⟩
    · exact step_time_passes ha (by rw [passTime_free hn, hw]; rfl)
    · exact step_time_looks ha (by rw [passTime_free hn, hw]; rfl)
    · exact step_time_passes ha (by rw [passTime_timed hn, if_neg (Nat.not_le.mpr hd), hw]; rfl)
    · exact step_time_looks ha (by rw [passTime_timed hn, if_neg (Nat.not_le.mpr hd), hw]; rfl)
    · exact step_time_event ha (by rw [passTime_timed hn, if_pos hd])

end Sys2Proof.Machine
end

section
/-!
SUPPORT. Shifts, rotations, counts and reversal of one word, at any width (R127, R129).
-/
namespace Sys2Proof.Machine

/-! ### Shifts and rotations of a word (R127) -/

theorem toNat_shlW {w : Nat} (x : BitVec w) (n : Nat) : (shlW x n).toNat = x.toNat * 2 ^ n % 2 ^ w := by
  unfold shlW
  split
  next h => rw [Nat.mod_eq_zero_of_dvd (Nat.dvd_mul_left_of_dvd (Nat.pow_dvd_pow 2 h) _)]; rfl
  · rw [BitVec.toNat_shiftLeft, Nat.shiftLeft_eq]

theorem toNat_shrW {w : Nat} (x : BitVec w) (n : Nat) : (shrW x n).toNat = x.toNat / 2 ^ n := by
  unfold shrW
  split
  next h => rw [Nat.div_eq_of_lt (Nat.lt_of_lt_of_le x.isLt (Nat.pow_le_pow_right Nat.two_pos h))]; rfl
  · rw [BitVec.toNat_ushiftRight, Nat.shiftRight_eq_div_pow]

/-- The signed value of a word's number is the word's own. -/
theorem wval_toNat {w : Nat} (hw : 0 < w) (x : BitVec w) : wval true w x.toNat = x.toInt := by
  obtain ⟨w, rfl⟩ : ∃ v, w = v + 1 := ⟨w - 1, by omega⟩
  unfold wval
  rw [Nat.mod_eq_of_lt x.isLt, BitVec.toInt_eq_toNat_cond]
  simp only [Nat.add_sub_cancel, Bool.true_and, decide_eq_true_eq]
  have hpow : 2 ^ (w + 1) = 2 * 2 ^ w := Nat.pow_succ'
  by_cases h : 2 ^ w ≤ x.toNat
  · rw [if_pos h, if_neg (by omega), Int.natCast_pow]
    rfl
  · rw [if_neg h, if_pos (by omega)]

/-- A shift by the width or more leaves the sign alone. -/
theorem toInt_div_of_width_le {w n : Nat} (x : BitVec w) (h : w ≤ n) : x.toInt / 2 ^ n = x.toInt / 2 ^ w := by
  have hp : ∀ m, w ≤ m → x.toInt / 2 ^ m = if x.toInt < 0 then -1 else 0 := by
    intro m hm
    have hwm : (2 : Int) ^ w ≤ 2 ^ m := by exact_mod_cast Nat.pow_le_pow_right Nat.two_pos hm
    have hlo : -2 ^ w ≤ 2 * x.toInt := BitVec.le_two_mul_toInt
    have hhi : 2 * x.toInt < 2 ^ w := BitVec.two_mul_toInt_lt
    split
    · exact Int.ediv_eq_neg_one_of_neg_of_le ‹_› (by omega)
    · exact Int.ediv_eq_zero_of_lt (by omega) (by omega)
  rw [hp n h, hp w (Nat.le_refl w)]

theorem toNat_sraW {w : Nat} (hw : 0 < w) (x : BitVec w) (n : Nat) :
    (sraW x n).toNat = (wval true w x.toNat / 2 ^ n % 2 ^ w).toNat := by
  have hmin : x.toInt / 2 ^ min n w = x.toInt / 2 ^ n := by
    rcases Nat.le_total n w with h | h
    · rw [Nat.min_eq_left h]
    · rw [Nat.min_eq_right h, toInt_div_of_width_le x h]
  simp only [sraW, BitVec.sshiftRight_eq, BitVec.toNat_ofInt, Int.shiftRight_eq_div_pow, wval_toNat hw]
  push_cast
  rw [hmin]

/-- The two parts of a rotation by `r` to the left hold no bit in common. -/
theorem rotation_or {w r q a : Nat} (h : r + q = w) (ha : a < 2 ^ w) :
    (a <<< r % 2 ^ w) ||| a >>> q = a * 2 ^ r % 2 ^ w + a / 2 ^ q := by
  have hlow : a / 2 ^ q < 2 ^ r := Nat.div_lt_of_lt_mul (by rwa [← Nat.pow_add, Nat.add_comm q r, h])
  have hhigh : a * 2 ^ r % 2 ^ w = (a % 2 ^ q) <<< r := by
    rw [← h, Nat.add_comm r q, Nat.pow_add, Nat.mul_mod_mul_right, Nat.shiftLeft_eq]
  rw [Nat.shiftLeft_eq, Nat.shiftRight_eq_div_pow, hhigh, Nat.shiftLeft_add_eq_or_of_lt hlow]

theorem toNat_rotW_left {w : Nat} (hw : 0 < w) (x : BitVec w) (n : Nat) :
    (rotW false x n).toNat = x.toNat * 2 ^ (n % w) % 2 ^ w + x.toNat / 2 ^ (w - n % w) := by
  have hr : n % w < w := Nat.mod_lt n hw
  simp only [rotW, Bool.false_eq_true, if_false, BitVec.toNat_rotateLeft, Nat.mod_mod]
  exact rotation_or (by omega) x.isLt

theorem toNat_rotW_right {w : Nat} (hw : 0 < w) (x : BitVec w) (n : Nat) :
    (rotW true x n).toNat = x.toNat / 2 ^ (n % w) + x.toNat * 2 ^ (w - n % w) % 2 ^ w := by
  have hr : n % w < w := Nat.mod_lt n hw
  simp only [rotW, if_true, BitVec.toNat_rotateRight, Nat.mod_mod]
  rw [Nat.or_comm, Nat.add_comm]
  exact rotation_or (by omega) x.isLt

/-! ### Counts and reversal of a word's bits (R129) -/

theorem popW_eq {w : Nat} (x : BitVec w) : popW x = ((List.range w).filter x.toNat.testBit).length := rfl

theorem popW_le {w : Nat} (x : BitVec w) : popW x ≤ w :=
  Nat.le_trans (List.length_filter_le _ _) (Nat.le_of_eq List.length_range)

/-- A number without a bit set is 0. -/
theorem eq_zero_of_testBit {a : Nat} (h : ∀ i, a.testBit i = false) : a = 0 :=
  Nat.eq_of_testBit_eq fun i => (h i).trans (Nat.zero_testBit i).symm

theorem eq_zero_of_getLsbD {w : Nat} {x : BitVec w} (h : ∀ i < w, x.getLsbD i = false) : x.toNat = 0 :=
  eq_zero_of_testBit fun i => if hi : i < w then h i hi else BitVec.getLsbD_of_ge x i (Nat.le_of_not_lt hi)

/-- A bit that is the highest one set. -/
theorem div_pow_eq_one {a k : Nat} (hk : a.testBit k = true) (ha : ∀ j, k < j → a.testBit j = false) : a / 2 ^ k = 1 := by
  have hlt : a < 2 ^ (k + 1) := Nat.lt_pow_two_of_testBit a fun j hj => ha j hj
  have h2 : a / 2 ^ k < 2 := Nat.div_lt_of_lt_mul (by rwa [← Nat.pow_succ])
  rw [Nat.testBit_eq_decide_div_mod_eq, decide_eq_true_eq] at hk
  generalize a / 2 ^ k = q at h2 hk ⊢
  omega

/-- No bit is set below a number of bits that the lowest one set ends. -/
theorem mod_pow_eq_zero {a k : Nat} (ha : ∀ j < k, a.testBit j = false) : a % 2 ^ k = 0 :=
  eq_zero_of_testBit fun j => by
    rw [Nat.testBit_mod_two_pow]
    by_cases h : j < k
    · rw [ha j h, Bool.and_false]
    · rw [decide_eq_false h, Bool.false_and]

/-- CLZ of R129 on a word. -/
theorem clzW_spec {w : Nat} (x : BitVec w) :
    (x.toNat = 0 → clzW x = w) ∧ (x.toNat ≠ 0 → clzW x < w ∧ x.toNat / 2 ^ (w - 1 - clzW x) = 1) := by
  unfold clzW
  split
  next i hi =>
    obtain ⟨hbit, hlt, hbelow⟩ := List.find?_range_eq_some.mp hi
    have hiw : i < w := List.mem_range.mp hlt
    refine ⟨fun h0 => ?_, fun _ => ⟨hiw, div_pow_eq_one hbit fun j hj => ?_⟩⟩
    · rw [BitVec.getLsbD, h0, Nat.zero_testBit] at hbit
      cases hbit
    · by_cases hjw : j < w
      · have hu := hbelow (w - 1 - j) (by omega)
        rwa [show w - 1 - (w - 1 - j) = j by omega, Bool.not_eq_true'] at hu
      · exact BitVec.getLsbD_of_ge x j (Nat.le_of_not_lt hjw)
  next hnone =>
    have h0 : x.toNat = 0 := eq_zero_of_getLsbD fun i hi => by
      have hu := List.find?_range_eq_none.mp hnone (w - 1 - i) (by omega)
      rwa [show w - 1 - (w - 1 - i) = i by omega, Bool.not_eq_true'] at hu
    exact ⟨fun _ => rfl, fun hn => absurd h0 hn⟩

/-- CTZ of R129 on a word. -/
theorem ctzW_spec {w : Nat} (x : BitVec w) :
    (x.toNat = 0 → ctzW x = w) ∧ (x.toNat ≠ 0 → x.toNat % 2 ^ ctzW x = 0 ∧ x.toNat / 2 ^ ctzW x % 2 = 1) := by
  unfold ctzW
  split
  next i hi =>
    obtain ⟨hbit, -, hbelow⟩ := List.find?_range_eq_some.mp hi
    refine ⟨fun h0 => ?_, fun _ => ⟨mod_pow_eq_zero fun j hj => ?_, ?_⟩⟩
    · rw [BitVec.getLsbD, h0, Nat.zero_testBit] at hbit
      cases hbit
    · exact (Bool.not_eq_true' _).mp (hbelow j hj)
    · rwa [BitVec.getLsbD, Nat.testBit_eq_decide_div_mod_eq, decide_eq_true_eq] at hbit
  next hnone =>
    have h0 : x.toNat = 0 := eq_zero_of_getLsbD fun i hi => (Bool.not_eq_true' _).mp (List.find?_range_eq_none.mp hnone i hi)
    exact ⟨fun _ => rfl, fun hn => absurd h0 hn⟩

theorem clzW_le {w : Nat} (x : BitVec w) : clzW x ≤ w := by
  obtain ⟨h0, h1⟩ := clzW_spec x
  by_cases h : x.toNat = 0
  · exact Nat.le_of_eq (h0 h)
  · exact Nat.le_of_lt (h1 h).1

theorem ctzW_le {w : Nat} (x : BitVec w) : ctzW x ≤ w := by
  unfold ctzW
  split
  next i hi =>
    obtain ⟨-, hlt, -⟩ := List.find?_range_eq_some.mp hi
    exact Nat.le_of_lt (List.mem_range.mp hlt)
  · exact Nat.le_refl w

/-- Two folds agree when their steps do on every entry of the list. -/
theorem foldl_congr_mem {α β : Type} {f g : β → α → β} {l : List α} (h : ∀ s, ∀ a ∈ l, f s a = g s a) (s : β) :
    l.foldl f s = l.foldl g s := by
  induction l generalizing s with
  | nil => rfl
  | cons a l ih =>
    rw [List.foldl_cons, List.foldl_cons, h s a List.mem_cons_self]
    exact ih (fun s b hb => h s b (List.mem_cons_of_mem a hb)) _

/-- The sum of R129's reversal, taken from the lowest bit of the result up. -/
theorem foldl_reversed (p : Nat → Bool) (w : Nat) :
    (List.range w).foldl (fun s i => if p i then s + 2 ^ (w - 1 - i) else s) 0 =
      (List.range w).foldl (fun s i => if p (w - 1 - i) then s + 2 ^ i else s) 0 := by
  have hrev : (List.range w).reverse = (List.range w).map (w - 1 - ·) := by
    refine List.ext_getElem (by simp) fun i h1 h2 => ?_
    simp
  have hmap : (List.range w).reverse.foldl (fun s i => if p (w - 1 - i) then s + 2 ^ i else s) 0 =
      (List.range w).foldl (fun s i => if p i then s + 2 ^ (w - 1 - i) else s) 0 := by
    rw [hrev, List.foldl_map]
    refine foldl_congr_mem (fun s i hi => ?_) 0
    have hiw := List.mem_range.mp hi
    rw [show w - 1 - (w - 1 - i) = i by omega]
  rw [← hmap]
  refine (List.reverse_perm _).foldl_eq' (fun x _ y _ z => ?_) 0
  split <;> split <;> omega

theorem getLsbD_revW {w i : Nat} (x : BitVec w) (hi : i < w) : (revW x).getLsbD (w - 1 - i) = x.getLsbD i := by
  obtain ⟨-, hbit⟩ := sumBits_spec (fun j => x.getLsbD (w - 1 - j)) w
  have hlt : w - 1 - i < w := by omega
  simp only [revW, foldl_reversed, BitVec.getLsbD_ofNat, hbit, hlt, decide_true, Bool.true_and]
  rw [show w - 1 - (w - 1 - i) = i by omega]

end Sys2Proof.Machine
end

section
/-!
SUPPORT. The values of the shifts, the bit counts and the logic words: O51, O52 and O53.
-/
namespace Sys2Proof.Machine

/-! ### Operands and results as numbers -/

theorem num_word (x : Regs) (r : RegNum) (l : Nat) : Regs.num x false r l = (x.v r.toNat l).toNat := rfl

theorem toNat_append_word (a b : Word) : (a ++ b : DWord).toNat = a.toNat * 2 ^ 32 + b.toNat := by
  rw [BitVec.toNat_append, ← Nat.shiftLeft_add_eq_or_of_lt b.isLt, Nat.shiftLeft_eq]

theorem num_pair (x : Regs) (r : RegNum) (l : Nat) : Regs.num x true r l = (x.v2 r.toNat l).toNat :=
  (toNat_append_word _ _).symm

theorem numI_word (x : Regs) (n : SrcI) (l : Nat) : Regs.numI x false n l = (x.srcI n l).toNat := by
  cases n <;> rfl

theorem numI_pair (x : Regs) (n : SrcI) (l : Nat) : Regs.numI x true n l = (x.srcI2 false n l).toNat := by
  cases n with
  | reg r => exact num_pair x r.reg l
  | imm w => rfl

/-- What a vector pair reads after a write of the lanes of a mask. -/
theorem setV2_v2 (x : Regs) {r l : Nat} {m : BitVec 32} (f : Nat → DWord) (hl : l < 32) (hm : m.getLsbD l = true) (hr : r + 1 < 255) :
    (x.setV2 r m f).v2 r l = f l := by
  have hlow : (x.setV2 r m f).v r l = (f l).extractLsb' 0 32 := by
    rw [Regs.setV2, setV_v _ _ _ _ hl, if_neg (fun h => absurd h.1 (by omega)), setV_v _ _ _ _ hl, if_pos ⟨rfl, hm, by omega⟩]
  have hhigh : (x.setV2 r m f).v (r + 1) l = (f l).extractLsb' 32 32 := by
    rw [Regs.setV2, setV_v _ _ _ _ hl, if_pos ⟨rfl, hm, hr⟩]
  rw [Regs.v2, hlow, hhigh]
  exact (BitVec.extractLsb'_append_extractLsb'_eq_extractLsb' (start₁ := 0) rfl).trans BitVec.extractLsb'_eq_self

/-! ### Words that complete with a value in each executing lane -/

/-- When word `i` executes normally, it completes, changes its destination alone, and leaves in each executing lane of it a number
that `ok` accepts; the numbers that the fixed register discards are left out. -/
def Gives (s : State) (c : Ctx) (i : Instr) (pair : Bool) (d : RegNum) (ok : Nat → Nat → Prop) : Prop :=
  normal i s = some c → ∃ x, exec i s = .next (s.put c x) ∧ RegFrame (vDest pair d) c.emask c.past x ∧
    (d.toNat + (if pair then 1 else 0) < 255 → ∀ l < 32, c.emask.getLsbD l → ok l (Regs.num x pair d l))

/-- The issue of a write, in the executing lanes, of words or of pairs gives what is written. -/
theorem gives_of_putIf {s : State} {c : Ctx} {i : Instr} {pair : Bool} {d : RegNum} {ok : Nat → Nat → Prop}
    (f : Ctx → Nat → DWord) (g : Ctx → Nat → Word)
    (hi : exec i s = issue i s fun c s => if pair then c.putV2 s d (f c) else c.putV s d (g c))
    (hok : ∀ l, ok l (if pair then (f c l).toNat else (g c l).toNat)) : Gives s c i pair d ok := by
  intro hn
  rw [hi, issue_normal hn]
  cases pair with
  | false =>
    refine ⟨_, congrArg Host.Outcome.next (advance_mod s c _), setV_frame .., fun hd l hl hm => ?_⟩
    rw [num_word, setV_v _ _ _ _ hl, if_pos ⟨rfl, hm, hd⟩]
    exact hok l
  | true =>
    refine ⟨_, congrArg Host.Outcome.next (advance_mod s c _), setV2_frame .., fun hd l hl hm => ?_⟩
    rw [num_pair, setV2_v2 _ _ hl hm hd]
    exact hok l

/-- The issue of a write of words in the executing lanes gives what is written. -/
theorem gives_of_putV {s : State} {c : Ctx} {i : Instr} {d : RegNum} {ok : Nat → Nat → Prop} (g : Ctx → Nat → Word)
    (hi : exec i s = issue i s fun c s => c.putV s d (g c)) (hok : ∀ l, ok l (g c l).toNat) : Gives s c i false d ok :=
  gives_of_putIf (fun _ _ => 0) g hi hok

/-! ### Shifts and rotations (R127) -/

/-- A shift or rotation gives its value when its operation on a word has that value at each width. -/
theorem gives_of_shift {s : State} {c : Ctx} {i : Instr} {b64 : Bool} {d : RegNum} {a : Src} {n : SrcI}
    (op : ∀ {w : Nat}, BitVec w → Nat → BitVec w) (hi : exec i s = issue i s fun c s => c.shift s b64 d a n op op)
    (v : Nat → Nat → Nat → Nat) (hop : ∀ {w : Nat} (x : BitVec w) (k : Nat), 0 < w → (op x k).toNat = v w x.toNat k) :
    Gives s c i b64 d fun l r => r = v (if b64 then 64 else 32) (Regs.num c.r b64 a.reg l) (c.r.srcI n l).toNat := by
  refine gives_of_putIf (fun c l => op (c.r.src2 a l) (c.r.srcI n l).toNat) (fun c l => op (c.r.src a l) (c.r.srcI n l).toNat)
    hi fun l => ?_
  cases b64 with
  | false => exact hop (c.r.src a l) _ (by decide)
  | true =>
    rw [num_pair]
    exact hop (c.r.src2 a l) _ (by decide)

/-- Settles O51: each of the five words is the issue of one operation, whose value on a word of any width is the rule's. -/
theorem shiftValues : Obligations.ShiftValues := by
  intro s c g b64 d a n
  refine ⟨?_, ?_, ?_, ?_, ?_⟩
  · exact gives_of_shift shlW rfl (fun w A N => A * 2 ^ N % 2 ^ w) fun x k _ => toNat_shlW x k
  · exact gives_of_shift shrW rfl (fun _ A N => A / 2 ^ N) fun x k _ => toNat_shrW x k
  · exact gives_of_shift sraW rfl (fun w A N => (wval true w A / 2 ^ N % 2 ^ w).toNat) fun x k hw => toNat_sraW hw x k
  · exact gives_of_shift (rotW false) rfl (fun w A N => A * 2 ^ (N % w) % 2 ^ w + A / 2 ^ (w - N % w))
      fun x k hw => toNat_rotW_left hw x k
  · exact gives_of_shift (rotW true) rfl (fun w A N => A / 2 ^ (N % w) + A * 2 ^ (w - N % w) % 2 ^ w)
      fun x k hw => toNat_rotW_right hw x k

/-! ### Funnel shifts, counts and reversal (R128, R129) -/

/-- A count gives a number that `ok` accepts when its operation on a word of each width does, with none larger than the width. -/
theorem gives_of_count {s : State} {c : Ctx} {i : Instr} {b64 : Bool} {d : RegNum} {a : Src} (op : ∀ {w : Nat}, BitVec w → Nat)
    (hi : exec i s = issue i s fun c s => c.count s b64 d a op op) (hle : ∀ {w : Nat} (x : BitVec w), op x ≤ w)
    (ok : Nat → Nat → Nat → Prop) (hok : ∀ {w : Nat} (x : BitVec w), ok w x.toNat (op x)) :
    Gives s c i false d fun l r => ok (if b64 then 64 else 32) (Regs.num c.r b64 a.reg l) r := by
  have hfit : ∀ {w : Nat} (x : BitVec w), w ≤ 64 → (BitVec.ofNat 32 (op x)).toNat = op x := fun x hw =>
    Nat.mod_eq_of_lt (Nat.lt_of_le_of_lt (Nat.le_trans (hle x) hw) (by decide))
  refine gives_of_putV (fun c l => BitVec.ofNat 32 (if b64 then op (c.r.src2 a l) else op (c.r.src a l))) hi fun l => ?_
  cases b64 with
  | false =>
    simp only [Bool.false_eq_true, if_false, hfit (c.r.src a l) (by decide)]
    exact hok (c.r.src a l)
  | true =>
    simp only [if_true, hfit (c.r.src2 a l) (by decide), num_pair]
    exact hok (c.r.src2 a l)

theorem toNat_fshl (a b : Word) (n : Nat) :
    ((shlW (a ++ b : DWord) n).extractLsb' 32 32).toNat = (a.toNat * 2 ^ 32 + b.toNat) * 2 ^ n % 2 ^ 64 / 2 ^ 32 := by
  rw [BitVec.extractLsb'_toNat, toNat_shlW, toNat_append_word, Nat.shiftRight_eq_div_pow]
  exact Nat.mod_eq_of_lt (Nat.div_lt_of_lt_mul (Nat.mod_lt _ (by decide)))

theorem toNat_fshr (a b : Word) (n : Nat) :
    ((shrW (a ++ b : DWord) n).extractLsb' 0 32).toNat = (a.toNat * 2 ^ 32 + b.toNat) / 2 ^ n % 2 ^ 32 := by
  rw [BitVec.extractLsb'_toNat, toNat_shrW, toNat_append_word, Nat.shiftRight_zero]

theorem gives_fshl (s : State) (c : Ctx) (g : Guard) (d : RegNum) (a b : Src) (n : SrcI) :
    Gives s c (.fshl g d a b n) false d fun l r => r =
      (Regs.num c.r false a.reg l * 2 ^ 32 + Regs.num c.r false b.reg l) * 2 ^ (c.r.srcI n l).toNat % 2 ^ 64 / 2 ^ 32 :=
  gives_of_putV _ rfl fun _ => toNat_fshl ..

theorem gives_fshr (s : State) (c : Ctx) (g : Guard) (d : RegNum) (a b : Src) (n : SrcI) :
    Gives s c (.fshr g d a b n) false d fun l r => r =
      (Regs.num c.r false a.reg l * 2 ^ 32 + Regs.num c.r false b.reg l) / 2 ^ (c.r.srcI n l).toNat % 2 ^ 32 :=
  gives_of_putV _ rfl fun _ => toNat_fshr ..

theorem gives_brev (s : State) (c : Ctx) (g : Guard) (b64 : Bool) (d : RegNum) (a : Src) :
    Gives s c (.brev g b64 d a) b64 d fun l r => ∀ i < (if b64 then 64 else 32),
      r.testBit ((if b64 then 64 else 32) - 1 - i) = (Regs.num c.r b64 a.reg l).testBit i := by
  refine gives_of_putIf (fun c l => revW (c.r.src2 a l)) (fun c l => revW (c.r.src a l)) rfl fun l i hi => ?_
  cases b64 with
  | false => exact getLsbD_revW (c.r.src a l) hi
  | true =>
    rw [num_pair]
    exact getLsbD_revW (c.r.src2 a l) hi

/-- Settles O52: the funnel shifts are shifts of a pair of which one word is written; each count and the reversal is one
operation on a word, of which the rule holds at any width. -/
theorem funnelAndCounts : Obligations.FunnelAndCounts := by
  intro s c g b64 d a b n
  refine ⟨gives_fshl s c g d a b n, gives_fshr s c g d a b n, ?_, ?_, ?_, gives_brev s c g b64 d a⟩
  · exact gives_of_count popW rfl popW_le (fun w A r => r = ((List.range w).filter A.testBit).length) popW_eq
  · exact gives_of_count clzW rfl clzW_le
      (fun w A r => (A = 0 → r = w) ∧ (A ≠ 0 → r < w ∧ A / 2 ^ (w - 1 - r) = 1)) clzW_spec
  · exact gives_of_count ctzW rfl ctzW_le
      (fun w A r => (A = 0 → r = w) ∧ (A ≠ 0 → A % 2 ^ r = 0 ∧ A / 2 ^ r % 2 = 1)) ctzW_spec

/-! ### Logic (R126) -/

/-- A logic operation of two operands gives the bits of `v` when its operation on a word of each width acts so bit by bit. -/
theorem gives_of_logic {s : State} {c : Ctx} {i : Instr} {b64 : Bool} {d : RegNum} {a : Src} {n : SrcI}
    (op : ∀ {w : Nat}, BitVec w → BitVec w → BitVec w) (hi : exec i s = issue i s fun c s => c.log2 s b64 d a n op op)
    (v : Bool → Bool → Bool)
    (hop : ∀ {w : Nat} (x y : BitVec w) (k : Nat), k < w → (op x y).getLsbD k = v (x.getLsbD k) (y.getLsbD k)) :
    Gives s c i b64 d fun l r => ∀ k < (if b64 then 64 else 32),
      r.testBit k = v ((Regs.num c.r b64 a.reg l).testBit k) ((Regs.numI c.r b64 n l).testBit k) := by
  refine gives_of_putIf (fun c l => op (c.r.src2 a l) (c.r.srcI2 false n l)) (fun c l => op (c.r.src a l) (c.r.srcI n l)) hi ?_
  intro l k hk
  cases b64 with
  | false =>
    rw [numI_word]
    exact hop (c.r.src a l) (c.r.srcI n l) k hk
  | true =>
    rw [num_pair, numI_pair]
    exact hop (c.r.src2 a l) (c.r.srcI2 false n l) k hk

theorem getLsbD_ternW (table : BitVec 8) (a b c : Word) {k : Nat} (hk : k < 32) :
    (ternW table a b c).getLsbD k = table.getLsbD (4 * (if a.getLsbD k then 1 else 0) + 2 * (if b.getLsbD k then 1 else 0) +
      (if c.getLsbD k then 1 else 0)) := by
  simp only [ternW, getLsbD_maskOf, hk, decide_true, Bool.true_and]
  cases a.getLsbD k <;> cases b.getLsbD k <;> rfl

theorem getLsbD_not_of_lt {w k : Nat} (x : BitVec w) (hk : k < w) : (~~~x).getLsbD k = !x.getLsbD k := by
  rw [BitVec.getLsbD_not, decide_eq_true hk, Bool.true_and]

theorem gives_not (s : State) (c : Ctx) (g : Guard) (b64 : Bool) (d : RegNum) (a : Src) :
    Gives s c (.not g b64 d a) b64 d fun l r => ∀ k < (if b64 then 64 else 32),
      r.testBit k = !(Regs.num c.r b64 a.reg l).testBit k := by
  refine gives_of_putIf (fun c l => ~~~c.r.src2 a l) (fun c l => ~~~c.r.src a l) rfl fun l k hk => ?_
  cases b64 with
  | false => exact getLsbD_not_of_lt (c.r.src a l) hk
  | true =>
    rw [num_pair]
    exact getLsbD_not_of_lt (c.r.src2 a l) hk

theorem gives_tern (s : State) (c : Ctx) (g : Guard) (d : RegNum) (a b z : Src) (table : BitVec 8) :
    Gives s c (.tern g d a b z table) false d fun l r => ∀ k < 32, r.testBit k = table.getLsbD
      (4 * (if (c.r.src a l).getLsbD k then 1 else 0) + 2 * (if (c.r.src b l).getLsbD k then 1 else 0) +
        (if (c.r.src z l).getLsbD k then 1 else 0)) :=
  gives_of_putV _ rfl fun _ _ hk => getLsbD_ternW table _ _ _ hk

/-- Settles O53: each of the six words of two operands is the issue of an operation that acts bit by bit at any width; NOT and TERN
have one of their own. -/
theorem logicValues : Obligations.LogicValues := by
  intro s c g b64 d a b z n table
  refine ⟨?_, ?_, ?_, ?_, ?_, ?_, gives_not s c g b64 d a, gives_tern s c g d a b z table⟩
  · exact gives_of_logic (· &&& ·) rfl (fun p q => p && q) fun x y k _ => BitVec.getLsbD_and
  · exact gives_of_logic (· ||| ·) rfl (fun p q => p || q) fun x y k _ => BitVec.getLsbD_or
  · exact gives_of_logic (· ^^^ ·) rfl (fun p q => p != q) fun x y k _ => BitVec.getLsbD_xor
  · refine gives_of_logic (fun x y => x &&& ~~~y) rfl (fun p q => p && !q) fun x y k hk => ?_
    rw [BitVec.getLsbD_and, getLsbD_not_of_lt y hk]
  · refine gives_of_logic (fun x y => x ||| ~~~y) rfl (fun p q => p || !q) fun x y k hk => ?_
    rw [BitVec.getLsbD_or, getLsbD_not_of_lt y hk]
  · refine gives_of_logic (fun x y => ~~~(x ^^^ y)) rfl (fun p q => p == q) fun x y k hk => ?_
    rw [getLsbD_not_of_lt _ hk, BitVec.getLsbD_xor]
    cases x.getLsbD k <;> cases y.getLsbD k <;> rfl

end Sys2Proof.Machine
end

section
/-!
SUPPORT. What the end of a team and the delivery of a lane trap leave of the gangs' registers (R153, R396).
-/
namespace Sys2Proof.Machine

/-! ### Registers but for the PC slots -/

/-- Two register files that differ in their PC slots at most. -/
def SameButSlots (x y : Regs) : Prop := y = { x with pri := y.pri, sec := y.sec }

theorem SameButSlots.refl (x : Regs) : SameButSlots x x := rfl

theorem SameButSlots.trans {x y z : Regs} (h : SameButSlots x y) (k : SameButSlots y z) : SameButSlots x z := by
  unfold SameButSlots at *
  rw [k, h]

theorem SameButSlots.draw {x y : Regs} (h : SameButSlots x y) : y.wins = x.wins ∧ y.curs = x.curs := by
  rw [h]
  exact ⟨rfl, rfl⟩

/-- Every gang of `t` is one of `s`, and its registers are as before but for its PC slots. -/
structure LeavesRegs (s t : State) : Prop where
  gang : ∀ g y, t.gang? g = some y → ∃ x, s.gang? g = some x ∧ SameButSlots x.regs y.regs

theorem LeavesRegs.refl (s : State) : LeavesRegs s s := ⟨fun _ y h => ⟨y, h, .refl _⟩⟩

theorem LeavesRegs.trans {s t u : State} (h : LeavesRegs s t) (k : LeavesRegs t u) : LeavesRegs s u := by
  refine ⟨fun g z hz => ?_⟩
  obtain ⟨y, hy, hyz⟩ := k.gang g z hz
  obtain ⟨x, hx, hxy⟩ := h.gang g y hy
  exact ⟨x, hx, hxy.trans hyz⟩

theorem leavesRegs_of_gangs {s t : State} (h : t.gangs = s.gangs) : LeavesRegs s t :=
  ⟨fun _ y hy => ⟨y, by rwa [State.gang?, ← h], .refl _⟩⟩

theorem leavesRegs_foldl {α : Type} {f : State → α → State} (h : ∀ s a, LeavesRegs s (f s a)) (l : List α) (s : State) :
    LeavesRegs s (l.foldl f s) := by
  induction l generalizing s with
  | nil => exact .refl s
  | cons a l ih => exact (h s a).trans (ih _)

theorem leavesRegs_setGang {s : State} {g : Nat} {x y : Gang} (hx : s.gang? g = some x) (h : SameButSlots x.regs y.regs) :
    LeavesRegs s (s.setGang g y) := by
  refine ⟨fun k z hz => ?_⟩
  by_cases e : k = g
  · subst e
    rw [State.gang?_setGang] at hz
    cases hz
    exact ⟨x, hx, h⟩
  · rw [State.gang?_setGang_other s y e] at hz
    exact ⟨z, hz, .refl _⟩

theorem leavesRegs_modGang {f : Gang → Gang} (h : ∀ x, SameButSlots x.regs (f x).regs) (s : State) (g : Nat) :
    LeavesRegs s (s.modGang g f) := by
  cases hg : s.gang? g with
  | none =>
    rw [State.modGang_none hg]
    exact .refl s
  | some x =>
    rw [State.modGang_some hg]
    exact leavesRegs_setGang hg (h x)

theorem LeavesRegs.withTeamSlots {s t : State} (h : LeavesRegs s t) (x : Store TeamSlot) :
    LeavesRegs s { t with teamSlots := x } :=
  h.trans (leavesRegs_of_gangs rfl)

theorem LeavesRegs.ite {s t u : State} {P : Prop} [Decidable P] (ht : LeavesRegs s t) (hu : LeavesRegs s u) :
    LeavesRegs s (if P then t else u) := by
  split
  · exact ht
  · exact hu

theorem leavesRegs_modGangs {f : Gang → Gang} (h : ∀ x, SameButSlots x.regs (f x).regs) (s : State) (t n : Nat) :
    LeavesRegs s (s.modGangs t n f) :=
  leavesRegs_foldl (leavesRegs_modGang h) _ s

/-! ### Operations that leave every gang as it was -/

theorem foldl_gangs {α : Type} {f : State → α → State} (h : ∀ s a, (f s a).gangs = s.gangs) (l : List α) (s : State) :
    (l.foldl f s).gangs = s.gangs := by
  induction l generalizing s with
  | nil => rfl
  | cons a l ih => exact (ih _).trans (h s a)

theorem sysPutByte_gangs (s : State) (dev pa : Nat) (b : Byte) : (s.sysPutByte dev pa b).gangs = s.gangs :=
  foldl_gangs (fun s _ => State.setHold_gangs s ..) _ s

theorem sysWrite_gangs (s : State) (dev pa : Nat) (bs : List Byte) : (s.sysWrite dev pa bs).gangs = s.gangs := by
  induction bs generalizing s pa with
  | nil => rfl
  | cons b bs ih => exact (ih _ _).trans (sysPutByte_gangs s dev pa b)

theorem ptrPut_gangs {s t : State} {dev tenant ptr : Nat} {bs : List Byte} (h : s.ptrPut dev tenant ptr bs = .ok (some t)) :
    t.gangs = s.gangs := by
  unfold State.ptrPut at h
  split at h
  · cases h
  · split at h <;> cases h
    rfl
  · cases h
    rfl
  · split at h <;> cases h
    exact sysWrite_gangs ..
  · cases h

theorem logAt_gangs (s : State) (dev tenant kind : Nat) (hall : Word) (addr handle cc now : Nat) :
    (s.logAt dev tenant kind hall addr handle cc now).gangs = s.gangs := by
  simp only [State.logAt]
  split
  · rfl
  · split
    next t ht =>
      have hput : t.gangs = s.gangs := ptrPut_gangs ht
      split <;> exact hput
    · rfl

theorem ptrStore_gangs {s t : State} {dev tenant ptr : Nat} {bs : List Byte} (h : s.ptrStore dev tenant ptr bs = .ok t) :
    t.gangs = s.gangs := by
  unfold State.ptrStore at h
  split at h <;> cases h
  next hput => exact ptrPut_gangs hput
  · exact logAt_gangs ..

theorem gangs_ite {s t u : State} {P : Prop} [Decidable P] (ht : t.gangs = s.gangs) (hu : u.gangs = s.gangs) :
    (if P then t else u).gangs = s.gangs := by
  split
  · exact ht
  · exact hu

theorem setTeams_gangs (s : State) (f : Nat × Team → Team) (l : List (Nat × Team)) :
    (l.foldl (fun s p => s.setTeam p.1 (f p)) s).gangs = s.gangs :=
  foldl_gangs (fun s _ => State.setTeam_gangs s ..) l s

theorem abortColl_gangs (s : State) (tid slot status cause rank : Nat) :
    (s.abortColl tid slot status cause rank).gangs = s.gangs := by
  unfold State.abortColl
  split
  · rfl
  · exact gangs_ite (setTeams_gangs ..) (gangs_ite (setTeams_gangs ..) (setTeams_gangs ..))

theorem rematch_gangs (s : State) : s.rematch.gangs = s.gangs :=
  foldl_gangs (fun s _ => foldl_gangs (fun s _ => State.send_gangs s _) _ s) _ s

/-! ### The end of a team -/

theorem leavesRegs_leaveBar (s : State) (g : Nat) : LeavesRegs s (s.leaveBar g) := by
  unfold State.leaveBar
  split
  · exact .refl s
  next x hx =>
    have hset : LeavesRegs s (s.setGang g { x with bar := none, wait := .ready, eligAt := s.time }) :=
      leavesRegs_setGang hx (.refl _)
    dsimp only
    split
    · exact hset.trans (leavesRegs_of_gangs (State.modCore_gangs ..))
    · exact hset

theorem leavesRegs_circleBarrier (s : State) (ck circle : Nat) : LeavesRegs s (s.circleBarrier ck circle) := by
  unfold State.circleBarrier
  split
  · exact .refl s
  · refine .ite ((leavesRegs_of_gangs (State.modCohort_gangs s ..)).trans (leavesRegs_foldl (fun s m => ?_) _ _)) (.refl s)
    dsimp only
    split
    · exact .refl s
    · split
      · exact .refl s
      · exact .ite (.ite (leavesRegs_of_gangs (State.send_gangs s _)) (leavesRegs_leaveBar s _)) (.refl s)

theorem leavesRegs_circlesOf (s : State) (ck tidx g : Nat) : LeavesRegs s (s.circlesOf ck tidx g) := by
  unfold State.circlesOf
  split
  · exact .refl s
  · exact leavesRegs_foldl (fun s circle => leavesRegs_circleBarrier s ck circle) _ s

/-- What a store reads once the keys that fail a test are dropped. -/
theorem get_filter_key {α : Type} (d : α) (p : Nat → Bool) (m : Store α) (k : Nat) :
    Store.get d (m.filter fun e => p e.1) k = if p k then Store.get d m k else d := by
  induction m with
  | nil => exact (ite_self _).symm
  | cons e m ih =>
    rw [List.filter_cons]
    by_cases he : e.1 = k
    · cases hp : p k <;> simp [Store.get, he, hp, ih]
    · cases hp : p e.1 <;> simp [Store.get, he, ih]

theorem leavesRegs_freeCohort (s : State) (ck : Nat) : LeavesRegs s (s.freeCohort ck) := by
  refine ⟨fun g y hy => ⟨y, ?_, .refl _⟩⟩
  have hget := (get_filter_key none (fun k => !((s.teamList.filter fun p => p.2.cohort = ck).map (·.1)).contains (k / 256))
    s.gangs g).symm.trans hy
  exact (Option.ite_none_right_eq_some.mp hget).2

theorem get_map_option {α : Type} (f : α → α) (m : Store (Option α)) (k : Nat) :
    Store.get none (m.map fun e => (e.1, e.2.map f)) k = (Store.get none m k).map f := by
  induction m with
  | nil => rfl
  | cons e m ih =>
    rw [List.map_cons, Store.get, Store.get, ih]
    split <;> rfl

theorem leavesRegs_mapGangs {s t : State} {f : Gang → Gang} (h : ∀ x, SameButSlots x.regs (f x).regs)
    (ht : t.gangs = s.gangs.map fun p => (p.1, p.2.map f)) : LeavesRegs s t := by
  refine ⟨fun g y hy => ?_⟩
  rw [State.gang?, ht, get_map_option, Option.map_eq_some_iff] at hy
  obtain ⟨x, hx, rfl⟩ := hy
  exact ⟨x, hx, h x⟩

theorem leavesRegs_finishCohort (s : State) (ck : Nat) (st : CohSt) : LeavesRegs s (s.finishCohort ck st) := by
  unfold State.finishCohort
  split
  · exact .refl s
  · refine .trans ?_ (.ite (leavesRegs_freeCohort _ ck) (.refl _))
    refine .trans ?_ (.ite (.refl _) ?_)
    · refine leavesRegs_mapGangs (fun x => ?_) rfl
      split <;> exact .refl _
    · generalize hr : State.ptrStore _ _ _ _ _ = r
      cases r with
      | ok t => exact leavesRegs_of_gangs (ptrStore_gangs hr)
      | error => exact leavesRegs_of_gangs (logAt_gangs ..)

theorem leavesRegs_countExit (s : State) (ck : Nat) (trapped : Bool) : LeavesRegs s (s.countExit ck trapped) := by
  have hcount : ∀ f, LeavesRegs s (s.modCohort ck f) := fun f => leavesRegs_of_gangs (State.modCohort_gangs s ck f)
  unfold State.countExit
  dsimp only
  split
  · exact hcount _
  · exact .ite ((hcount _).trans (leavesRegs_finishCohort ..)) (hcount _)

theorem leavesRegs_exitTeam (s : State) (tid : Nat) (trapped : Bool) : LeavesRegs s (s.exitTeam tid trapped) := by
  unfold State.exitTeam
  split
  · exact .refl s
  · refine .ite (.refl s) ?_
    dsimp only
    refine .trans ?_ (leavesRegs_countExit ..)
    refine .trans ?_ (leavesRegs_foldl (fun s g => leavesRegs_circlesOf s _ _ g) _ _)
    refine .trans ?_ (leavesRegs_of_gangs (rematch_gangs _))
    refine .trans ?_ (leavesRegs_of_gangs (foldl_gangs (fun s p => abortColl_gangs s ..) _ _))
    refine .withTeamSlots (.trans (leavesRegs_of_gangs ?_) (leavesRegs_modGangs (fun _ => ?_) _ tid _)) _
    · refine (foldl_gangs (fun s a => State.send_gangs s _) _ _).trans ?_
      refine (foldl_gangs (fun s a => State.send_gangs s _) _ _).trans ?_
      exact (foldl_gangs (fun s m => State.send_gangs s _) _ _).trans (State.setTeam_gangs ..)
    · rfl

theorem leavesRegs_closeTeam (s : State) (tid kind pc cc now : Nat) : LeavesRegs s (s.closeTeam tid kind pc cc now) := by
  unfold State.closeTeam
  split
  · exact .refl s
  · split
    · exact .refl s
    · refine .ite (.refl s) (.trans (.ite (.refl s) ?_) (leavesRegs_exitTeam ..))
      exact leavesRegs_of_gangs (logAt_gangs ..)

theorem leavesRegs_endFlux (s : State) (g : Nat) : LeavesRegs s (s.endFlux g) := by
  refine (leavesRegs_modGang (fun x => ?_) s g).trans (leavesRegs_of_gangs rfl)
  split <;> exact .refl _

theorem leavesRegs_endPasses (s : State) (tid : Nat) : LeavesRegs s (s.endPasses tid) :=
  leavesRegs_foldl leavesRegs_endFlux _ s

/-- The end of a team by trap takes gangs away or empties their PC slots; no other register changes (R396). -/
theorem leavesRegs_endTeam (s : State) (tid kind pc cc : Nat) : LeavesRegs s (s.endTeam tid kind pc cc) := by
  unfold State.endTeam
  split
  · exact .refl s
  · have hstop : ∀ t : Team, LeavesRegs s ((s.setTeam tid t).endPasses tid) := fun t =>
      (leavesRegs_of_gangs (State.setTeam_gangs s tid t)).trans (leavesRegs_endPasses _ tid)
    split
    · exact .ite (.refl s) (hstop _)
    · exact .ite (.refl s) (hstop _)
    · exact leavesRegs_closeTeam ..

/-! ### Traps -/

/-- Delivery of a trap moves PCs and no other register (R394). -/
theorem leavesRegs_deliver (s : State) (g : Nat) (sec : Bool) (code cause : Nat) (m : BitVec 32) (pc addr res : DWord) :
    LeavesRegs s (s.deliver g sec code cause m pc addr res) := by
  unfold State.deliver
  split
  · exact .refl s
  next x hx =>
    split
    · exact .refl s
    · refine .ite (leavesRegs_endTeam ..) (leavesRegs_setGang hx ?_)
      cases sec <;> rfl

/-- The lanes that a lane trap leaves, and those it takes, keep every register (R153). -/
theorem leavesRegs_laneTrapTo (c : Ctx) (fs : List LaneFault) (res : DWord) (s : State) :
    LeavesRegs s (c.laneTrapTo fs res s).2 := by
  unfold Ctx.laneTrapTo
  split
  · exact .refl s
  · dsimp only
    split
    · exact .refl s
    next x hx =>
      split
      · refine .trans (leavesRegs_setGang hx ?_) (leavesRegs_deliver ..)
        rfl
      · exact leavesRegs_deliver ..

end Sys2Proof.Machine
end

section
/-!
SUPPORT. The draw stream: O3 and O4.
-/
namespace Sys2Proof.Machine

/-! ### Windows and cursors -/

/-- What a store reads after a write of each key of a list. -/
theorem get_foldl_set {α : Type} [DecidableEq α] (d : α) (ls : List Nat) (m : Store α) (f : Nat → α) (l : Nat) :
    Store.get d (ls.foldl (fun m l => Store.set d m l (f l)) m) l = if l ∈ ls then f l else Store.get d m l := by
  induction ls generalizing m with
  | nil => simp
  | cons a ls ih =>
    rw [List.foldl_cons, ih, Store.get_set]
    by_cases h : l ∈ ls
    · simp [h]
    · by_cases e : l = a <;> simp [e, h]

/-- A write of windows and cursors changes nothing else. -/
theorem setDraw_eq (x : Regs) (m : BitVec 32) (f : Nat → DWord × Nat) :
    x.setDraw m f = { x with wins := (lanesOf m).foldl (fun t l => Store.set 0 t l (f l).1) x.wins,
                             curs := (lanesOf m).foldl (fun t l => Store.set 0 t l (f l).2) x.curs } := by
  unfold Regs.setDraw
  induction lanesOf m generalizing x with
  | nil => rfl
  | cons l ls ih => exact ih _

theorem get_setDraw_wins (x : Regs) (m : BitVec 32) (f : Nat → DWord × Nat) (l : Nat) :
    Store.get 0 (x.setDraw m f).wins l = if m.getLsbD l then (f l).1 else Store.get 0 x.wins l := by
  simp only [setDraw_eq, get_foldl_set, mem_lanesOf]

theorem get_setDraw_curs (x : Regs) (m : BitVec 32) (f : Nat → DWord × Nat) (l : Nat) :
    Store.get 0 (x.setDraw m f).curs l = if m.getLsbD l then (f l).2 else Store.get 0 x.curs l := by
  simp only [setDraw_eq, get_foldl_set, mem_lanesOf]

/-- Settles O3: DRAWC is the issue of a write of windows and cursors in the executing lanes. -/
theorem drawcSetsWindow : Obligations.DrawcSetsWindow := by
  intro s c g a b hn
  obtain ⟨hwins, hcurs⟩ := past_wins c
  refine ⟨c.past.setDraw c.emask fun l => (c.r.src2 a l, (c.r.srcI b l).toNat % 32), ?_, ?_, fun l _ => ⟨?_, ?_⟩⟩
  · exact (issue_normal hn _).trans (congrArg Host.Outcome.next (advance_mod s c _))
  · rw [setDraw_eq]
  · rw [get_setDraw_wins, hwins]
  · rw [get_setDraw_curs, hcurs]

/-! ### One read in each of some lanes (R136) -/

/-- Registers after one read of `n l` bits in each lane `l` of `m`, where `out l` is what the read comes to when it is of 1 bit or
more; a read of 0 bits gives 0 and moves nothing. -/
def Regs.drawInto (x : Regs) (r : Nat) (m : BitVec 32) (n : Nat → Nat) (out : Nat → Word × DWord × Nat) : Regs :=
  (x.setV r m fun l => if n l = 0 then 0 else (out l).1).setDraw (m &&& maskOf fun l => n l ≠ 0) fun l => (out l).2

section
variable (x : Regs) (r : Nat) (m : BitVec 32) (n : Nat → Nat) (out : Nat → Word × DWord × Nat)

theorem drawInto_frame : RegFrame [.v r] m x { x.drawInto r m n out with wins := x.wins, curs := x.curs } := by
  obtain ⟨hpri, hsec, hdepth, -, -, hread, hlanes⟩ := setV_frame x r m fun l => if n l = 0 then 0 else (out l).1
  unfold Regs.drawInto
  rw [setDraw_eq]
  exact ⟨hpri, hsec, hdepth, rfl, rfl, hread, hlanes⟩

theorem drawInto_v {l : Nat} (hl : l < 32) (hm : m.getLsbD l = true) (hr : r < 255) :
    (x.drawInto r m n out).v r l = if n l = 0 then 0 else (out l).1 := by
  unfold Regs.drawInto
  rw [setDraw_eq]
  exact (setV_v x r m _ hl).trans (if_pos ⟨rfl, hm, hr⟩)

/-- The lanes whose window and cursor move. -/
theorem getLsbD_moving {l : Nat} (hl : l < 32) :
    (m &&& maskOf fun l => n l ≠ 0).getLsbD l = true ↔ m.getLsbD l = true ∧ n l ≠ 0 := by
  simp only [BitVec.getLsbD_and, getLsbD_maskOf, hl, decide_true, Bool.true_and, Bool.and_eq_true, decide_eq_true_eq]

theorem setV_draw (f : Nat → Word) : (x.setV r m f).wins = x.wins ∧ (x.setV r m f).curs = x.curs := by
  obtain ⟨-, -, -, hwins, hcurs, -, -⟩ := setV_frame x r m f
  exact ⟨hwins, hcurs⟩

theorem drawInto_wins {l : Nat} (hl : l < 32) :
    Store.get 0 (x.drawInto r m n out).wins l = if m.getLsbD l ∧ n l ≠ 0 then (out l).2.1 else Store.get 0 x.wins l := by
  simp only [Regs.drawInto, get_setDraw_wins, getLsbD_moving m n hl, (setV_draw x r m _).1]

theorem drawInto_curs {l : Nat} (hl : l < 32) :
    Store.get 0 (x.drawInto r m n out).curs l = if m.getLsbD l ∧ n l ≠ 0 then (out l).2.2 else Store.get 0 x.curs l := by
  simp only [Regs.drawInto, get_setDraw_curs, getLsbD_moving m n hl, (setV_draw x r m _).2]

end

/-! ### DRAW (R136, R137) -/

/-- The lanes that remain when those of a width above 32 have left. -/
theorem lanes_of_legal_width (m : BitVec 32) (n : Nat → Nat) :
    m &&& ~~~(maskOf fun l => ((lanesOf m).filter fun l => 32 < n l).contains l) = m &&& maskOf fun l => n l ≤ 32 := by
  refine BitVec.eq_of_getLsbD_eq fun l hl => ?_
  simp only [BitVec.getLsbD_and, BitVec.getLsbD_not, getLsbD_maskOf, hl, decide_true, Bool.true_and, List.contains_eq_mem,
    List.mem_filter, mem_lanesOf, decide_eq_true_eq]
  cases m.getLsbD l with
  | false => rfl
  | true => by_cases h : n l ≤ 32 <;> simp [h, Nat.lt_of_not_le]

/-- No executing lane has a width above 32 when all of them remain. -/
theorem no_wide_lane {m : BitVec 32} {n : Nat → Nat} (h : m &&& (maskOf fun l => n l ≤ 32) = m) :
    ((lanesOf m).filter fun l => 32 < n l) = [] := by
  refine List.filter_eq_nil_iff.mpr fun l hl => ?_
  rw [mem_lanesOf, ← h, BitVec.getLsbD_and, getLsbD_maskOf, Bool.and_eq_true, Bool.and_eq_true, decide_eq_true_eq,
    decide_eq_true_eq] at hl
  obtain ⟨-, -, hnarrow⟩ := hl
  exact fun hwide => absurd (of_decide_eq_true hwide) (Nat.not_lt.mpr hnarrow)

theorem settle_done_ite (c : Ctx) (b : Bool) (t u : State) :
    settle c (if !b then .done u else .done t) = .next (if b then t else u) := by
  cases b <;> rfl

/-- DRAW past its checks: the lanes of a width above 32 take their trap, and when others go on each of these reads once. -/
theorem exec_draw {s : State} {c : Ctx} {g : Guard} {d : RegNum} {a : Src} {w : SrcI} (hn : normal (.draw g d a w) s = some c) :
    let n (l : Nat) : Nat := (c.r.srcI w l).toNat
    let r := c.laneTrap (((lanesOf c.emask).filter fun l => 32 < n l).map fun l => ⟨l, 0x14, 0, 0⟩) (s.advance c)
    exec (.draw g d a w) s = .next (if r.1 then c.mod r.2 fun x => x.drawInto d.toNat (c.emask &&& maskOf fun l => n l ≤ 32) n
      fun l => drawStep (Store.get 0 c.r.wins l) (Store.get 0 c.r.curs l) (n l) (c.r.src2 a l) else r.2) := by
  intro n r
  rw [← lanes_of_legal_width]
  exact (issue_normal hn _).trans (settle_done_ite c r.1 _ r.2)

/-- A change of a gang's registers, when the gang is known. -/
theorem mod_of_gang {c : Ctx} {s : State} {G : Gang} (h : s.gang? c.gid = some G) (f : Regs → Regs) :
    c.mod s f = s.modRegs c.gid fun _ => f G.regs := by
  simp only [Ctx.mod, State.modRegs, State.modGang_some h]

theorem laneTrapTo_nil (c : Ctx) (res : DWord) (s : State) : c.laneTrapTo [] res s = (true, s) := rfl

/-- Settles O4: the effect of DRAW is the lane trap and then one read in each lane that remains, from the draw state that the word
found: no trap, not even one that ends the team, changes it. -/
theorem drawReadsStream : Obligations.DrawReadsStream := by
  intro s c g d a w hn n ok r
  have hexec := exec_draw hn
  refine ⟨fun hok => ?_, fun hr => ?_, fun hr G hG => ?_⟩
  · simp only [r, no_wide_lane hok, List.map_nil]
    exact laneTrapTo_nil ..
  · exact hexec.trans (congrArg Host.Outcome.next (if_neg (Bool.eq_false_iff.mp hr)))
  · obtain ⟨y, hy, hsame⟩ := (leavesRegs_laneTrapTo c _ c.X (s.advance c)).gang _ _ hG
    obtain rfl : c.gangPast = y := Option.some.inj ((gang_advance s c).symm.trans hy)
    rw [gangPast_regs] at hsame
    have hwins : G.regs.wins = c.r.wins := hsame.draw.1.trans (past_wins c).1
    have hcurs : G.regs.curs = c.r.curs := hsame.draw.2.trans (past_wins c).2
    let out (l : Nat) := drawStep (Store.get 0 c.r.wins l) (Store.get 0 c.r.curs l) (n l) (c.r.src2 a l)
    refine ⟨G.regs.drawInto d.toNat ok n out, ?_, ?_, fun l hl => ⟨fun hm hd => ?_, ?_, ?_⟩⟩
    · exact hexec.trans (congrArg Host.Outcome.next ((if_pos hr).trans (mod_of_gang hG _)))
    · rw [← hwins, ← hcurs]
      exact drawInto_frame ..
    · exact drawInto_v _ _ _ _ _ hl hm hd
    · exact (drawInto_wins G.regs _ ok n out hl).trans (by rw [hwins])
    · exact (drawInto_curs G.regs _ ok n out hl).trans (by rw [hcurs])

end Sys2Proof.Machine
end

section
/-!
SUPPORT. Fences and the line wait: O19.
-/
namespace Sys2Proof.Machine

/-! ### FENCE and XFENCE (R226, R227) -/

theorem exec_fence {s s1 : State} {c : Ctx} {g : Guard} {o : FenceOrd} {scope : Scope}
    (hn : normal (.fence g o scope) s = some c) (hacc : ∀ a ∈ s.accesses, a.gang ≠ c.gid)
    (hpub : (if o ≠ .acq then (s.advance c).publishCore c.core else (true, s.advance c)) = (true, s1)) :
    let t := if !c.narrow scope && o ≠ .rel then s1.dropCleanAll c.core else s1
    exec (.fence g o scope) s =
      .next (if o ≠ .acq then t.modGang c.gid fun g => { g with relArm := some (!c.narrow scope) } else t) := by
  have hnone : ((s.advance c).accesses.any fun a => a.gang = c.gid) = false :=
    List.any_eq_false.mpr fun a ha => by simpa only [decide_eq_true_eq] using hacc a ha
  refine (issue_normal hn _).trans ?_
  simp only [hnone, hpub, Bool.false_eq_true, if_false, Bool.not_true]
  rfl

theorem exec_xfence {s s1 : State} {c : Ctx} {g : Guard} (hn : normal (.xfence g) s = some c)
    (hout : s.storesOut c.gid = false) (hpub : (s.advance c).publishCore c.core = (true, s1)) :
    exec (.xfence g) s = .next s1 := by
  have hnone : (s.advance c).storesOut c.gid = false := hout
  refine (issue_normal hn _).trans ?_
  simp only [hnone, hpub, Bool.false_eq_true, if_false, if_true]
  rfl

/-! ### Requests whose lanes all lie in the scratchpad -/

/-- Every lane of a request has a good pointer into the scratchpad (R54, R55, R187). -/
def InScratchpad (c : Ctx) (q : MemReq) : Prop := ∀ x ∈ q.lanes, ptrSpace x.2.1 = 1 ∧ c.preCheck x.2.1 q.size x.1 = none

/-- A lane of a load placed in the scratchpad. -/
def scratchLane (q : MemReq) (x : Nat × DWord × Nat × Nat) : LaneAcc :=
  { lane := x.1, ptr := x.2.1, loc := .scr (ptrAddr x.2.1), place := .l1, size := q.size, b := x.2.2.1, c := x.2.2.2, got := none,
    flag := true, pois := false, pol := policyOf x.2.1 q.pov, sys := q.scopeAt x.2.1 = .sys }
/-- A lane with its check passed at its place in the scratchpad. -/
def scratchChecked (x : Nat × DWord × Nat × Nat) : (Nat × DWord × Nat × Nat) × LaneChk := (x, .at_ (.scr (ptrAddr x.2.1)))

theorem tables_scratch {p : DWord} (h : ptrSpace p = 1) (c : Ctx) (l : Nat) : c.tables p l = none := by
  simp only [Ctx.tables, h]

/-- The scratchpad has no pages to walk (R196). -/
theorem reqPages_scratch {c : Ctx} {q : MemReq} (h : InScratchpad c q) : c.reqPages q = [] := by
  have hnone : (q.lanes.map fun x => (x.1, x.2.1)).filterMap (fun (l, p) =>
      if (c.preCheck p q.size l).isSome then none
      else (c.tables p l).map fun t => (t.1, t.2.1 / 65536, t.2.2)) = [] := by
    refine List.filterMap_eq_nil_iff.mpr fun y hy => ?_
    obtain ⟨x, hx, rfl⟩ := List.mem_map.mp hy
    obtain ⟨hspace, hpre⟩ := h x hx
    simp only [hpre, tables_scratch hspace, Option.isSome_none, Bool.false_eq_true, if_false, Option.map_none]
  exact congrArg List.eraseDups hnone

theorem check_scratch {c : Ctx} {p : DWord} {size l : Nat} (hspace : ptrSpace p = 1) (hpre : c.preCheck p size l = none)
    (s : State) (wr pois probe : Bool) : c.check s wr pois probe size p l = .at_ (.scr (ptrAddr p)) := by
  simp only [Ctx.check, hpre, tables_scratch hspace, hspace, if_true]

theorem checks_scratch {c : Ctx} {q : MemReq} (h : InScratchpad c q) (s : State) (wr pois probe : Bool) :
    q.lanes.map (fun x => (x, c.check s wr pois probe q.size x.2.1 x.1)) = q.lanes.map scratchChecked := by
  refine List.map_congr_left fun x hx => ?_
  obtain ⟨hspace, hpre⟩ := h x hx
  rw [check_scratch hspace hpre]
  rfl

theorem locsOf_scratch (ls : List (Nat × DWord × Nat × Nat)) :
    locsOf (ls.map scratchChecked) = ls.map fun x => .scr (ptrAddr x.2.1) := by
  rw [locsOf, List.filterMap_map]
  exact congrFun List.filterMap_eq_map ls
theorem faultsOf_scratch (ls : List (Nat × DWord × Nat × Nat)) : faultsOf (ls.map scratchChecked) = [] := by
  rw [faultsOf, List.filterMap_map]
  exact List.filterMap_eq_nil_iff.mpr fun _ _ => rfl

/-- An access to the scratchpad overlaps no access in flight. -/
theorem overlapsOwn_scratch (s : State) (gid : Nat) (load : Bool) (as : List Nat) :
    s.overlapsOwn gid load (as.map .scr) = false := by
  have hsec : (as.map Loc.scr).filterMap Loc.sec? = [] := by
    rw [List.filterMap_map]
    exact List.filterMap_eq_nil_iff.mpr fun _ _ => rfl
  simp only [State.overlapsOwn, hsec, List.any_eq_false, Bool.and_eq_true, not_and, Bool.not_eq_true]
  intro a _ _ y _
  cases y.loc with
  | host a => simp only [List.any_map, List.any_eq_false, Function.comp_apply]; exact fun _ _ => nofun
  | pool a => simp only [List.any_map, List.any_eq_false, Function.comp_apply]; exact fun _ _ => nofun
  | dram | priv | scr => rfl

/-- A load of the scratchpad waits for an acquire and for the scoreboard alone (R208, R230). -/
theorem memWait_scratch {c : Ctx} {q : MemReq} {s : State} (hrel : q.rel = false) (hacq : s.acquireOut c.gid = false)
    (hboard : ∀ x ∈ q.lanes, s.boarded c.tid (ptrAddr x.2.1) (ptrAddr x.2.1 + q.size) = false) :
    c.memWait q (locsOf (q.lanes.map scratchChecked)) s = none := by
  have hown : s.overlapsOwn c.gid q.op.isLoad (q.lanes.map fun x => .scr (ptrAddr x.2.1)) = false := by
    have h := overlapsOwn_scratch s c.gid q.op.isLoad (q.lanes.map fun x => ptrAddr x.2.1)
    rwa [List.map_map] at h
  unfold Ctx.memWait
  rw [locsOf_scratch, hacq, hown, hrel, List.any_map]
  refine (if_neg nofun).trans ((if_neg ?_).trans rfl)
  exact Bool.eq_false_iff.mp (List.any_eq_false.mpr fun x hx => Bool.eq_false_iff.mp (hboard x hx))

/-- A loop that collects one result for each element, `F` being the rest of its state. -/
theorem foldl_collect {α β γ : Type} {f : γ → α → γ} {F : List β → γ} {g : α → β} (h : ∀ acc a, f (F acc) a = F (acc ++ [g a]))
    (l : List α) (acc : List β) : l.foldl f (F acc) = F (acc ++ l.map g) := by
  induction l generalizing acc with
  | nil => rw [List.foldl_nil, List.map_nil, List.append_nil]
  | cons a l ih => rw [List.foldl_cons, h, ih, List.map_cons, List.append_assoc, List.singleton_append]

theorem placeLane_scratch (c : Ctx) (q : MemReq) (s : State) (x : Nat × DWord × Nat × Nat) :
    c.placeLane q s x (.scr (ptrAddr x.2.1)) = (scratchLane q x, true, s) := rfl

/-- The lanes of a load are placed without any change (R201). -/
theorem placeAll_scratch {q : MemReq} (hload : q.op.isLoad = true) (c : Ctx) (s : State) :
    c.placeAll q (q.lanes.map scratchChecked) s = (q.lanes.map (scratchLane q), true, s) := by
  simp only [Ctx.placeAll, hload, if_true, List.foldl_map]
  exact foldl_collect (F := fun acc => (acc, true, s)) (fun _ _ => rfl) q.lanes []

/-! ### WAITLN (R224) -/

theorem readLane_scratch {c : Ctx} {s : State} (hT : s.team? c.tid = some c.T) (q : MemReq) (x : Nat × DWord × Nat × Nat) :
    c.readLane (scratchLane q x) s = (some (ofBytes (readBytes c.T.scratch (ptrAddr x.2.1) q.size)), s) := by
  simp only [Ctx.readLane, scratchLane, State.tryLane, hT, AccOp.new]

/-- Whether a lane's word of the scratchpad stands in the relation. -/
def Ctx.meets (c : Ctx) (rel : Rel) (uns : Bool) (q : MemReq) (x : Nat × DWord × Nat × Nat) : Bool :=
  rel.holds (wval (!uns) (8 * q.size) (ofBytes (readBytes c.T.scratch (ptrAddr x.2.1) q.size))) (wval (!uns) (8 * q.size) x.2.2.1)

theorem watchReads_scratch {c : Ctx} {s : State} (hT : s.team? c.tid = some c.T) (rel : Rel) (uns : Bool) (q : MemReq) :
    c.watchReads rel uns (q.lanes.map (scratchLane q)) s = (true, q.lanes.map fun x => (x.1, c.meets rel uns q x), s) := by
  rw [Ctx.watchReads, List.foldl_map]
  refine foldl_collect (F := fun acc => (true, acc, s)) (fun acc x => ?_) q.lanes []
  rw [readLane_scratch hT]
  rfl

/-- Reads of the scratchpad are never poison (R270). -/
theorem filter_spoilt_scratch (s : State) (q : MemReq) (ls : List (Nat × DWord × Nat × Nat)) :
    (ls.map (scratchLane q)).filter (fun y => s.readSpoilt y.loc) = [] := by
  refine List.filter_eq_nil_iff.mpr fun y hy => ?_
  obtain ⟨x, -, rfl⟩ := List.mem_map.mp hy
  exact Bool.false_ne_true
theorem filter_unspoilt_scratch (s : State) (q : MemReq) (ls : List (Nat × DWord × Nat × Nat)) :
    (ls.map (scratchLane q)).filter (fun y => !s.readSpoilt y.loc) = ls.map (scratchLane q) := by
  refine List.filter_eq_self.mpr fun y hy => ?_
  obtain ⟨x, -, rfl⟩ := List.mem_map.mp hy
  rfl

/-- A WAITLN of the scratchpad that is met, or whose bound has passed, completes at once. -/
theorem exec_waitln_scratch {s : State} {c : Ctx} {g : Guard} {rel : Rel} {uns b64 : Bool} {p : PredNum} {base : Base} {b : Src}
    {off : Word} {tmo : BitVec 16} {scope : Scope} {ord : Order} {q : MemReq} {rs : List (Nat × Bool)}
    (hn : normal (.waitln g rel uns b64 p base b off tmo scope ord) s = some c) (hq : c.waitReq b64 base b off scope ord = q)
    (hin : InScratchpad c q) (hacq : s.acquireOut c.gid = false)
    (hboard : ∀ x ∈ q.lanes, s.boarded c.tid (ptrAddr x.2.1) (ptrAddr x.2.1 + q.size) = false)
    (hrs : q.lanes.map (fun x => (x.1, c.meets rel uns q x)) = rs)
    (hend : (∀ y ∈ rs, y.2 = true) ∨ c.watchFrom.getD s.time + 1000 * tmo.toNat ≤ s.time) :
    exec (.waitln g rel uns b64 p base b off tmo scope ord) s =
      .next ((s.put c (c.past.setP p.toNat (maskOf fun l => rs.any (·.1 = l)) fun l => rs.any fun y => y.1 = l && y.2)).dropCleanAll
        c.core) := by
  obtain ⟨o, hc, -⟩ := checked_of_normal hn
  obtain ⟨-, -, -, hT, -, -, -, -⟩ := gang_of_checked hc
  have hT' : (s.advance c).team? c.tid = some c.T := hT
  have hload : q.op.isLoad = true := by rw [← hq]; rfl
  have hrel : q.rel = false := by rw [← hq]; rfl
  have hwait : c.memWait q (locsOf (q.lanes.map scratchChecked)) (s.advance c) = none := memWait_scratch hrel hacq hboard
  have hover : (rs.all (·.2) || decide (c.watchFrom.getD (s.advance c).time + 1000 * tmo.toNat ≤ (s.advance c).time)) = true := by
    rw [Bool.or_eq_true, decide_eq_true_eq, List.all_eq_true]
    exact hend
  have hpages : c.walkAll [] (s.advance c) = (true, s.advance c) := rfl
  have hseen : c.seenAll [] (s.advance c) = s.advance c := rfl
  have hfault : c.laneTrap [] (s.advance c) = (true, s.advance c) := laneTrapTo_nil ..
  refine (issue_normal hn _).trans ?_
  simp only [hq, reqPages_scratch hin, hpages, checks_scratch hin, hwait, faultsOf_scratch, hfault, hseen, placeAll_scratch hload,
    filter_spoilt_scratch, filter_unspoilt_scratch, watchReads_scratch hT', hrs, hover, Bool.not_true, Bool.false_eq_true, if_false,
    if_true, Bool.or_self, List.isEmpty_nil, Bool.true_or, advance_mod]
  rfl

/-- Results of the lanes of a mask, found by their lane. -/
theorem any_lane (m : BitVec 32) (f : Nat → Bool) (p : Bool → Bool) (l : Nat) :
    ((lanesOf m).map fun k => (k, f k)).any (fun y => y.1 = l && p y.2) = (m.getLsbD l && p (f l)) := by
  rw [Bool.eq_iff_iff, List.any_map, List.any_eq_true, Bool.and_eq_true]
  simp only [Function.comp_apply, Bool.and_eq_true, decide_eq_true_eq]
  constructor
  · rintro ⟨k, hk, rfl, hf⟩
    exact ⟨mem_lanesOf.mp hk, hf⟩
  · rintro ⟨hm, hf⟩
    exact ⟨l, mem_lanesOf.mpr hm, rfl, hf⟩

/-- A write of a predicate depends on its lanes alone. -/
theorem setP_congr (x : Regs) (n : Nat) {m m' : BitVec 32} {f f' : Nat → Bool} (hm : m = m')
    (hf : ∀ l, m.getLsbD l = true → f l = f' l) : x.setP n m f = x.setP n m' f' := by
  subst hm
  have hbits : m &&& maskOf f = m &&& maskOf f' := by
    refine BitVec.eq_of_getLsbD_eq fun l hl => ?_
    rw [BitVec.getLsbD_and, BitVec.getLsbD_and, getLsbD_maskOf, getLsbD_maskOf]
    cases hb : m.getLsbD l with
    | false => rfl
    | true => rw [hf l hb]
  rw [Regs.setP, Regs.setP, hbits]

/-- Results of the lanes of a mask, written to a predicate as the model gathers them. -/
theorem setP_gathered (x : Regs) (n : Nat) (m : BitVec 32) (f : Nat → Bool) :
    let rs := (lanesOf m).map fun k => (k, f k)
    x.setP n (maskOf fun l => rs.any (·.1 = l)) (fun l => rs.any fun y => y.1 = l && y.2) = x.setP n m f := by
  intro rs
  have hmask : (maskOf fun l => rs.any (·.1 = l)) = m := by
    refine BitVec.eq_of_getLsbD_eq fun l hl => ?_
    have h := any_lane m f (fun _ => true) l
    simp only [Bool.and_true] at h
    rw [getLsbD_maskOf, h, decide_eq_true hl, Bool.true_and]
  refine setP_congr x n hmask fun l hl => ?_
  rw [hmask] at hl
  exact (any_lane m f (fun b => b) l).trans (by rw [hl, Bool.true_and])

/-- Settles O19: FENCE and XFENCE by the hypotheses on the publication; WAITLN because the lanes of a scratchpad request pass their
checks, are placed and are read at once, without any change to the state. -/
theorem fencesAndWaits : Obligations.FencesAndWaits := by
  intro s c
  refine ⟨fun g o scope s1 hn hacc hpub => exec_fence hn hacc hpub, fun g s1 hn hout hpub => exec_xfence hn hout hpub, ?_⟩
  intro g rel uns b64 p base b off tmo scope ord hn n a ok hin hacq hboard hend t
  let q := c.waitReq b64 base b off scope ord
  have hlane : ∀ {P : Nat × DWord × Nat × Nat → Prop},
      (∀ l < 32, c.emask.getLsbD l → P (l, a l, c.r.vN b.reg.toNat n l, 0)) → ∀ x ∈ q.lanes, P x := by
    intro P h x hx
    obtain ⟨l, hl, rfl⟩ := List.mem_map.mp hx
    have hm := mem_lanesOf.mp hl
    exact h l (BitVec.lt_of_getLsbD hm) hm
  have hmeets : ∀ l, c.meets rel uns q (l, a l, c.r.vN b.reg.toNat n l, 0) = ok l := by
    intro l
    have hsize : 8 * q.size = 32 * n := by
      show 8 * (4 * n) = 32 * n
      omega
    rw [Ctx.meets, hsize]
    rfl
  have hresults : q.lanes.map (fun x => (x.1, c.meets rel uns q x)) = (lanesOf c.emask).map fun l => (l, ok l) := by
    rw [show q.lanes = (lanesOf c.emask).map fun l => (l, a l, c.r.vN b.reg.toNat n l, 0) from rfl, List.map_map]
    exact List.map_congr_left fun l _ => congrArg (Prod.mk l) (hmeets l)
  refine (exec_waitln_scratch hn rfl (hlane hin) hacq (hlane hboard) hresults (hend.imp (fun hmet y hy => ?_) id)).trans ?_
  · obtain ⟨l, hl, rfl⟩ := List.mem_map.mp hy
    have hm := mem_lanesOf.mp hl
    exact hmet l (BitVec.lt_of_getLsbD hm) hm
  · rw [setP_gathered]

end Sys2Proof.Machine
end

section
/-!
SUPPORT. Collectives: O29.
-/
namespace Sys2Proof.Machine

/-- A gang-wide trap at a word that passed its checks, where the slot can take it (R394). -/
theorem trapTo_atTrap {i : Instr} {s : State} {c : Ctx} (hn : normal i s = some c) (hm : c.mayTrap s) (code cause : Nat)
    (addr : DWord) : c.trapTo code cause addr c.X (s.advance c) = c.atTrap s code cause addr :=
  trapTo_advance hn hm.1 hm.2 code cause addr c.X

/-- A word whose effect is such a trap. -/
theorem issue_traps {i : Instr} {s : State} {c : Ctx} {eff : Ctx → State → Res} {code cause : Nat} {addr : DWord}
    (hn : normal i s = some c) (hm : c.mayTrap s) (heff : eff c (s.advance c) = c.trapAt code cause addr (s.advance c)) :
    issue i s eff = .next (c.atTrap s code cause addr) := by
  rw [issue_normal hn, heff, Ctx.trapAt, trapTo_atTrap hn hm]
  rfl

/-! ### COLL (R334) -/

section
variable {s s1 : State} {c : Ctx} {g : Guard} {d : RegNum} {ptr : Src} {off : Option Word}

theorem exec_coll_badPtr {code cause : Nat} {addr : DWord} (hn : normal (.coll g d ptr off) s = some c) (hm : c.mayTrap s)
    (hptr : collPtr c.C.scratchBytes c.C.lr.privsz (c.kaddr ptr ((off.getD 0).signExtend 64)) 128 128 = some (code, cause, addr)) :
    exec (.coll g d ptr off) s = .next (c.atTrap s code cause addr) := by
  refine issue_traps hn hm ?_
  simp only [hptr]

/-- A COLL whose block reads without a fault goes on to the checks of the block. -/
theorem exec_coll_read {p : DWord} {j : Nat} {y : List (Option Byte) × EngRun} (hn : normal (.coll g d ptr off) s = some c)
    (hp : c.kaddr ptr ((off.getD 0).signExtend 64) = p) (hptr : collPtr c.C.scratchBytes c.C.lr.privsz p 128 128 = none)
    (hslot : ((List.range 4).find? fun j => (Store.get {} c.T.colls j : CollSlot).state = .free) = some j)
    (hrel : c.release (s.advance c) = (none, s1))
    (hy : ({ s := s1, feed := c.G.seen } : EngRun).read (c.eng (policyOf p .none)) (ptrSpace p) 0 0 p 128 = y)
    (hstall : y.2.stall = none) (hfault : y.2.faults = []) :
    exec (.coll g d ptr off) s = settle c (c.coll j (y.1.map (·.getD 0)) d y.2.s) := by
  refine (issue_normal hn _).trans ?_
  simp only [hp, hptr, hslot, hrel, hy, hstall, hfault]

end

section
variable {c : Ctx} {j : Nat} {raw : List Byte} {b : CollBlock} {d : RegNum} {s : State}

theorem coll_bad (hb : collBlock (ofBytes raw) = b) (hbad : b.bad (ofBytes raw) = true) :
    c.coll j raw d s = .done (c.trapTo 0x1B 0 0 c.X s) := by
  simp only [Ctx.coll, hb, hbad, if_true, Ctx.trap]

/-- Without RSET the ranks are the circle's teams. -/
theorem coll_circle (hb : collBlock (ofBytes raw) = b) (hbad : b.bad (ofBytes raw) = false) (hset : b.rset = false) :
    c.coll j raw d s = c.collRanks j b raw (c.circleRanks b.circle) none d s := by
  simp only [Ctx.coll, hb, hbad, hset, Bool.false_eq_true, if_false, Bool.not_false, if_true]

/-- The rank that entry `i` of a rank table names; 0 where it could not be read (R333). -/
def tableRank (bs : List (Option Byte)) (i : Nat) : Word :=
  match allBytes ((bs.drop (4 * i)).take 4) with
  | some bs => BitVec.ofNat 32 (ofBytes bs)
  | none => 0

/-- Under RSET the ranks are those of the table, once it is read. -/
theorem coll_table {z : List (Option Byte) × EngRun} (hb : collBlock (ofBytes raw) = b) (hbad : b.bad (ofBytes raw) = false)
    (hset : b.rset = true) (hptr : collPtr c.C.scratchBytes c.C.lr.privsz b.rtab 4 (4 * b.nrank) = none)
    (hz : ({ s := s, feed := c.G.seen } : EngRun).read (c.eng (policyOf b.rtab .none)) (ptrSpace b.rtab) 0 0 b.rtab
      (4 * b.nrank) = z)
    (hstall : z.2.stall = none) (hfault : z.2.faults = []) :
    c.coll j raw d s = c.collRanks j b raw ((List.range b.nrank).map (tableRank z.1)) none d z.2.s := by
  simp only [Ctx.coll, hb, hbad, hset, hptr, hz, hstall, hfault, Bool.false_eq_true, if_false, Bool.not_true, List.head?_nil]
  rfl

/-- Once its rank is known and its pointers are good, a collective takes its slot in MATCH. -/
theorem collRanks_good {ranks : List Word} {me : Nat} (hme : c.myRank b ranks = some me) (hroot : b.root < ranks.length)
    (hptrs : c.collPtrs b ranks.length me = none) :
    c.collRanks j b raw ranks none d s =
      c.takeSlot j { state := .matching, block := b, raw := raw, ranks := ranks, me := me } d s := by
  have hcount : ranks.count (if b.rset then c.T.hall else BitVec.ofNat 32 c.T.tidx) = 1 := by
    refine Decidable.byContradiction fun hne => ?_
    simp only [Ctx.myRank, hne, if_false, reduceCtorEq] at hme
  have hfits : ¬ ranks.length ≤ b.root := Nat.not_le.mpr hroot
  simp only [Ctx.collRanks, hme, hcount, hfits, hptrs, Option.isNone_some, Bool.false_and, Nat.lt_irrefl, decide_false,
    Bool.or_self, Bool.false_eq_true, if_false, Option.getD_some, Option.map_none, Ctx.beginColl]

end

/-! ### COLLW and COLLQ (R343) -/

section
variable {s : State} {c : Ctx} {g : Guard} {q : Bool} {d : RegNum} {slot : SrcI}

/-- A slot number above 3 traps (R343). -/
theorem exec_collw_badSlot (hn : normal (.collw g q d slot) s = some c) (hj : 3 < (c.r.ksI slot).toNat) (hm : c.mayTrap s) :
    exec (.collw g q d slot) s = .next (c.atTrap s 0x1B 0 0) := issue_traps hn hm (if_pos hj)
theorem exec_collq_badSlot {op : CollQ} (hn : normal (.collq g op d slot) s = some c) (hj : 3 < (c.r.ksI slot).toNat)
    (hm : c.mayTrap s) : exec (.collq g op d slot) s = .next (c.atTrap s 0x1B 0 0) := issue_traps hn hm (if_pos hj)

/-- The state in which a COLLW has freed its slot and acquired. -/
def Ctx.collFreed (c : Ctx) (j : Nat) (s : State) : State :=
  c.acquire true ((s.advance c).modTeam c.tid fun t => { t with colls := Store.erase t.colls j })

theorem exec_collw_free (hn : normal (.collw g q d slot) s = some c) (hj : ¬ 3 < (c.r.ksI slot).toNat)
    (hx : (c.T.coll (c.r.ksI slot).toNat).state = .free) :
    exec (.collw g q d slot) s = .next (c.mod (c.acquire true (s.advance c)) fun y => y.setK d.toNat 0) := by
  refine (issue_normal hn _).trans ?_
  simp only [hj, if_false, hx]
  rfl
theorem exec_collw_done (hn : normal (.collw g q d slot) s = some c) (hj : ¬ 3 < (c.r.ksI slot).toNat)
    (hx : (c.T.coll (c.r.ksI slot).toNat).state = .done) :
    exec (.collw g q d slot) s = .next (c.mod (c.collFreed (c.r.ksI slot).toNat s) fun y => y.setK d.toNat 0) := by
  refine (issue_normal hn _).trans ?_
  simp only [hj, if_false, hx]
  rfl
theorem exec_collw_error (hn : normal (.collw g true d slot) s = some c) (hj : ¬ 3 < (c.r.ksI slot).toNat)
    (hx : (c.T.coll (c.r.ksI slot).toNat).state = .error) :
    exec (.collw g true d slot) s = .next (c.mod (c.collFreed (c.r.ksI slot).toNat s) fun y =>
      y.setK d.toNat (BitVec.ofNat 32 (c.T.coll (c.r.ksI slot).toNat).status)) := by
  refine (issue_normal hn _).trans ?_
  simp only [hj, if_false, hx, if_true]
  rfl
/-- A collective in error traps without `.q`. -/
theorem exec_collw_trap (hn : normal (.collw g false d slot) s = some c) (hj : ¬ 3 < (c.r.ksI slot).toNat)
    (hx : (c.T.coll (c.r.ksI slot).toNat).state = .error) (hm : c.mayTrap s) :
    exec (.collw g false d slot) s = .next (c.atTrap s 0x1C (c.T.coll (c.r.ksI slot).toNat).status 0) := by
  refine issue_traps hn hm ?_
  simp only [hj, if_false, hx, Bool.false_eq_true]
  rfl

/-- What COLLQ reads of a slot. -/
def CollSlot.query (x : CollSlot) (op : CollQ) : Nat :=
  match op with
  | .state => x.state.code
  | .step => x.step
  | .total => x.total
  | .fault => if x.fcause = 0 then 0 else x.fcause + 256 * x.frank

theorem exec_collq {op : CollQ} (hn : normal (.collq g op d slot) s = some c) (hj : ¬ 3 < (c.r.ksI slot).toNat) :
    exec (.collq g op d slot) s =
      .next (s.put c (c.past.setK d.toNat (BitVec.ofNat 32 ((c.T.coll (c.r.ksI slot).toNat).query op)))) := by
  refine (issue_normal hn _).trans ?_
  simp only [hj, if_false, Ctx.putK, advance_mod]
  rfl

end

/-- Settles O29: COLL runs through its checks in their order, with the ranks of the circle or of the table; COLLW and COLLQ go by the
state of the slot. -/
theorem collectiveWords : Obligations.CollectiveWords := by
  refine ⟨fun s c g d ptr off code cause addr hn hm hptr => exec_coll_badPtr hn hm hptr, ?_, ?_⟩
  · intro s s1 c g d ptr off j me hn p hptr hslot hrel y raw b z rank ranks hstall hfault
    have hread := exec_coll_read hn rfl hptr hslot hrel rfl hstall hfault
    refine ⟨fun hbad => hread.trans (congrArg (settle c) (coll_bad rfl hbad)), ?_⟩
    intro hbad htab hzstall hzfault hme hroot hptrs t x u
    have hranks : c.coll j raw d y.2.s = c.collRanks j b raw ranks none d z.2.s := by
      cases hset : b.rset with
      | false =>
        have hz : z = ([], { s := y.2.s }) := if_neg (Bool.eq_false_iff.mp hset)
        have hr : ranks = c.circleRanks b.circle := if_neg (Bool.eq_false_iff.mp hset)
        rw [hz, hr]
        exact coll_circle rfl hbad hset
      | true =>
        have hr : ranks = (List.range b.nrank).map (tableRank z.1) := if_pos hset
        rw [hr]
        exact coll_table rfl hbad hset (htab hset) (if_pos hset).symm hzstall hzfault
    exact hread.trans (congrArg (settle c) (hranks.trans (collRanks_good hme hroot hptrs)))
  · intro s c g d slot j x freed
    refine ⟨fun i hi hn hj hm => ?_, fun hlt => ?_⟩
    · rcases hi with ⟨q, rfl⟩ | ⟨op, rfl⟩
      · exact exec_collw_badSlot hn hj hm
      · exact exec_collq_badSlot hn hj hm
    · have hj : ¬ 3 < (c.r.ksI slot).toNat := Nat.not_lt.mpr (Nat.le_of_lt_succ hlt)
      refine ⟨fun hn hx hm => exec_collw_trap hn hj hx hm, fun q hn => ⟨fun hx => exec_collw_free hn hj hx,
        fun hx => exec_collw_done hn hj hx, fun hx hq => ?_⟩, fun op hn => exec_collq hn hj⟩
      subst hq
      exact exec_collw_error hn hj hx

end Sys2Proof.Machine
end

section
/-!
SUPPORT. Timed waits and flux passes: O42.
-/
namespace Sys2Proof.Machine

/-! ### What an event makes of a wait (R224, R363) -/

/-- A watch looks at its words again. -/
def Wait.afterReread (w : Wait) : Wait :=
  match w with
  | .watch since _ => .recheck since
  | w => w
/-- A watch whose bound has passed looks again. -/
def Wait.afterTimeout (now : Nat) (w : Wait) : Wait :=
  match w with
  | .watch since till => if till ≤ now then .recheck since else w
  | w => w
/-- A sleep whose time has come is over. -/
def Wait.afterSleep (now : Nat) (w : Wait) : Wait :=
  match w with
  | .sleep till => if till ≤ now then .ready else w
  | w => w

theorem afterTimeout_of_le {now since till : Nat} (h : till ≤ now) : (Wait.watch since till).afterTimeout now = .recheck since :=
  if_pos h
theorem afterSleep_of_le {now till : Nat} (h : till ≤ now) : (Wait.sleep till).afterSleep now = .ready := if_pos h

theorem exec_waitlnReread {s : State} {gid : Nat} (h : s.curEv = some (.waitlnReread gid)) :
    exec .waitlnReread s = .next (s.endWaits gid Wait.afterReread) := by
  simp only [exec, execWaitlnReread, h]
  rfl
theorem exec_waitlnTimeout {s : State} {gid : Nat} (h : s.curEv = some (.waitlnTimeout gid)) :
    exec .waitlnTimeout s = .next (s.endWaits gid (Wait.afterTimeout s.time)) := by
  simp only [exec, execWaitlnTimeout, h]
  rfl
theorem exec_sleepExpiry {s : State} {gid : Nat} (h : s.curEv = some (.sleepExpiry gid)) :
    exec .sleepExpiry s = .next (s.endWaits gid (Wait.afterSleep s.time)) := by
  simp only [exec, execSleepExpiry, h]
  rfl

/-- An event that changes the wait of a slot makes its gang eligible from now. -/
theorem endWaits_of_changed {s : State} {gid : Nat} {g : Gang} {w : Wait} (f : Wait → Wait) (hg : s.gang? gid = some g)
    (hw : g.wait = w ∨ g.wait2 = w) (hf : f w ≠ w) :
    s.endWaits gid f = s.setGang gid { g.mapWait f with eligAt := s.time } := by
  have hne : g.mapWait f ≠ g := fun h => by
    have h1 : f g.wait = g.wait := congrArg Gang.wait h
    have h2 : f g.wait2 = g.wait2 := congrArg Gang.wait2 h
    rcases hw with rfl | rfl
    · exact hf h1
    · exact hf h2
  rw [State.endWaits, State.modGang_some hg, if_neg hne]

/-! ### Flux passes (R375, R382) -/

theorem enterFlux_of_canFlux {s : State} {gid : Nat} {g : Gang} {f : Flux} (hg : s.gang? gid = some g)
    (hf : s.canFlux gid g = some f) :
    s.enterFlux gid = s.setGang gid { g with flux := some f, fluxPasses := satInc g.fluxPasses, wait := .ready } := by
  simp only [State.enterFlux, hg, hf, State.modGang_some hg]

theorem exec_fluxPassEnd {s : State} {gid : Nat} {g : Gang} (hg : s.gang? gid = some g) (hover : g.passOver = true)
    (h : s.curEv = some (.fluxPassEnd gid)) : exec .fluxPassEnd s = .next (s.endFlux gid) := by
  simp only [exec, execFluxPassEnd, h, hg, hover, if_true]

/-- Settles O42: each timed event changes the wait that it finds, so that wait is over; a pass begins where the model allows one and
ends when it is over. -/
theorem waitEvents : Obligations.WaitEvents := by
  intro s gid g hg after
  refine ⟨fun since till hw => ⟨fun he => ?_, fun he hle => ?_⟩, fun till hw hle he => ?_, fun f hf he => ?_, fun hover he => ?_⟩
  · have hchange : (Wait.watch since till).afterReread ≠ .watch since till := nofun
    exact (exec_waitlnReread he).trans (congrArg Host.Outcome.next (endWaits_of_changed _ hg hw hchange))
  · have hchange : (Wait.watch since till).afterTimeout s.time ≠ .watch since till := by
      rw [afterTimeout_of_le hle]; exact nofun
    exact (exec_waitlnTimeout he).trans (congrArg Host.Outcome.next (endWaits_of_changed _ hg hw hchange))
  · have hchange : (Wait.sleep till).afterSleep s.time ≠ .sleep till := by
      rw [afterSleep_of_le hle]; exact nofun
    exact (exec_sleepExpiry he).trans (congrArg Host.Outcome.next (endWaits_of_changed _ hg hw hchange))
  · simp only [exec, execFluxPassEntry, he, enterFlux_of_canFlux hg hf]
  · exact exec_fluxPassEnd hg hover he

end Sys2Proof.Machine
end

section
/-!
SUPPORT. The events of the copy and matrix engines: O44.
-/
namespace Sys2Proof.Machine

section
variable {s : State} {q : Xfer}

/-! ### The events' transfers -/

theorem exec_copyTransferStart (hq : s.xfers.find? (·.id = q.id) = some q) (he : s.curEv = some (.copyTransferStart q.id)) :
    exec .copyTransferStart s = .next (s.startXfer q) := by
  simp only [exec, execCopyTransferStart, he, hq]
theorem exec_copyTransferRetire (hq : s.xfers.find? (·.id = q.id) = some q) (he : s.curEv = some (.copyTransferRetire q.id)) :
    exec .copyTransferRetire s = .next (s.retireXfer q) := by
  simp only [exec, execCopyTransferRetire, he, hq]
theorem exec_tsndDue {due len : Nat} {dst : RegNum} (hq : s.xfers.find? (·.id = q.id) = some q)
    (he : s.curEv = some (.tsndDue q.id)) (hk : q.kind = .tsnd due len dst) :
    exec .tsndDue s = .next (s.sendDue q due len dst) := by
  simp only [exec, execTsndDue, he, hq, hk]

/-! ### The start of a transfer (R283, R423) -/

theorem startXfer_reads {len : Nat} (hb : q.begun = true) (hu : q.unread = some len) : s.startXfer q = s.sendRead q len := by
  simp only [State.startXfer, hb, hu, Option.isSome_some, Bool.and_self, if_true, Option.getD_some]

/-- A transfer that is not a timed send still reading its source. -/
theorem not_reading (h : q.begun = false ∨ q.unread = none) : (q.begun && q.unread.isSome) = false := by
  rcases h with h | h
  · rw [h, Bool.false_and]
  · rw [h, Option.isSome_none, Bool.and_false]

theorem startXfer_held (hr : q.begun = false ∨ q.unread = none) (hheld : s.xferHeld q = true) : s.startXfer q = s := by
  simp only [State.startXfer, not_reading hr, hheld, Bool.false_eq_true, if_false, if_true]

/-- A transfer for another group that begins while its device's circuits run (R423). -/
def Xfer.joins (q : Xfer) (s : State) : Prop := q.begun = false ∧ q.farGroups ≠ [] ∧ (s.dev (devOfDie q.die)).run = true

theorem joins_iff : q.joins s ↔ (!q.begun && !q.farGroups.isEmpty && (s.dev (devOfDie q.die)).run) = true := by
  simp only [Xfer.joins, Bool.and_eq_true, Bool.not_eq_true', List.isEmpty_eq_false_iff, and_assoc, ne_eq]

theorem startXfer_joins (hr : q.begun = false ∨ q.unread = none) (hheld : s.xferHeld q = false) (hj : q.joins s) :
    s.startXfer q = (q.farGroups.foldl (fun s g => s.circJoin (devOfDie q.die) g q.id (rcpyRows q.geo * rcpyLen q.geo)) s).modXfer
      q.id fun y => { y with begun := true } := by
  simp only [State.startXfer, not_reading hr, hheld, joins_iff.mp hj, Bool.false_eq_true, if_false, if_true]

theorem startXfer_ends (hr : q.begun = false ∨ q.unread = none) (hheld : s.xferHeld q = false) (hj : ¬ q.joins s)
    (hstall : (q.run s).2.stall = none) : s.startXfer q = (q.run s).2.s.xferDone q (q.run s).1 (q.run s).2 := by
  simp only [State.startXfer, not_reading hr, hheld, Bool.eq_false_iff.mpr (mt joins_iff.mpr hj), hstall, Bool.false_eq_true,
    if_false, Option.isNone_none, if_true]

theorem startXfer_stalls (hr : q.begun = false ∨ q.unread = none) (hheld : s.xferHeld q = false) (hj : ¬ q.joins s)
    (hstall : (q.run s).2.stall ≠ none) :
    s.startXfer q = (q.run s).2.s.modXfer q.id fun y => { y with
      begun := true, log := (q.run s).2.log, needs := (q.run s).2.needs, feed := none, byp := (q.run s).2.byp } := by
  have hsome : (q.run s).2.stall.isNone = false := Option.isNone_eq_false_iff.mpr (Option.isSome_iff_ne_none.mpr hstall)
  simp only [State.startXfer, not_reading hr, hheld, Bool.eq_false_iff.mpr (mt joins_iff.mpr hj), hsome, Bool.false_eq_true,
    if_false]

/-! ### The end of a transfer (R287, R341) -/

/-- A transfer that has performed every write. -/
def State.xferEnded (s : State) (q : Xfer) (bs : List (Option Byte)) (x : EngRun) : State :=
  s.modXfer q.id fun y =>
    { y with begun := true, done := true, wrote := x.wrote.eraseDups, data := bs, log := [], needs := none, feed := none, bad := [] }

theorem xferDone_clean {bs : List (Option Byte)} {x : EngRun} (hfs : q.bad ++ x.faults = []) :
    s.xferDone q bs x = s.xferEnded q bs x := by
  unfold State.xferDone
  split
  next hcons => exact absurd (hfs.symm.trans hcons) nofun
  next => rw [hfs]; rfl

/-- The first fault of a transfer fills its group's record. -/
theorem xferDone_faulted {bs : List (Option Byte)} {x : EngRun} (hfs : q.bad ++ x.faults ≠ []) (hk : ∀ j act, q.kind ≠ .coll j act) :
    s.xferDone q bs x = (s.xferEnded q bs x).modXferGroup q fun g => g.record q.code (q.bad ++ x.faults) := by
  unfold State.xferDone
  split
  next j act f rest hkind hcons => exact absurd hkind (hk j act)
  next => rw [List.isEmpty_eq_false_iff.mpr hfs]; rfl

/-- A fault of a collective's step aborts the collective. -/
theorem xferDone_aborts {bs : List (Option Byte)} {x : EngRun} {j : Nat} {act : CollAct} {f : EngFault} {rest : List EngFault} {u : Team}
    (hk : q.kind = .coll j act) (hfs : q.bad ++ x.faults = f :: rest) (hu : s.team? q.team = some u) :
    s.xferDone q bs x = ({ s with xfers := s.xfers.filter (·.id ≠ q.id) } : State).send
      (.collAbort q.team j 4 f.cause (u.coll j).me) := by
  simp only [State.xferDone, hk, hfs, hu]

/-! ### The retirement of a transfer (R237, R283) -/

/-- The lines that a transfer wrote. -/
def Xfer.wroteLines (q : Xfer) : List Nat := (q.wrote.map lineOfSec).eraseDups
/-- The state once a core has dropped the lines that a transfer wrote. -/
def Xfer.dropped (q : Xfer) (s : State) : State :=
  q.wroteLines.foldl (fun s l => (s.setL1 q.core (2 * l) {}).setL1 q.core (2 * l + 1) {}) s
/-- The state once a transfer has left the scoreboard too. -/
def Xfer.retired (q : Xfer) (s : State) : State := { q.dropped s with xfers := (q.dropped s).xfers.filter (·.id ≠ q.id) }

theorem retireXfer_waits (hd : q.done = true) (hpub : (s.pubAll q.core q.wroteLines).1 = false) :
    s.retireXfer q = (s.pubAll q.core q.wroteLines).2 := by
  unfold Xfer.wroteLines at *
  simp only [State.retireXfer, hd, hpub, Bool.not_true, Bool.not_false, Bool.false_eq_true, if_false, if_true]

theorem retireXfer_leaves (hd : q.done = true) (hpub : (s.pubAll q.core q.wroteLines).1 = true)
    (hk : ∀ j act, q.kind ≠ .coll j act) :
    s.retireXfer q = (q.retired (s.pubAll q.core q.wroteLines).2).modXferGroup q fun g => { g with inflight := g.inflight - 1 } := by
  unfold Xfer.wroteLines at *
  simp only [State.retireXfer, hd, hpub, Bool.not_true, Bool.false_eq_true, if_false]
  rfl

theorem retireXfer_coll {j : Nat} {act : CollAct} (hd : q.done = true) (hpub : (s.pubAll q.core q.wroteLines).1 = true)
    (hk : q.kind = .coll j act) :
    s.retireXfer q = ((q.retired (s.pubAll q.core q.wroteLines).2).collRetire q.team j act (q.data.map (·.getD 0))).getD
      (q.dropped (s.pubAll q.core q.wroteLines).2) := by
  unfold Xfer.wroteLines at *
  simp only [State.retireXfer, hd, hpub, hk, Bool.not_true, Bool.false_eq_true, if_false]
  rfl

/-! ### A timed send (R431) -/

theorem sendDue_of_due {due len : Nat} {dst : RegNum} (hb : q.begun = false) (hdue : due ≤ s.time) :
    s.sendDue q due len dst =
      (((s.modXfer q.id fun y => { y with begun := true, unread := some len }).inImage q.team fun s =>
        s.modRegs q.gang fun x => x.setK dst.toNat q.geo1).repay q.gang q.id).sendRead q len := by
  simp only [State.sendDue, hb, Nat.not_lt.mpr hdue, decide_false, Bool.or_self, Bool.false_eq_true, if_false]

/-- The read of a timed send's source from where an earlier attempt left it. -/
def Xfer.source (q : Xfer) (s : State) (len : Nat) : List (Option Byte) × EngRun :=
  ({ s := s, old := q.log, feed := q.fed, byp := q.byp } : EngRun).read q.eng (ptrSpace q.src) 0 0 q.src len

/-- A source in the scratchpad lies in the team's image while the team is away. -/
theorem source_here (h : ∀ t, s.team? q.team = some t → t.away = true → ptrSpace q.src ≠ 1) :
    ((s.team? q.team).any fun t => t.away && ptrSpace q.src = 1) = false := by
  cases ht : s.team? q.team with
  | none => rfl
  | some t =>
    rw [Option.any_some, Bool.and_eq_false_imp]
    exact fun ha => decide_eq_false (h t ht ha)

theorem sendRead_ends {len : Nat} (h : ∀ t, s.team? q.team = some t → t.away = true → ptrSpace q.src ≠ 1)
    (hstall : (q.source s len).2.stall = none) :
    s.sendRead q len = q.farGroups.foldl (fun s g => s.circJoin (devOfDie q.die) g q.id len)
      ((q.source s len).2.s.modXfer q.id fun y => { y with
        unread := none, data := (q.source s len).1, bad := (q.source s len).2.faults, log := [], needs := none, feed := none,
        byp := [] }) := by
  unfold Xfer.source at *
  simp only [State.sendRead, source_here h, hstall, Bool.false_eq_true, if_false, Option.isSome_none]

theorem sendRead_stalls {len : Nat} (h : ∀ t, s.team? q.team = some t → t.away = true → ptrSpace q.src ≠ 1)
    (hstall : (q.source s len).2.stall ≠ none) :
    s.sendRead q len = (q.source s len).2.s.modXfer q.id fun y => { y with
      log := (q.source s len).2.log, needs := (q.source s len).2.needs, feed := none, byp := (q.source s len).2.byp } := by
  have hsome := Option.isSome_iff_ne_none.mpr hstall
  unfold Xfer.source at *
  simp only [State.sendRead, source_here h, hsome, Bool.false_eq_true, if_false, if_true]

end

/-! ### The matrix engine (R303) -/

section
variable {s : State} {ck : Nat} {m : MatEnt} {t : Team}

theorem exec_matrixInstructionStart (hm : s.matHead ck = some m) (ht : s.team? m.team = some t)
    (he : s.curEv = some (.matrixInstructionStart ck)) (hlive : (m.begun && m.op.finished) = false)
    (hfree : s.barred m.id m.team m.board = false) :
    exec .matrixInstructionStart s = .next { s.setTeam m.team (t.matRun m.op).1 with
      mats := s.mats.map fun x => if x.id = m.id then { x with begun := true, op := (t.matRun m.op).2 } else x } := by
  simp only [exec, execMatrixInstructionStart, he, hm, ht, hlive, hfree, Bool.or_self, Bool.false_eq_true, if_false]

theorem exec_matrixRetire (hm : s.matHead ck = some m) (he : s.curEv = some (.matrixRetire ck)) (hb : m.begun = true)
    (hf : m.op.finished = true) : exec .matrixRetire s = .next { s with mats := s.mats.filter (·.id ≠ m.id) } := by
  simp only [exec, execMatrixRetire, he, hm, hb, hf, Bool.and_self, Bool.true_or, if_true]

end

/-- Settles O44: each event acts on the transfer or the head of the queue that it names, and what becomes of that goes by whether it
is held, joins its circuit, stalls, meets a fault or ends. -/
theorem engineEvents : Obligations.EngineEvents := by
  intro s
  refine ⟨fun q hq he => ⟨fun len hb hu => ?_, fun hr hheld => ?_⟩, ?_, ?_, fun q due len dst hq he hk hb hdue => ?_, ?_, ?_⟩
  · rw [exec_copyTransferStart hq he, startXfer_reads hb hu]
  · rw [exec_copyTransferStart hq he, startXfer_held hr hheld]
  · intro q hq he hheld hr circuit r t fs
    have hstart := exec_copyTransferStart hq he
    refine ⟨fun hj => ?_, fun hj hstall => ?_, fun hj hstall => ⟨fun hfs => ?_, fun hfs hk => ?_, fun j act f rest u hk hfs hu => ?_⟩⟩
    · rw [hstart, startXfer_joins hr hheld hj]
    · rw [hstart, startXfer_stalls hr hheld hj hstall]
    · rw [hstart, startXfer_ends hr hheld hj hstall, xferDone_clean hfs]
      rfl
    · rw [hstart, startXfer_ends hr hheld hj hstall, xferDone_faulted hfs hk]
      rfl
    · rw [hstart, startXfer_ends hr hheld hj hstall, xferDone_aborts hk hfs hu]
  · intro q hq he hd ls r t out
    have hretire := exec_copyTransferRetire hq he
    refine ⟨fun hpub => ?_, fun hpub hk => ?_, fun j act hpub hk => ?_⟩
    · exact hretire.trans (congrArg Host.Outcome.next (retireXfer_waits hd hpub))
    · exact hretire.trans (congrArg Host.Outcome.next (retireXfer_leaves hd hpub hk))
    · exact hretire.trans (congrArg Host.Outcome.next (retireXfer_coll hd hpub hk))
  · rw [exec_tsndDue hq he hk, sendDue_of_due hb hdue]
  · exact fun q len hhere => ⟨sendRead_ends hhere, sendRead_stalls hhere⟩
  · exact fun ck m t hm ht => ⟨exec_matrixInstructionStart hm ht, exec_matrixRetire hm⟩

end Sys2Proof.Machine
end

section
/-!
SUPPORT. The issue of copies: O21.
-/
namespace Sys2Proof.Machine

/-! ### One transfer (R282) -/

/-- The state once a transfer has its queue slot and its scoreboard entries, and its group counts it (R282). -/
def Ctx.queued (c : Ctx) (s : State) (p : CopyPlan) (grp : Nat) (mk : Nat → Xfer) (remote : Bool) : State :=
  ({ s with nextId := s.nextId + 1,
            xfers := s.xfers ++ [{ mk s.nextId with group := grp, board := p.board }] } : State).modGang
    c.gid fun g => g.modGroup remote grp fun r => { r with inflight := r.inflight + 1 }

section
variable {c : Ctx} {p : CopyPlan} {grp : Nat} {ends : Bool} {mk : Nat → Xfer} {s : State} {remote : Bool}

theorem issueCopy_fails {code cause : Nat} {addr : DWord}
    (hfail : p.fail c.C.scratchBytes c.C.lr.privsz = some (code, cause, addr)) :
    c.issueCopy p grp ends mk s remote = c.trapAt code cause addr s := by
  simp only [Ctx.issueCopy, hfail]

theorem issueCopy_queues (hpass : p.fail c.C.scratchBytes c.C.lr.privsz = none)
    (hqueue : (s.xfers.filter fun x => x.core = c.core).length < 64) (hboard : s.boardRoom c.T p.board.length = true) :
    c.issueCopy p grp ends mk s remote =
      .done (if ends then c.endRegion (c.queued s p grp mk remote) else c.queued s p grp mk remote) := by
  simp only [Ctx.issueCopy, hpass, Nat.not_le.mpr hqueue, hboard, Bool.not_true, Bool.false_eq_true, if_false]
  rfl

end

/-! ### RCPY's own checks of its pointers (R345) -/

theorem not_private_of_rcpySpace {a : DWord} (h : rcpySpace a = true) : ptrSpace a ≠ 2 := by
  intro h2
  rw [rcpySpace, h2] at h
  cases h

/-- The first check of an RCPY's plan is that of its source. -/
theorem rcpyPlan_fail_of_source {a b : DWord} {geo pitch : Word} {scr priv k : Nat} (ha : rcpySpace a = true)
    (hk : ptrCause a scr priv = some k) : (rcpyPlan a b geo pitch).fail scr priv = some (0x10, k, a) := by
  simp only [CopyPlan.fail, rcpyPlan, List.findSome?_cons, not_private_of_rcpySpace ha, hk, decide_false, Bool.false_and,
    Bool.or_self, Bool.false_eq_true, if_false, Option.map_some]

section
variable {s : State} {c : Ctx} {g : Guard} {grp : BitVec 3} {src dst geo : Src} {off : Word} {pol : PolOv} {a b : DWord}

theorem exec_rcpy_sourceSpace (hn : normal (.rcpy g grp src dst geo off pol) s = some c) (hm : c.mayTrap s)
    (hsrc : c.kaddr src (off.signExtend 64) = a) (ha : rcpySpace a = false) :
    exec (.rcpy g grp src dst geo off pol) s = .next (c.atTrap s 0x10 2 a) := by
  refine issue_traps hn hm ?_
  simp only [hsrc, ha, Bool.not_false, if_true]

theorem exec_rcpy_destinationSpace (hn : normal (.rcpy g grp src dst geo off pol) s = some c) (hm : c.mayTrap s)
    (hsrc : c.kaddr src (off.signExtend 64) = a) (ha : rcpySpace a = true)
    (hcause : ptrCause a c.C.scratchBytes c.C.lr.privsz = none) (hdst : c.r.ks2 dst = b) (hb : rcpySpace b = false) :
    exec (.rcpy g grp src dst geo off pol) s = .next (c.atTrap s 0x10 2 b) := by
  refine issue_traps hn hm ?_
  simp only [hsrc, hdst, ha, hcause, hb, Bool.not_true, Bool.not_false, Bool.false_eq_true, if_false, if_true]

/-- An RCPY between spaces that it may name does what its plan says: its own check of the source is the plan's first. -/
theorem exec_rcpy_plan (hn : normal (.rcpy g grp src dst geo off pol) s = some c)
    (hsrc : c.kaddr src (off.signExtend 64) = a) (ha : rcpySpace a = true) (hdst : c.r.ks2 dst = b) (hb : rcpySpace b = true) :
    let g0 := c.r.k geo.reg.toNat
    let g1 := c.r.k (geo.reg.toNat + 1)
    exec (.rcpy g grp src dst geo off pol) s = settle c (c.issueCopy (rcpyPlan a b g0 g1) grp.toNat (ptrSpace b ≠ 1)
      (c.xfer .rcpy a b g0 g1 0 0 pol) (s.advance c) true) := by
  refine (issue_normal hn _).trans (congrArg (settle c) ?_)
  cases hcause : ptrCause a c.C.scratchBytes c.C.lr.privsz with
  | some k =>
    rw [issueCopy_fails (rcpyPlan_fail_of_source ha hcause)]
    simp only [hsrc, ha, hcause, Bool.not_true, Bool.false_eq_true, if_false]
  | none => simp only [hsrc, hdst, ha, hb, hcause, Bool.not_true, Bool.false_eq_true, if_false]

end

/-! ### The four copy words (R284–R286, R345) -/

/-- A word with a plan does what the plan's issue comes to. -/
theorem exec_of_copyPlan {i : Instr} {s : State} {c : Ctx} {p : CopyPlan} {grp : Nat} {ends : Bool} {mk : Nat → Xfer}
    {remote : Bool} (hn : normal i s = some c) (hp : i.copyPlan c = some (p, grp, ends, mk, remote)) :
    exec i s = settle c (c.issueCopy p grp ends mk (s.advance c) remote) := by
  cases i with
  | cpy | cpyg | cpys =>
    cases hp
    exact issue_normal hn _
  | rcpy g grp src dst geo off pol =>
    obtain ⟨hspaces, hp⟩ := Option.ite_none_right_eq_some.mp hp
    obtain ⟨ha, hb⟩ := Bool.and_eq_true_iff.mp hspaces
    cases hp
    exact exec_rcpy_plan hn rfl ha rfl hb
  | _ => exact absurd hp nofun

/-- Settles O21: each copy word is the issue of its plan, which traps at the first check that fails or queues one transfer; RCPY
checks the spaces of its pointers before. -/
theorem copyIssue : Obligations.CopyIssue := by
  refine ⟨fun i s c p grp ends mk remote hn hp => ⟨fun code cause addr hfail hm => ?_, fun hpass hqueue hboard => ?_⟩,
    fun s c g grp src dst geo off pol hn hm => ⟨exec_rcpy_sourceSpace hn hm rfl, fun ha hcause hb =>
      exec_rcpy_destinationSpace hn hm rfl ha hcause rfl hb⟩⟩
  · rw [exec_of_copyPlan hn hp, issueCopy_fails hfail, Ctx.trapAt, trapTo_atTrap hn hm]
    rfl
  · exact (exec_of_copyPlan hn hp).trans (congrArg (settle c) (issueCopy_queues (s := s.advance c) hpass hqueue hboard))

end Sys2Proof.Machine
end

section
/-!
SUPPORT. The waits for copies: O23.
-/
namespace Sys2Proof.Machine

/-! ### The groups that a wait names (R288, R346) -/

/-- The faulting groups of a gang among those that a mask names, as a mask. -/
def Ctx.faulting (c : Ctx) (remote : Bool) (n mask : Nat) : Nat :=
  groupMask n fun i => mask.testBit i && (c.G.group remote i).cause ≠ 0
/-- None of the groups that a mask names has a transfer in flight. -/
def Ctx.Idle (c : Ctx) (remote : Bool) (n mask : Nat) : Prop :=
  ∀ j < n, mask.testBit j → (c.G.group remote j).inflight = 0

theorem lt_of_testBit_groupMask {n j : Nat} {p : Nat → Bool} (h : (groupMask n p).testBit j = true) : j < n := by
  rw [groupMask, (sumBits_spec p n).2, Bool.and_eq_true] at h
  exact of_decide_eq_true h.1

/-- The search for the lowest bit of a mask finds it. -/
theorem find_lowest_bit {n m j : Nat} (hj : j < n) (hbit : m.testBit j = true) (hlow : ∀ l < j, m.testBit l = false) :
    ((List.range n).find? fun i => m.testBit i) = some j :=
  List.find?_range_eq_some.mpr ⟨hbit, List.mem_range.mpr hj, fun l hl => (Bool.not_eq_true' _).mpr (hlow l hl)⟩

section
variable {c : Ctx} {remote quiet : Bool} {n mask code : Nat} {d : RegNum} {s : State}

theorem none_inFlight (h : c.Idle remote n mask) :
    ((List.range n).any fun i => mask.testBit i && (c.G.group remote i).inflight ≠ 0) = false := by
  refine List.any_eq_false.mpr fun j hj hboth => ?_
  obtain ⟨hbit, hbusy⟩ := Bool.and_eq_true_iff.mp hboth
  exact of_decide_eq_true hbusy (h j (List.mem_range.mp hj) hbit)

/-- A wait for idle groups gives those that hold a fault, once none does or it is quiet. -/
theorem waitGroups_gives (hidle : c.Idle remote n mask) (hq : quiet = true ∨ c.faulting remote n mask = 0) :
    c.waitGroups remote quiet false n code d mask s = c.putK s d (BitVec.ofNat 32 (c.faulting remote n mask)) := by
  have hquiet : (decide (c.faulting remote n mask ≠ 0) && !quiet) = false := by
    rcases hq with rfl | h0
    · rw [Bool.not_true, Bool.and_false]
    · rw [h0]; rfl
  unfold Ctx.faulting at *
  simp only [Ctx.waitGroups, none_inFlight hidle, hquiet, Bool.false_eq_true, if_false]

/-- Otherwise it traps with the lowest of them. -/
theorem waitGroups_traps {j : Nat} (hidle : c.Idle remote n mask) (hbit : (c.faulting remote n mask).testBit j = true)
    (hlow : ∀ l < j, (c.faulting remote n mask).testBit l = false) :
    c.waitGroups remote false false n code d mask s = c.trap code j s := by
  have hsome : c.faulting remote n mask ≠ 0 := fun h0 => by
    rw [h0, Nat.zero_testBit] at hbit
    cases hbit
  have hfind := find_lowest_bit (lt_of_testBit_groupMask hbit) hbit hlow
  unfold Ctx.faulting at *
  simp only [Ctx.waitGroups, none_inFlight hidle, hsome, hfind, decide_true, ne_eq, not_false_eq_true, Bool.not_false, Bool.and_self,
    Bool.false_eq_true, if_false, if_true, Option.getD_some]

end

/-! ### CPYW and RCPYW (R288, R346) -/

section
variable {s : State} {c : Ctx} {g : Guard} {q : Bool} {d : RegNum} {a : SrcI}

/-- CPYW of a mask in range is a wait for its groups. -/
theorem exec_cpyw (hn : normal (.cpyw g q d a) s = some c) (hr : (c.r.ksI a).toNat < 2 ^ 16) :
    exec (.cpyw g q d a) s = settle c (c.waitGroups false q false 16 0x19 d (c.r.ksI a).toNat (s.advance c)) :=
  (issue_normal hn _).trans (congrArg (settle c) (if_neg (Nat.not_lt.mpr (Nat.le_of_lt_succ hr))))

/-- The gang once a quiet RCPYW has cleared the records of the faulting groups that its mask names. -/
def Gang.clearFaults (mask : Nat) (x : Gang) : Gang :=
  (List.range 8).foldl (fun x i =>
    if mask.testBit i && (x.group true i).cause ≠ 0 then x.modGroup true i Group.clear else x) x

theorem exec_rcpyw_gives (hn : normal (.rcpyw g q false d a) s = some c) (hr : (c.r.ksI a).toNat < 2 ^ 8)
    (hidle : c.Idle true 8 (c.r.ksI a).toNat) (hq : q = true ∨ c.faulting true 8 (c.r.ksI a).toNat = 0) :
    let t := s.put c (c.past.setK d.toNat (BitVec.ofNat 32 (c.faulting true 8 (c.r.ksI a).toNat)))
    exec (.rcpyw g q false d a) s =
      .next (if q then t.modGang c.gid (Gang.clearFaults (c.r.ksI a).toNat) else t) := by
  refine (issue_normal hn _).trans ?_
  simp only [Nat.not_lt.mpr (Nat.le_of_lt_succ hr), Bool.false_eq_true, if_false, waitGroups_gives hidle hq, Ctx.putK, advance_mod]
  cases q <;> rfl

theorem exec_rcpyw_info (hn : normal (.rcpyw g q true d a) s = some c) (hr : (c.r.ksI a).toNat < 8) :
    exec (.rcpyw g q true d a) s =
      .next (s.put c (c.past.setK d.toNat (BitVec.ofNat 32 (c.G.group true (c.r.ksI a).toNat).rinfo))) := by
  refine (issue_normal hn _).trans ?_
  simp only [if_true, Nat.not_lt.mpr (Nat.le_of_lt_succ hr), if_false, Ctx.putK, advance_mod]
  rfl

theorem exec_cpyw_faulted {j : Nat} (hn : normal (.cpyw g false d a) s = some c) (hr : (c.r.ksI a).toNat < 2 ^ 16)
    (hm : c.mayTrap s) (hidle : c.Idle false 16 (c.r.ksI a).toNat) (hbit : (c.faulting false 16 (c.r.ksI a).toNat).testBit j = true)
    (hlow : ∀ l < j, (c.faulting false 16 (c.r.ksI a).toNat).testBit l = false) :
    exec (.cpyw g false d a) s = .next (c.atTrap s 0x19 j 0) := by
  refine issue_traps hn hm ?_
  simp only [Nat.not_lt.mpr (Nat.le_of_lt_succ hr), if_false, waitGroups_traps hidle hbit hlow]
  rfl

theorem exec_rcpyw_faulted {j : Nat} (hn : normal (.rcpyw g false false d a) s = some c) (hr : (c.r.ksI a).toNat < 2 ^ 8)
    (hm : c.mayTrap s) (hidle : c.Idle true 8 (c.r.ksI a).toNat) (hbit : (c.faulting true 8 (c.r.ksI a).toNat).testBit j = true)
    (hlow : ∀ l < j, (c.faulting true 8 (c.r.ksI a).toNat).testBit l = false) :
    exec (.rcpyw g false false d a) s = .next (c.atTrap s 0x1A j 0) := by
  refine issue_traps hn hm ?_
  simp only [Nat.not_lt.mpr (Nat.le_of_lt_succ hr), Bool.false_eq_true, if_false, waitGroups_traps hidle hbit hlow]
  rfl

/-! ### CPYQ (R289) -/

/-- The registers after a CPYQ of group `n`. -/
def Ctx.cpyqRegs (c : Ctx) (s : State) (op : CpyQ) (d : RegNum) (n : Nat) : Regs :=
  match op with
  | .busy => c.past.setK d.toNat (BitVec.ofNat 32 (groupMask 16 fun i => (c.G.group false i).inflight ≠ 0))
  | .flt => c.past.setK d.toNat (BitVec.ofNat 32 (groupMask 16 fun i => (c.G.group false i).cause ≠ 0))
  | .addr => c.past.setK2 d.toNat (c.G.group false n).addr
  | .info => c.past.setK d.toNat (BitVec.ofNat 32 (c.G.group false n).info)
  | .sbfree => c.past.setK d.toNat (BitVec.ofNat 32 (32 - s.boardUsed c.die c.G.core))

theorem exec_cpyq {op : CpyQ} (hn : normal (.cpyq g op d a) s = some c) (hr : (c.r.ksI a).toNat < 16) :
    exec (.cpyq g op d a) s = .next (s.put c (c.cpyqRegs s op d (c.r.ksI a).toNat)) := by
  refine (issue_normal hn _).trans ?_
  simp only [Nat.not_lt.mpr (Nat.le_of_lt_succ hr), if_false]
  cases op with
  | busy | flt | addr | info | sbfree => exact congrArg Host.Outcome.next (advance_mod s c _)

/-- Only the address query takes a pair. -/
theorem cpyqRegs_frame (c : Ctx) (s : State) (op : CpyQ) (d : RegNum) (n : Nat) :
    RegFrame (kDest (op = .addr) d) c.emask c.past (c.cpyqRegs s op d n) := by
  cases op with
  | addr => exact setK2_frame ..
  | busy | flt | info | sbfree => exact setK_frame ..

theorem exec_cpyqClr (hn : normal (.cpyqClr g d a) s = some c) (hr : (c.r.ksI a).toNat < 16) :
    exec (.cpyqClr g d a) s =
      .next (c.mod ((s.advance c).modGang c.gid fun x => x.modGroup false (c.r.ksI a).toNat Group.clear)
        fun x => x.setK d.toNat (BitVec.ofNat 32 (c.G.group false (c.r.ksI a).toNat).info)) :=
  (issue_normal hn _).trans (congrArg (settle c) (if_neg (Nat.not_lt.mpr (Nat.le_of_lt_succ hr))))

end

/-- Settles O23: CPYW and RCPYW are waits for the groups of their mask, CPYQ and `.info` read a record; each checks its operand
first. -/
theorem copyWaits : Obligations.CopyWaits := by
  intro s c g d a n idle bad
  refine ⟨fun q hn hr hidle hq => ?_, fun q hn hr hidle hq => exec_rcpyw_gives hn hr hidle hq, fun q hn hr => exec_rcpyw_info hn hr,
    fun op hn hr => ?_, exec_cpyqClr, fun hm => ⟨fun i lim hi hn hlim => ?_, ?_⟩⟩
  · rw [exec_cpyw hn hr, waitGroups_gives hidle hq, Ctx.putK, advance_mod]
    rfl
  · refine ⟨c.cpyqRegs s op d n, exec_cpyq hn hr, cpyqRegs_frame c s op d n, ?_⟩
    refine ⟨?_, ?_, ?_, ?_, ?_⟩ <;> (rintro rfl; rfl)
  · rcases hi with ⟨q, rfl, rfl⟩ | ⟨q, rfl, rfl⟩ | ⟨q, rfl, rfl⟩ | ⟨op, rfl, rfl⟩ | ⟨rfl, rfl⟩
    all_goals exact issue_traps hn hm (if_pos hlim)
  · rintro i remote k code (⟨rfl, rfl, rfl, rfl⟩ | ⟨rfl, rfl, rfl, rfl⟩) hn hr hidle j hbit hlow
    · exact exec_cpyw_faulted hn hr hm hidle hbit hlow
    · exact exec_rcpyw_faulted hn hr hm hidle hbit hlow

end Sys2Proof.Machine
end

section
/-!
SUPPORT. The issue of matrix instructions: O24.
-/
namespace Sys2Proof.Machine

/-! ### One entry of the queue (R302–R304) -/

/-- The state once a matrix instruction has its queue slot and its scoreboard entries (R303, R304). -/
def Ctx.matQueued (c : Ctx) (s : State) (p : MatPlan) (op : MatOp) : State :=
  { s with nextId := s.nextId + 1, mats := s.mats ++ [⟨s.nextId, c.gid, c.tid, c.T.matCore, op, p.board, false⟩] }

section
variable {c : Ctx} {p : MatPlan} {op : MatOp} {s : State}

theorem issueMat_fails {code cause : Nat} {addr : DWord} (hfail : p.fail c.C.scratchBytes c.C.lr.privsz = some (code, cause, addr)) :
    c.issueMat p op s = c.trapAt code cause addr s := by
  simp only [Ctx.issueMat, hfail]

theorem issueMat_queues (hpass : p.fail c.C.scratchBytes c.C.lr.privsz = none)
    (hqueue : (s.mats.filter fun m => m.core = c.T.matCore).length < 16) (hboard : s.boardRoom c.T p.board.length = true) :
    c.issueMat p op s = .done (c.matQueued s p op) := by
  simp only [Ctx.issueMat, hpass, Nat.not_le.mpr hqueue, hboard, Bool.not_true, Bool.false_eq_true, if_false]
  rfl

end

/-! ### The five words that the engine runs (R301, R305, R306) -/

/-- A word with a plan does what the plan's issue comes to. -/
theorem exec_of_matPlan {i : Instr} {s : State} {c : Ctx} {p : MatPlan} {op : MatOp} (hn : normal i s = some c)
    (hp : i.matPlan c = some (p, op)) : exec i s = settle c (c.issueMat p op (s.advance c)) := by
  cases i with
  | mma | mloop | acz | acld | acdr =>
    cases hp
    exact issue_normal hn _
  | _ => exact absurd hp nofun

/-! ### MWAIT (R308) -/

/-- MWAIT of a bound that the gang's instructions meet gives their number. -/
theorem exec_mwait_gives {s : State} {c : Ctx} {g : Guard} {d : RegNum} {n : SrcI} (hn : normal (.mwait g d n) s = some c)
    (hbound : (s.mats.filter fun m => m.gang = c.gid).length ≤ (c.r.ksI n).toNat) :
    exec (.mwait g d n) s =
      .next (s.put c (c.past.setK d.toNat (BitVec.ofNat 32 (s.mats.filter fun m => m.gang = c.gid).length))) :=
  calc exec (.mwait g d n) s
    _ = settle c (c.putK (s.advance c) d (BitVec.ofNat 32 (s.mats.filter fun m => m.gang = c.gid).length)) :=
      (issue_normal hn _).trans (congrArg (settle c) (if_neg (Nat.not_lt.mpr hbound)))
    _ = _ := congrArg Host.Outcome.next (advance_mod s c _)

/-- Settles O24: each of the five words is the issue of its plan, which traps at the first check that fails or joins the queue;
MWAIT counts the gang's entries there. -/
theorem matrixIssue : Obligations.MatrixIssue := by
  refine fun s c => ⟨fun i p op code cause addr hn hp hfail hm => ?_, fun i p op hn hp hpass hqueue hboard => ?_,
    fun g d n hn => exec_mwait_gives hn⟩
  · rw [exec_of_matPlan hn hp, issueMat_fails hfail, Ctx.trapAt, trapTo_atTrap hn hm]
    rfl
  · exact (exec_of_matPlan hn hp).trans (congrArg (settle c) (issueMat_queues (s := s.advance c) hpass hqueue hboard))

end Sys2Proof.Machine
end

section
/-!
SUPPORT. Barrier words: O25.
-/
namespace Sys2Proof.Machine

/-- An arrival whose release is done goes on from where the release left the state (R239). -/
theorem arriving_released {c : Ctx} {s s1 : State} (h : c.release s = (none, s1)) (f : State → Res) : c.arriving s f = f s1 := by
  simp only [Ctx.arriving, h]

/-! ### Arrivals at the team's barrier (R314) -/

section
variable {s s1 : State} {c : Ctx} {g : Guard} {d : RegNum}

theorem exec_bar_arrives (hn : normal (.bar g) s = some c) (hnew : c.T.tarr.contains c.G.idx = false)
    (hrel : c.release (s.advance c) = (none, s1)) :
    exec (.bar g) s = .next (c.arriveTeam (c.barWait none c.T.tphase s1)) := by
  refine (issue_normal hn _).trans ?_
  simp only [hnew, arriving_released hrel, Bool.false_eq_true, if_false]
  rfl

theorem exec_arv_arrives (hn : normal (.arv g d none) s = some c) (hnew : c.T.tarr.contains c.G.idx = false)
    (hrel : c.release (s.advance c) = (none, s1)) :
    exec (.arv g d none) s = .next (c.mod (c.arriveTeam s1) fun x => x.setK d.toNat (BitVec.ofNat 32 c.T.tphase)) := by
  refine (issue_normal hn _).trans ?_
  simp only [hnew, arriving_released hrel, Bool.false_eq_true, if_false]
  rfl

/-- A second arrival at the team's barrier traps (R313). -/
theorem exec_bar_again (hn : normal (.bar g) s = some c) (hm : c.mayTrap s) (hold : c.T.tarr.contains c.G.idx = true) :
    exec (.bar g) s = .next (c.atTrap s 0x1D 3 0) := issue_traps hn hm (if_pos hold)
theorem exec_arv_again (hn : normal (.arv g d none) s = some c) (hm : c.mayTrap s) (hold : c.T.tarr.contains c.G.idx = true) :
    exec (.arv g d none) s = .next (c.atTrap s 0x1D 3 0) := issue_traps hn hm (if_pos hold)

end

/-! ### Arrivals at a circle's barrier (R313–R316) -/

/-- An arrival at circle `n` that both checks of R313 let through does what follows its release. -/
theorem circle_arrival {c : Ctx} {n : Nat} {s s1 : State} (hin : c.circleBad n = false) (hnew : c.circArrived s n = false)
    (hrel : c.release s = (none, s1)) (f : State → Res) :
    (if c.circleBad n then c.trap 0x1D 2 s else if c.circArrived s n then c.trap 0x1D 3 s else c.arriving s f) = f s1 := by
  simp only [hin, hnew, arriving_released hrel, Bool.false_eq_true, if_false]

/-- A second arrival at a circle that the gang is in traps, whatever would follow (R313). -/
theorem circle_again {c : Ctx} {n : Nat} {s : State} (hin : c.circleBad n = false) (hold : c.circArrived s n = true) (r : Res) :
    (if c.circleBad n then c.trap 0x1D 2 s else if c.circArrived s n then c.trap 0x1D 3 s else r) = c.trap 0x1D 3 s := by
  simp only [hin, hold, Bool.false_eq_true, if_false, if_true]

section
variable {s s1 : State} {c : Ctx} {g : Guard} {d : RegNum} {tok : Src} {x : SrcI}

theorem exec_cbar_arrives (hn : normal (.cbar g x) s = some c) (hin : c.circleBad (c.r.ksI x).toNat = false)
    (hnew : c.circArrived (s.advance c) (c.r.ksI x).toNat = false) (hrel : c.release (s.advance c) = (none, s1)) :
    exec (.cbar g x) s = .next (c.arriveCircle (c.r.ksI x).toNat
      (c.barWait (some (c.r.ksI x).toNat) (c.circ (c.r.ksI x).toNat).phase s1)) :=
  (issue_normal hn _).trans (congrArg (settle c) (circle_arrival hin hnew hrel _))

theorem exec_arv_circle_arrives (hn : normal (.arv g d (some x)) s = some c) (hin : c.circleBad (c.r.ksI x).toNat = false)
    (hnew : c.circArrived (s.advance c) (c.r.ksI x).toNat = false) (hrel : c.release (s.advance c) = (none, s1)) :
    exec (.arv g d (some x)) s = .next (c.mod (c.arriveCircle (c.r.ksI x).toNat s1) fun y =>
      y.setK d.toNat (BitVec.ofNat 32 (c.circ (c.r.ksI x).toNat).phase)) :=
  (issue_normal hn _).trans (congrArg (settle c) (circle_arrival hin hnew hrel _))

theorem exec_cbar_again (hn : normal (.cbar g x) s = some c) (hm : c.mayTrap s) (hin : c.circleBad (c.r.ksI x).toNat = false)
    (hold : c.circArrived (s.advance c) (c.r.ksI x).toNat = true) : exec (.cbar g x) s = .next (c.atTrap s 0x1D 3 0) :=
  issue_traps hn hm (circle_again hin hold _)
theorem exec_arv_circle_again (hn : normal (.arv g d (some x)) s = some c) (hm : c.mayTrap s)
    (hin : c.circleBad (c.r.ksI x).toNat = false) (hold : c.circArrived (s.advance c) (c.r.ksI x).toNat = true) :
    exec (.arv g d (some x)) s = .next (c.atTrap s 0x1D 3 0) := issue_traps hn hm (circle_again hin hold _)

/-- A circle that the gang is not in traps before anything else of the three words (R313). -/
theorem exec_foreign_circle {i : Instr} (hi : i = .cbar g x ∨ (∃ d, i = .arv g d (some x)) ∨ ∃ tok, i = .awt g tok (some x))
    (hn : normal i s = some c) (hm : c.mayTrap s) (hout : c.circleBad (c.r.ksI x).toNat = true) :
    exec i s = .next (c.atTrap s 0x1D 2 0) := by
  rcases hi with rfl | ⟨d, rfl⟩ | ⟨tok, rfl⟩
  all_goals exact issue_traps hn hm (if_pos hout)

/-! ### The wait for a phase (R314, R315) -/

theorem exec_awt_passes (hn : normal (.awt g tok none) s = some c) (hover : c.T.tphase ≠ (c.r.ks tok).toNat) :
    exec (.awt g tok none) s = .next (c.acquire c.teamWide (s.advance c)) :=
  (issue_normal hn _).trans (congrArg (settle c) (if_pos hover))

theorem exec_awt_circle_passes (hn : normal (.awt g tok (some x)) s = some c) (hin : c.circleBad (c.r.ksI x).toNat = false)
    (hover : (c.circ (c.r.ksI x).toNat).phase ≠ (c.r.ks tok).toNat) :
    exec (.awt g tok (some x)) s = .next (c.acquire (c.circleWide (c.r.ksI x).toNat) (s.advance c)) := by
  refine (issue_normal hn _).trans ?_
  simp only [hin, hover, Bool.false_eq_true, if_false, ne_eq, not_false_eq_true, if_true]
  rfl

end

/-- Settles O25: each arrival is its checks of R313, its release and then the arrival; AWT looks at the phase alone. -/
theorem barrierWords : Obligations.BarrierWords := by
  refine fun s s1 c g => ⟨exec_bar_arrives, fun x => exec_cbar_arrives, fun d => exec_arv_arrives,
    fun d x => exec_arv_circle_arrives, fun tok => exec_awt_passes, fun tok x => exec_awt_circle_passes, ?_, ?_⟩
  · rintro i (rfl | ⟨d, rfl⟩) hn hold hm
    · exact exec_bar_again hn hm hold
    · exact exec_arv_again hn hm hold
  · intro i x n hi hn hm
    refine ⟨exec_foreign_circle hi hn hm, fun hin hold harrives => ?_⟩
    rcases hi with rfl | ⟨d, rfl⟩ | ⟨tok, rfl⟩
    · exact exec_cbar_again hn hm hin hold
    · exact exec_arv_circle_again hn hm hin hold
    · exact absurd rfl (harrives tok)

end Sys2Proof.Machine
end

section
/-!
SUPPORT. Stage rings and full/empty marks: O26.
-/
namespace Sys2Proof.Machine

/-! ### Stages (R317, R318) -/

section
variable {c : Ctx} {full : Bool} {w : Word} {r sl : Nat} {s s1 : State}

/-- A stage of a good selector toggles its phase bit once its release is done; SGET then tells the hand-off collectives (R339). -/
theorem stage_toggles (hsel : stageSel w = some (r, sl, false)) (hrel : c.release s = (none, s1)) :
    c.stage full w s = .done (if full then s1.modTeam c.tid fun t => t.toggle full r sl
      else (s1.modTeam c.tid fun t => t.toggle full r sl).kickColls c.tid) := by
  simp only [Ctx.stage, hsel, arriving_released hrel]

/-- A selector with a reserved bit or a phase names no stage to toggle (R313). -/
theorem stage_bad (hsel : ∀ r sl, stageSel w ≠ some (r, sl, false)) : c.stage full w s = c.trap 0x1D 1 s := by
  unfold Ctx.stage
  split
  next r sl hgood => exact absurd hgood (hsel r sl)
  next => rfl

end

section
variable {s s1 : State} {c : Ctx} {g : Guard} {sel : SrcI} {free ph : Bool} {r sl : Nat}

theorem exec_sput (hn : normal (.sput g sel) s = some c) (hsel : stageSel (c.r.ksI sel) = some (r, sl, false))
    (hrel : c.release (s.advance c) = (none, s1)) :
    exec (.sput g sel) s = .next (s1.modTeam c.tid fun t => t.toggle true r sl) :=
  (issue_normal hn _).trans (congrArg (settle c) (stage_toggles hsel hrel))
theorem exec_sget (hn : normal (.sget g sel) s = some c) (hsel : stageSel (c.r.ksI sel) = some (r, sl, false))
    (hrel : c.release (s.advance c) = (none, s1)) :
    exec (.sget g sel) s = .next ((s1.modTeam c.tid fun t => t.toggle false r sl).kickColls c.tid) :=
  (issue_normal hn _).trans (congrArg (settle c) (stage_toggles hsel hrel))

theorem exec_stage_bad {i : Instr} (hi : i = .sput g sel ∨ i = .sget g sel) (hn : normal i s = some c) (hm : c.mayTrap s)
    (hsel : ∀ r sl, stageSel (c.r.ksI sel) ≠ some (r, sl, false)) : exec i s = .next (c.atTrap s 0x1D 1 0) := by
  rcases hi with rfl | rfl
  all_goals exact issue_traps hn hm (stage_bad hsel)

theorem exec_swait_goes (hn : normal (.swait g free sel) s = some c) (hsel : stageSel (c.r.ksI sel) = some (r, sl, ph))
    (hph : c.T.phaseBit (!free) r sl = ph) :
    exec (.swait g free sel) s = .next (c.acquire c.teamWide (s.advance c)) := by
  refine (issue_normal hn _).trans ?_
  simp only [hsel, hph, if_true]
  rfl
theorem exec_swait_bad (hn : normal (.swait g free sel) s = some c) (hm : c.mayTrap s) (hsel : stageSel (c.r.ksI sel) = none) :
    exec (.swait g free sel) s = .next (c.atTrap s 0x1D 1 0) := by
  refine issue_traps hn hm ?_
  simp only [hsel]
  rfl

end

/-! ### Marks (R319) -/

/-- The state once the full bits `rs` of the team's gang `n` are set or cleared: a gang that is marked full from outside wakes, and
stores held for a register that is now empty are applied. -/
def Ctx.marked (c : Ctx) (rs : List RegRef) (n : Nat) (full : Bool) (s : State) : State :=
  let t := s.modRegs (gangKey c.tid n) fun x => x.markAll rs full
  if full then (if gangKey c.tid n = c.gid then t else t.wake (gangKey c.tid n)) else t.applyInbox c.tid 64

section
variable {c : Ctx} {k full : Bool} {first : RegNum} {cnt1 : BitVec 6} {x : Src} {s : State}

theorem mark_own : c.mark k first cnt1 none full s =
    .done (c.marked (windowRefs k first (cnt1.toNat + 1)) c.G.idx full s) := rfl

theorem mark_other (hgang : (c.r.ks x).toNat < c.C.lr.gangs)
    (hbud : ∀ r ∈ windowRefs k first (cnt1.toNat + 1), inBudget c.C.lr.vbud c.C.lr.kbud r = true) :
    c.mark k first cnt1 (some x) full s =
      .done (c.marked (windowRefs k first (cnt1.toNat + 1)) (c.r.ks x).toNat full s) := by
  simp only [Ctx.mark, Nat.not_le.mpr hgang, List.all_eq_true.mpr hbud, Bool.not_true, Bool.false_eq_true, if_false]
  rfl

/-- A gang number beyond the team's gangs is a bad operand (R313). -/
theorem mark_badGang (hgang : c.C.lr.gangs ≤ (c.r.ks x).toNat) : c.mark k first cnt1 (some x) full s = c.trap 0x1D 4 s :=
  if_pos hgang

/-- A gang that marks its own registers full changes nothing else. -/
theorem marked_own_full (rs : List RegRef) (hown : gangKey c.tid c.G.idx = c.gid) :
    c.marked rs c.G.idx true (s.advance c) = s.put c (c.past.markAll rs true) := by
  simp only [Ctx.marked, hown, if_true]
  exact advance_mod s c _

end

section
variable {s t : State} {c : Ctx} {g : Guard} {k : Bool} {first : RegNum} {cnt1 : BitVec 6} {gang : Option Src}

theorem exec_marke (hn : normal (.marke g k first cnt1 gang) s = some c)
    (hmark : c.mark k first cnt1 gang false (s.advance c) = .done t) : exec (.marke g k first cnt1 gang) s = .next t :=
  (issue_normal hn _).trans (congrArg (settle c) hmark)
theorem exec_markf (hn : normal (.markf g k first cnt1 gang) s = some c)
    (hmark : c.mark k first cnt1 gang true (s.advance c) = .done t) : exec (.markf g k first cnt1 gang) s = .next t :=
  (issue_normal hn _).trans (congrArg (settle c) hmark)

theorem exec_mark_badGang {i : Instr} {x : Src} (hi : i = .marke g k first cnt1 (some x) ∨ i = .markf g k first cnt1 (some x))
    (hn : normal i s = some c) (hm : c.mayTrap s) (hgang : c.C.lr.gangs ≤ (c.r.ks x).toNat) :
    exec i s = .next (c.atTrap s 0x1D 4 0) := by
  rcases hi with rfl | rfl
  all_goals exact issue_traps hn hm (mark_badGang hgang)

end

/-! ### Reading full bits (R320) -/

/-- The number that FEQ forms of a window has the full bit of register `j` at bit `j`. -/
theorem windowFull_eq_groupMask (x : Regs) (k : Bool) (first : RegNum) (n : Nat) :
    (windowRefs k first n).zipIdx.foldl (fun a p => if x.isFull p.1 then a + 2 ^ p.2 else a) 0 =
      groupMask n fun j => x.isFull (if k then .k (first.toNat + j) else .v (first.toNat + j)) := by
  have hzip : (windowRefs k first n).zipIdx = (List.range n).map fun j =>
      ((if k then .k (first.toNat + j) else .v (first.toNat + j) : RegRef), j) := by
    refine List.ext_getElem (by simp [windowRefs]) fun j _ _ => ?_
    simp [windowRefs]
  rw [hzip, List.foldl_map]
  rfl

theorem getLsbD_groupMask (n : Nat) (p : Nat → Bool) {j : Nat} (hj : j < 32) :
    (BitVec.ofNat 32 (groupMask n p)).getLsbD j = (decide (j < n) && p j) := by
  rw [BitVec.getLsbD_ofNat, decide_eq_true hj, Bool.true_and]
  exact (sumBits_spec p n).2 j

theorem exec_feq {s : State} {c : Ctx} {g : Guard} {k : Bool} {d first : RegNum} {cnt1 : BitVec 5}
    (hn : normal (.feq g k d first cnt1) s = some c) :
    exec (.feq g k d first cnt1) s = .next (s.put c (c.past.setK d.toNat (BitVec.ofNat 32 (groupMask (cnt1.toNat + 1) fun j =>
      c.r.isFull (if k then .k (first.toNat + j) else .v (first.toNat + j)))))) := by
  refine (issue_normal hn _).trans ?_
  rw [windowFull_eq_groupMask, Ctx.putK, advance_mod]
  rfl

/-- Settles O26: the stage words go by their selector, and MARKE and MARKF set the bits of the gang that they name. -/
theorem stagesAndMarks : Obligations.StagesAndMarks := by
  intro s s1 c g
  refine ⟨fun sel r sl hsel hrel => ⟨fun hn => exec_sput hn hsel hrel, fun hn => exec_sget hn hsel hrel⟩,
    fun free sel r sl ph => exec_swait_goes, ?_, ?_, fun i k first cnt1 x => exec_mark_badGang, fun k d first cnt1 hn => ?_⟩
  · intro k first cnt1 rs
    refine ⟨fun hn => exec_marke hn mark_own, fun hn hown => ?_, ?_⟩
    · exact (exec_markf hn mark_own).trans (congrArg Host.Outcome.next (marked_own_full rs hown))
    · intro x n hgang hbud
      exact ⟨fun hn => exec_marke hn (mark_other hgang hbud), fun hn => exec_markf hn (mark_other hgang hbud)⟩
  · rintro i sel (⟨hi, hsel⟩ | ⟨⟨free, rfl⟩, hsel⟩) hn hm
    · exact exec_stage_bad hi hn hm hsel
    · exact exec_swait_bad hn hm hsel
  · refine ⟨_, exec_feq hn, fun j hj => ?_⟩
    rw [getLsbD_groupMask _ _ hj, show decide (j < cnt1.toNat + 1) = decide (j ≤ cnt1.toNat) from decide_eq_decide.mpr Nat.lt_succ_iff]

end Sys2Proof.Machine
end

section
/-!
SUPPORT. Remote stores: O27.
-/
namespace Sys2Proof.Machine

/-! ### The checks of a remote store (R313, R322) -/

/-- A channel selector with no reserved bit set (R313). -/
def selOk (w : Word) : Prop := w.toNat / 2 ^ 16 = 0 ∧ w.toNat / 64 % 4 = 0
/-- The entry that a selector names serves a store of a kind: it is valid, it permits the kind, the store's registers lie within
its count, and no earlier store was refused for its tenant or its window (R322). -/
def Ctx.entryServes (c : Ctx) (permit : Nat) (wide : Bool) (w : Word) : Prop :=
  chValid (c.T.chan (w.toNat % 64)) = true ∧ (c.T.chan (w.toNat % 64)).getLsbD (64 + permit) = true ∧
    (if wide then w.toNat / 256 + 1 else w.toNat / 256) < chCount (c.T.chan (w.toNat % 64)) ∧
    (c.T.mark (w.toNat % 64)).xten = false ∧ (c.T.mark (w.toNat % 64)).badwin = false

section
variable {c : Ctx} {drop wide : Bool} {permit : Nat} {w : Word} {s : State} {f : Nat → Nat → State → Res}

theorem selOk_iff : selOk w ↔ (decide (w.toNat / 2 ^ 16 ≠ 0) || decide (w.toNat / 64 % 4 ≠ 0)) = false := by
  simp only [selOk, Bool.or_eq_false_iff, decide_eq_false_iff_not, ne_eq, Decidable.not_not]

/-- Of a wide store the second register's place lies within the count only if the first's does. -/
theorem last_lt_iff {i n : Nat} : (if wide then i + 1 else i) < n ↔ ¬ n ≤ i ∧ (wide = true → ¬ n ≤ i + 1) := by
  cases wide with
  | false => simp
  | true =>
    simp only [if_true, true_imp_iff]
    omega

/-- What the entry's check asks, as the model computes it. -/
theorem entryServes_iff : c.entryServes permit wide w ↔
    (!chValid (c.T.chan (w.toNat % 64)) || !(c.T.chan (w.toNat % 64)).getLsbD (64 + permit) ||
      decide (chCount (c.T.chan (w.toNat % 64)) ≤ w.toNat / 256) ||
      (wide && decide (chCount (c.T.chan (w.toNat % 64)) ≤ w.toNat / 256 + 1)) || (c.T.mark (w.toNat % 64)).xten ||
      (c.T.mark (w.toNat % 64)).badwin) = false := by
  simp only [Ctx.entryServes, last_lt_iff, Bool.or_eq_false_iff, Bool.and_eq_false_imp, Bool.not_eq_false', decide_eq_false_iff_not,
    and_assoc]

/-- The two checks, taken out of one conjunction. -/
theorem served_and_iff {R : Prop} : (w.toNat / 2 ^ 16 = 0 ∧ w.toNat / 64 % 4 = 0 ∧ chValid (c.T.chan (w.toNat % 64)) = true ∧
    (c.T.chan (w.toNat % 64)).getLsbD (64 + permit) = true ∧
    (if wide then w.toNat / 256 + 1 else w.toNat / 256) < chCount (c.T.chan (w.toNat % 64)) ∧
    (c.T.mark (w.toNat % 64)).xten = false ∧ (c.T.mark (w.toNat % 64)).badwin = false ∧ R) ↔
      selOk w ∧ c.entryServes permit wide w ∧ R := by
  simp only [selOk, Ctx.entryServes, and_assoc]

theorem remote_badSelector (hsel : ¬ selOk w) : c.remote drop permit wide w s f = c.trap 0x1D 1 s := by
  rw [selOk_iff, Bool.not_eq_false] at hsel
  exact if_pos hsel

theorem remote_unserved (hsel : selOk w) (hserve : ¬ c.entryServes permit wide w) :
    c.remote drop permit wide w s f = c.trap 0x1E (w.toNat % 64) s := by
  rw [selOk_iff] at hsel
  rw [entryServes_iff, Bool.not_eq_false] at hserve
  simp only [Ctx.remote, hsel, hserve, Bool.false_eq_true, if_false, if_true]

/-- A store that passes both checks goes by whether its endpoint is dead. -/
theorem remote_served (hsel : selOk w) (hserve : c.entryServes permit wide w) :
    c.remote drop permit wide w s f =
      if (c.T.mark (w.toNat % 64)).dead then (if drop then .done s else c.trap 0x1F (w.toNat % 64) s)
      else f (w.toNat % 64) (w.toNat / 256) s := by
  rw [selOk_iff] at hsel
  rw [entryServes_iff] at hserve
  simp only [Ctx.remote, hsel, hserve, Bool.false_eq_true, if_false]

end

/-! ### What a store that may be sent does (R322) -/

/-- Under `.rel` the gang's earlier writes are done and its core has published, which leaves `t`; otherwise nothing happens first. -/
def Ctx.flushes (c : Ctx) (rel : Bool) (s t : State) : Prop :=
  (rel = false ∧ t = s) ∨ (rel = true ∧ s.storesOut c.gid = false ∧ s.publishCore c.core = (true, t))

theorem sendStore_sends {c : Ctx} {rel : Bool} {n idx : Nat} {data : RData} {s t : State}
    (hallow : Store.get 0 c.G.out n < chAllow (c.T.chan n)) (hflush : c.flushes rel s t) :
    c.sendStore rel n idx data s = .done (c.postStore rel n idx data t) := by
  rcases hflush with ⟨rfl, rfl⟩ | ⟨rfl, hout, hpub⟩
  · simp only [Ctx.sendStore, Nat.not_le.mpr hallow, Bool.false_and, Bool.false_eq_true, if_false, Bool.not_true]
  · simp only [Ctx.sendStore, Nat.not_le.mpr hallow, hout, hpub, Bool.and_false, Bool.false_eq_true, if_false, if_true, Bool.not_true]

/-- The scratchpad offset that RSTV reads from. -/
def Ctx.vecOffset (c : Ctx) (off : Src) (ext : Option (Word × Bool)) : Nat :=
  let imm : Word := match ext with | some x => x.1 | none => 0
  ((c.r.ks off).setWidth 64 + imm.signExtend 64 : DWord).toNat
/-- Whether an RSTV is a release. -/
def vecRel (ext : Option (Word × Bool)) : Bool := (ext.map (·.2)).getD false
/-- What RSTV does once its entry is found to serve: it checks its offset and sends the 128 bytes there. -/
def Ctx.sendVec (c : Ctx) (o : Nat) (rel : Bool) (n idx : Nat) (s : State) : Res :=
  if 2 ^ 32 ≤ o then c.trapAt 0x10 1 (scrPtr o) s
  else if c.C.scratchBytes < o + 128 then c.trapAt 0x10 3 (scrPtr o) s
  else if o % 16 ≠ 0 then c.trapAt 0x11 0 (scrPtr o) s
  else if s.boarded c.tid o (o + 128) then .wait .board s
  else c.sendStore rel n idx (.vec (BitVec.ofNat 1024 (ofBytes (readBytes c.T.scratch o 128)))) s

section
variable {c : Ctx} {o : Nat} {rel : Bool} {n idx : Nat} {s : State}

theorem sendVec_badPointer (ho : 2 ^ 32 ≤ o) : c.sendVec o rel n idx s = c.trapAt 0x10 1 (scrPtr o) s := if_pos ho
theorem sendVec_outOfRange (ho : o < 2 ^ 32) (hlen : c.C.scratchBytes < o + 128) :
    c.sendVec o rel n idx s = c.trapAt 0x10 3 (scrPtr o) s := by
  simp only [Ctx.sendVec, Nat.not_le.mpr ho, hlen, if_false, if_true]
theorem sendVec_misaligned (ho : o < 2 ^ 32) (hlen : o + 128 ≤ c.C.scratchBytes) (halign : o % 16 ≠ 0) :
    c.sendVec o rel n idx s = c.trapAt 0x11 0 (scrPtr o) s := by
  simp only [Ctx.sendVec, Nat.not_le.mpr ho, Nat.not_lt.mpr hlen, halign, if_false, ne_eq, not_false_eq_true, if_true]
theorem sendVec_sends (ho : o < 2 ^ 32) (hlen : o + 128 ≤ c.C.scratchBytes) (halign : o % 16 = 0)
    (hboard : s.boarded c.tid o (o + 128) = false) : c.sendVec o rel n idx s =
      c.sendStore rel n idx (.vec (BitVec.ofNat 1024 (ofBytes (readBytes c.T.scratch o 128)))) s := by
  simp only [Ctx.sendVec, Nat.not_le.mpr ho, Nat.not_lt.mpr hlen, halign, hboard, if_false, ne_eq, not_true_eq_false,
    Bool.false_eq_true]

end

/-! ### The three words -/

section
variable {s : State} {c : Ctx} {g : Guard} {drop : Bool} {sel : Src}

/-- Each word is the checks of its kind, then its own part. -/
theorem exec_rstv {off : Src} {ext : Option (Word × Bool)} (hn : normal (.rstv g drop sel off ext) s = some c) :
    exec (.rstv g drop sel off ext) s =
      settle c (c.remote drop 0 false (c.r.ks sel) (s.advance c) (c.sendVec (c.vecOffset off ext) (vecRel ext))) :=
  issue_normal hn _
theorem exec_rstk {b64 : Bool} {data : Src} {ext : Option Bool} (hn : normal (.rstk g drop b64 sel data ext) s = some c) :
    exec (.rstk g drop b64 sel data ext) s = settle c (c.remote drop 1 b64 (c.r.ks sel) (s.advance c) fun n idx =>
      c.sendStore (ext.getD false) n idx (if b64 then .k64 (c.r.ks2 data) else .k32 (c.r.ks data))) := issue_normal hn _
theorem exec_rsig {k : Bool} {ext : Option Bool} (hn : normal (.rsig g drop k sel ext) s = some c) :
    exec (.rsig g drop k sel ext) s = settle c (c.remote drop 2 false (c.r.ks sel) (s.advance c) fun n idx =>
      c.sendStore (ext.getD false) n idx (.sig k)) := issue_normal hn _

/-- Instruction `i` is a remote store through `sel` of the kind that a permission bit and its width name. -/
def RemoteStore (g : Guard) (drop : Bool) (sel : Src) (permit : Nat) (wide : Bool) (i : Instr) : Prop :=
  (∃ off ext, i = .rstv g drop sel off ext ∧ permit = 0 ∧ wide = false) ∨
    (∃ b64 data ext, i = .rstk g drop b64 sel data ext ∧ permit = 1 ∧ wide = b64) ∨
    ∃ k ext, i = .rsig g drop k sel ext ∧ permit = 2 ∧ wide = false

variable {permit : Nat} {wide : Bool} {i : Instr}

theorem exec_remoteStore (hi : RemoteStore g drop sel permit wide i) (hn : normal i s = some c) :
    ∃ f, exec i s = settle c (c.remote drop permit wide (c.r.ks sel) (s.advance c) f) := by
  rcases hi with ⟨off, ext, rfl, rfl, rfl⟩ | ⟨b64, data, ext, rfl, rfl, rfl⟩ | ⟨k, ext, rfl, rfl, rfl⟩
  · exact ⟨_, exec_rstv hn⟩
  · exact ⟨_, exec_rstk hn⟩
  · exact ⟨_, exec_rsig hn⟩

/-- A word whose effect comes to a trap of its own, where the slot can take it. -/
theorem settle_traps (hn : normal i s = some c) (hm : c.mayTrap s) {r : Res} {code cause : Nat} {addr : DWord}
    (hr : r = c.trapAt code cause addr (s.advance c)) : settle c r = .next (c.atTrap s code cause addr) := by
  rw [hr, Ctx.trapAt, trapTo_atTrap hn hm]
  rfl

theorem exec_remoteStore_badSelector (hi : RemoteStore g drop sel permit wide i) (hn : normal i s = some c) (hm : c.mayTrap s)
    (hsel : ¬ selOk (c.r.ks sel)) : exec i s = .next (c.atTrap s 0x1D 1 0) := by
  obtain ⟨f, hexec⟩ := exec_remoteStore hi hn
  exact hexec.trans (settle_traps hn hm (remote_badSelector hsel))
theorem exec_remoteStore_unserved (hi : RemoteStore g drop sel permit wide i) (hn : normal i s = some c) (hm : c.mayTrap s)
    (hsel : selOk (c.r.ks sel)) (hserve : ¬ c.entryServes permit wide (c.r.ks sel)) :
    exec i s = .next (c.atTrap s 0x1E ((c.r.ks sel).toNat % 64) 0) := by
  obtain ⟨f, hexec⟩ := exec_remoteStore hi hn
  exact hexec.trans (settle_traps hn hm (remote_unserved hsel hserve))
theorem exec_remoteStore_dead (hi : RemoteStore g drop sel permit wide i) (hn : normal i s = some c) (hm : c.mayTrap s)
    (hsel : selOk (c.r.ks sel)) (hserve : c.entryServes permit wide (c.r.ks sel))
    (hdead : (c.T.mark ((c.r.ks sel).toNat % 64)).dead = true) (hdrop : drop = false) :
    exec i s = .next (c.atTrap s 0x1F ((c.r.ks sel).toNat % 64) 0) := by
  obtain ⟨f, hexec⟩ := exec_remoteStore hi hn
  refine hexec.trans (settle_traps hn hm ?_)
  rw [remote_served hsel hserve, if_pos hdead, if_neg (Bool.eq_false_iff.mp hdrop)]
  rfl
/-- Under `.drop` a store to a dead endpoint only moves the PC. -/
theorem exec_remoteStore_dropped (hi : RemoteStore g drop sel permit wide i) (hn : normal i s = some c)
    (hsel : selOk (c.r.ks sel)) (hserve : c.entryServes permit wide (c.r.ks sel))
    (hdead : (c.T.mark ((c.r.ks sel).toNat % 64)).dead = true) (hdrop : drop = true) : exec i s = .next (s.put c c.past) := by
  obtain ⟨f, hexec⟩ := exec_remoteStore hi hn
  rw [hexec, remote_served hsel hserve, if_pos hdead, if_pos hdrop, advance_self]
  rfl

end

/-- A store to a live endpoint goes on to its own part. -/
theorem exec_of_live {i : Instr} {s : State} {c : Ctx} {drop wide : Bool} {permit : Nat} {w : Word} {f : Nat → Nat → State → Res}
    (hexec : exec i s = settle c (c.remote drop permit wide w (s.advance c) f)) (hsel : selOk w)
    (hserve : c.entryServes permit wide w) (hlive : (c.T.mark (w.toNat % 64)).dead = false) :
    exec i s = settle c (f (w.toNat % 64) (w.toNat / 256) (s.advance c)) := by
  rw [hexec, remote_served hsel hserve, if_neg (Bool.eq_false_iff.mp hlive)]

/-- Settles O27: each word is the checks of its selector, entry and endpoint in that order; what passes them all is sent, RSTV after
the checks of its offset. -/
theorem remoteStores : Obligations.RemoteStores := by
  intro s s1 c g drop sel w n idx e m opens dead after
  refine ⟨?_, ?_, ?_, ?_, ?_, ?_⟩
  · intro i hi hn
    rcases hi with ⟨off, ext, hi, hdead⟩ | ⟨b64, data, ext, hi, hdead⟩ | ⟨k, ext, hi, hdead⟩
    all_goals obtain ⟨hsel, hserve, hdead, hdrop⟩ := served_and_iff.mp hdead
    · exact exec_remoteStore_dropped (.inl ⟨off, ext, hi, rfl, rfl⟩) hn hsel hserve hdead hdrop
    · exact exec_remoteStore_dropped (.inr (.inl ⟨b64, data, ext, hi, rfl, rfl⟩)) hn hsel hserve hdead hdrop
    · exact exec_remoteStore_dropped (.inr (.inr ⟨k, ext, hi, rfl, rfl⟩)) hn hsel hserve hdead hdrop
  · intro off ext hn imm o rel hopen ho hlen halign hboard hafter
    obtain ⟨hsel, hserve, hlive, hallow⟩ := served_and_iff.mp hopen
    exact (exec_of_live (exec_rstv hn) hsel hserve hlive).trans
      (congrArg (settle c) ((sendVec_sends (s := s.advance c) ho hlen halign hboard).trans (sendStore_sends hallow hafter)))
  · intro b64 data ext hn hopen hafter
    obtain ⟨hsel, hserve, hlive, hallow⟩ := served_and_iff.mp hopen
    exact (exec_of_live (exec_rstk hn) hsel hserve hlive).trans (congrArg (settle c) (sendStore_sends hallow hafter))
  · intro k ext hn hopen hafter
    obtain ⟨hsel, hserve, hlive, hallow⟩ := served_and_iff.mp hopen
    exact (exec_of_live (exec_rsig hn) hsel hserve hlive).trans (congrArg (settle c) (sendStore_sends hallow hafter))
  · intro i permit wide hi hn hm
    exact ⟨exec_remoteStore_badSelector hi hn hm, exec_remoteStore_unserved hi hn hm, exec_remoteStore_dead hi hn hm⟩
  · intro off ext hn hm imm o serves hserves
    obtain ⟨hsel, hserve, hlive⟩ := (served_and_iff (c := c) (permit := 0) (wide := false) (w := w)).mp hserves
    have hexec := exec_of_live (exec_rstv hn) hsel hserve hlive
    exact ⟨fun ho => hexec.trans (settle_traps hn hm (sendVec_badPointer ho)),
      fun ho hlen => hexec.trans (settle_traps hn hm (sendVec_outOfRange ho hlen)),
      fun ho hlen halign => hexec.trans (settle_traps hn hm (sendVec_misaligned ho hlen halign))⟩

end Sys2Proof.Machine
end

section
/-!
SUPPORT. Channel words and hallmark queries: O28.
-/
namespace Sys2Proof.Machine

/-! ### CHQ (R325) -/

section
variable {s : State} {c : Ctx} {g : Guard} {d : RegNum} {ch : SrcI}

/-- A number of an entry is in range, and CHQ goes on with it. -/
theorem chq_entry (hlt : (c.r.ksI ch).toNat < 64) (f : Nat → Res) : c.chq ch s f = f (c.r.ksI ch).toNat :=
  if_neg (Nat.not_lt.mpr (Nat.le_of_lt_succ hlt))
/-- A number that names no entry is a bad operand (R313). -/
theorem chq_noEntry (hge : 64 ≤ (c.r.ksI ch).toNat) (f : Nat → Res) : c.chq ch s f = c.trap 0x1D 1 s := if_pos hge

theorem exec_chq_status (hn : normal (.chq g false d ch) s = some c) (hlt : (c.r.ksI ch).toNat < 64) :
    exec (.chq g false d ch) s = .next (s.put c (c.past.setK d.toNat (c.T.chStatus c.G (c.r.ksI ch).toNat))) := by
  rw [← advance_mod s c fun y => y.setK d.toNat (c.T.chStatus c.G (c.r.ksI ch).toNat)]
  exact (issue_normal hn _).trans (congrArg (settle c) (chq_entry hlt _))
theorem exec_chq_entry (hn : normal (.chq g true d ch) s = some c) (hlt : (c.r.ksI ch).toNat < 64) :
    exec (.chq g true d ch) s = .next (s.put c ((List.range 4).foldl
      (fun x i => x.setK (d.toNat + i) ((c.T.chan (c.r.ksI ch).toNat).extractLsb' (32 * i) 32)) c.past)) := by
  rw [← advance_mod s c fun y => (List.range 4).foldl
    (fun x i => x.setK (d.toNat + i) ((c.T.chan (c.r.ksI ch).toNat).extractLsb' (32 * i) 32)) y]
  exact (issue_normal hn _).trans (congrArg (settle c) (chq_entry hlt _))
theorem exec_chqClr (hn : normal (.chqClr g d ch) s = some c) (hlt : (c.r.ksI ch).toNat < 64) :
    exec (.chqClr g d ch) s = .next (c.mod ((s.advance c).modTeam c.tid fun t =>
      { t with marks := Store.upd {} t.marks (c.r.ksI ch).toNat fun m => { epoch := m.epoch } })
        fun x => x.setK d.toNat (c.T.chStatus c.G (c.r.ksI ch).toNat)) :=
  (issue_normal hn _).trans (congrArg (settle c) (chq_entry hlt _))

theorem exec_chq_noEntry {i : Instr} (hi : (∃ ent, i = .chq g ent d ch) ∨ i = .chqClr g d ch) (hn : normal i s = some c)
    (hge : 64 ≤ (c.r.ksI ch).toNat) (hm : c.mayTrap s) : exec i s = .next (c.atTrap s 0x1D 1 0) := by
  rcases hi with ⟨ent, rfl⟩ | rfl
  all_goals exact issue_traps hn hm (chq_noEntry hge _)

end

/-! ### CHGIVE (R326) -/

/-- A CHGIVE may not name this window: no allowance, no registers, no permission, a gang that is not there, or registers beyond
the budget of a kind that it permits. -/
def Ctx.badGrant (c : Ctx) (perm : BitVec 3) (w : Word) : Prop :=
  w.toNat / 2 ^ 24 = 0 ∨ w.toNat / 2 ^ 16 % 256 = 0 ∨ perm = 0 ∨ c.C.ngangs ≤ w.toNat % 256 ∨
    ((perm.getLsbD 0 ∨ perm.getLsbD 2) ∧ 8 * c.C.lr.vbud < w.toNat / 256 % 256 + w.toNat / 2 ^ 16 % 256) ∨
    ((perm.getLsbD 1 ∨ perm.getLsbD 2) ∧ 8 * c.C.lr.kbud < w.toNat / 256 % 256 + w.toNat / 2 ^ 16 % 256)

theorem badGrant_iff {c : Ctx} {perm : BitVec 3} {w : Word} : c.badGrant perm w ↔
    (decide (w.toNat / 2 ^ 24 = 0) || decide (w.toNat / 2 ^ 16 % 256 = 0) || decide (perm = 0) ||
      decide (c.C.ngangs ≤ w.toNat % 256) ||
      ((perm.getLsbD 0 || perm.getLsbD 2) && decide (8 * c.C.lr.vbud < w.toNat / 256 % 256 + w.toNat / 2 ^ 16 % 256)) ||
      ((perm.getLsbD 1 || perm.getLsbD 2) && decide (8 * c.C.lr.kbud < w.toNat / 256 % 256 + w.toNat / 2 ^ 16 % 256))) = true := by
  simp only [Ctx.badGrant, Bool.or_eq_true, Bool.and_eq_true, decide_eq_true_eq, or_assoc]

section
variable {s : State} {c : Ctx} {g : Guard} {d : RegNum} {entry : BitVec 6} {perm : BitVec 3} {hall desc : Src}

/-- A CHGIVE or its revocation as a message: what follows the hallmark of the team that it goes to. -/
def Ctx.chanMsg (c : Ctx) (d : RegNum) (hall : Src) (entry : BitVec 6) (image : BitVec 128) (revoke : Bool) : ChanMsg :=
  { sender := c.gid, group := c.T.group, dst := d, tenant := c.tenant, hall := c.r.ks hall, giver := c.T.hall,
    entry := entry.toNat, image := image, revoke := revoke, force := false }

theorem exec_chgive_sends (hn : normal (.chgive g entry perm d hall desc) s = some c) (hgood : ¬ c.badGrant perm (c.r.ks desc)) :
    exec (.chgive g entry perm d hall desc) s = .next (c.askFor d ((c.endRegion (s.advance c)).send (.chgiveArrival
      (c.chanMsg d hall entry
        (BitVec.ofNat 128 (c.T.hall.toNat + 2 ^ 32 * (c.r.ks desc).toNat + 2 ^ 64 * perm.toNat + 2 ^ 67)) false)))) := by
  rw [badGrant_iff] at hgood
  exact (issue_normal hn _).trans (congrArg (settle c) (if_neg hgood))
/-- A bad descriptor is answered at once. -/
theorem exec_chgive_bad (hn : normal (.chgive g entry perm d hall desc) s = some c) (hbad : c.badGrant perm (c.r.ks desc)) :
    exec (.chgive g entry perm d hall desc) s = .next (c.mod (c.endRegion (s.advance c)) fun x => x.setK d.toNat 4) := by
  rw [badGrant_iff] at hbad
  exact (issue_normal hn _).trans (congrArg (settle c) (if_pos hbad))
theorem exec_chgiveRev (hn : normal (.chgiveRev g entry d hall) s = some c) :
    exec (.chgiveRev g entry d hall) s = .next (c.askFor d ((c.endRegion (s.advance c)).send (.chgiveArrival
      (c.chanMsg d hall entry 0 true)))) := issue_normal hn _

end

/-! ### HMQ (R327) -/

section
variable {s : State} {c : Ctx} {g : Guard} {d : RegNum} {a : SrcI}

/-- The hallmark of a team that may have been found: 0 for one that is not live. -/
def hallOfLive (p : Option (Nat × Team)) : Word :=
  match p with
  | some p => if p.2.live then p.2.hall else 0
  | none => 0
/-- Whether a team that may have been found is live and of the tenant. -/
def State.liveOf (s : State) (tenant : Nat) (p : Option (Nat × Team)) : Word :=
  match p with
  | some p => if p.2.live && s.ofTenant p.2 tenant then 1 else 0
  | none => 0

theorem exec_hmqTeam (hn : normal (.hmqTeam g d a) s = some c) : exec (.hmqTeam g d a) s =
    .next (c.askFor d ((s.advance c).send
      (.remoteAnswer c.gid d (hallOfLive (s.findTeam c.T.cohort (c.r.ksI a).toNat))))) := by
  refine (issue_normal hn _).trans ?_
  have hfind : (s.advance c).findTeam c.T.cohort (c.r.ksI a).toNat = s.findTeam c.T.cohort (c.r.ksI a).toNat := rfl
  simp only [hfind]
  cases s.findTeam c.T.cohort (c.r.ksI a).toNat <;> rfl
theorem exec_hmqLive (hn : normal (.hmqLive g d a) s = some c) : exec (.hmqLive g d a) s =
    .next (c.askFor d ((s.advance c).send
      (.remoteAnswer c.gid d (s.liveOf c.tenant (s.byHall c.T.group (c.r.ksI a)))))) := by
  refine (issue_normal hn _).trans ?_
  have hfind : (s.advance c).byHall c.T.group (c.r.ksI a) = s.byHall c.T.group (c.r.ksI a) := rfl
  simp only [hfind]
  cases s.byHall c.T.group (c.r.ksI a) <;> rfl

end

/-- Settles O28: CHQ reads the entry once its number is in range; CHGIVE sends its message unless the window is bad; HMQ looks for the
team and sends itself the answer. -/
theorem channelWords : Obligations.ChannelWords := by
  intro s c g d
  refine ⟨?_, fun i ch => exec_chq_noEntry, fun entry perm hall desc hn => ?_, fun entry hall => exec_chgiveRev,
    fun a => exec_hmqTeam, fun a => exec_hmqLive⟩
  · intro ch n hlt
    exact ⟨fun hn => exec_chq_status hn hlt, fun hn => exec_chq_entry hn hlt, fun hn => exec_chqClr hn hlt⟩
  · exact ⟨exec_chgive_sends hn, exec_chgive_bad hn⟩

end Sys2Proof.Machine
end

section
/-!
SUPPORT. The events of barriers, remote stores, channel entries and answers: O45.
-/
namespace Sys2Proof.Machine

/-- What arrives is the event that happens. -/
theorem curEv_of_arrives {e : Ev} {s s1 : State} (h : Arrives e s s1) : s.curEv = some e := h.1

/-! ### Barriers by message (R316) -/

section
variable {s s1 : State} {circle gid phase : Nat}

/-- An arrival for the circle's phase of a gang that has not arrived yet is recorded, and may end the phase. -/
theorem exec_circleArrival {ck : Nat} {c : Cohort} {t : Team} {b : CircBar} (ha : Arrives (.circleArrival ck circle gid phase) s s1)
    (hc : s1.cohort? ck = some c) (ht : s1.team? (gid / 256) = some t) (hck : t.cohort = ck)
    (hb : Store.get {} c.circs circle = b) (hphase : b.phase = phase) (hnew : (t.tidx, gid % 256) ∉ b.arr) :
    exec .circleArrival s = .next ((s1.modCohort ck fun x =>
      { x with circs := Store.set {} c.circs circle { b with arr := b.arr ++ [(t.tidx, gid % 256)] } }).circleBarrier ck circle) := by
  have hnot : b.arr.contains (t.tidx, gid % 256) = false :=
    Bool.eq_false_iff.mpr fun h => hnew (List.contains_iff_mem.mp h)
  simp only [exec, execCircleArrival, curEv_of_arrives ha, receive_of_arrives ha, hc, ht, hck, hb, hphase, hnot, ne_eq, not_true_eq_false,
    decide_false, Bool.or_self, Bool.false_eq_true, if_false]

/-- A member that waits for the phase that has ended goes on, unless its team is away. -/
theorem exec_phaseEndNotice {g : Gang} (ha : Arrives (.phaseEndNotice gid circle phase) s s1) (hg : s1.gang? gid = some g) :
    exec .phaseEndNotice s = .next (if g.bar = some ⟨some circle, phase⟩ && !((s1.team? g.team).any (·.away)) then s1.leaveBar gid
      else s1) := by
  simp only [exec, execPhaseEndNotice, curEv_of_arrives ha, receive_of_arrives ha, hg]

theorem goes_on_iff {o : Option Team} {P : Prop} [Decidable P] :
    (decide P && !(o.any (·.away))) = true ↔ P ∧ ∀ t, o = some t → t.away = false := by
  cases o <;> simp

end

/-! ### Remote stores (R323–R325) -/

section
variable {s s1 : State} {m : RStore}

theorem exec_remoteStoreArrival (ha : Arrives (.remoteStoreArrival m) s s1) :
    exec .remoteStoreArrival s = .next (s1.arriveStore m) := by
  simp only [exec, execRemoteStoreArrival, curEv_of_arrives ha, receive_of_arrives ha]

theorem arriveStore_dead (h : s.byHall m.group m.hall = none) : s.arriveStore m = s.ackStore m .dead := by
  simp only [State.arriveStore, h]
theorem arriveStore_xten {tid : Nat} {t : Team} (h : s.byHall m.group m.hall = some (tid, t)) (hten : s.ofTenant t m.tenant = false) :
    s.arriveStore m = s.ackStore m .xten := by
  simp only [State.arriveStore, h, hten, Bool.not_false, if_true]
theorem arriveStore_delivers {tid : Nat} {t : Team} (h : s.byHall m.group m.hall = some (tid, t))
    (hten : s.ofTenant t m.tenant = true) : s.arriveStore m = s.inImage tid fun s =>
      if t.state = .restart then s.deliverStore tid m else (s.deliverStore tid m).endRegion tid := by
  simp only [State.arriveStore, h, hten, Bool.not_true, Bool.false_eq_true, if_false]

theorem exec_remoteStoreRetry (ha : Arrives (.remoteStoreRetry m) s s1) : exec .remoteStoreRetry s =
    .next ((s1.modMark m.sender m.chan m.stream fun x => { x with retries := min (x.retries + 1) 255 }).send
      (.remoteStoreArrival m)) := by
  simp only [exec, execRemoteStoreRetry, curEv_of_arrives ha, receive_of_arrives ha]

/-- An answer of the entry's current stream marks its fate and lowers OUT. -/
theorem exec_remoteStoreAck {gid chan stream : Nat} {f : Fate} (ha : Arrives (.remoteStoreAck gid chan stream f) s s1)
    (hnow : s1.streamNow gid chan stream = true) : exec .remoteStoreAck s =
      .next ((s1.modMark gid chan stream fun x => x.fate f).inImage (gid / 256) fun s =>
        s.modGang gid fun g => { g with out := Store.upd 0 g.out chan (· - 1) }) := by
  simp only [exec, execRemoteStoreAck, curEv_of_arrives ha, receive_of_arrives ha, hnow, if_true]

end

/-! ### Channel entries (R326, R405) -/

section
variable {s s1 : State} {m : ChanMsg}

theorem exec_chgiveArrival (ha : Arrives (.chgiveArrival m) s s1) : exec .chgiveArrival s =
    .next ((s1.giveChan m).2.send (.remoteAnswer m.sender m.dst (BitVec.ofNat 32 (s1.giveChan m).1))) := by
  simp only [exec, execChgiveArrival, curEv_of_arrives ha, receive_of_arrives ha]

theorem giveChan_noTeam (h : s.byHall m.group m.hall = none) : s.giveChan m = (2, s) := by
  simp only [State.giveChan, h]

/-- The entry that a message names is one that its sender gave. -/
def State.entryMine (s : State) (tid : Nat) (m : ChanMsg) : Bool :=
  chValid (s.chanOf tid m.entry) && chHall (s.chanOf tid m.entry) = m.giver

variable {tid : Nat} {u : Team}

theorem giveChan_dead (h : s.byHall m.group m.hall = some (tid, u)) (hlive : u.live = false) : s.giveChan m = (2, s) := by
  simp only [State.giveChan, h, hlive, Bool.not_false, if_true]
theorem giveChan_xten (h : s.byHall m.group m.hall = some (tid, u)) (hlive : u.live = true) (hten : s.ofTenant u m.tenant = false) :
    s.giveChan m = (3, s) := by
  simp only [State.giveChan, h, hlive, hten, Bool.not_true, Bool.not_false, Bool.false_eq_true, if_false, if_true]

section
variable (h : s.byHall m.group m.hall = some (tid, u)) (hlive : u.live = true) (hten : s.ofTenant u m.tenant = true)
include h hlive hten

/-- At a live team of the tenant a CHSET writes its image, unless a reserved bit is set. -/
theorem giveChan_set (hforce : m.force = true) :
    s.giveChan m = if m.image.toNat / 2 ^ 68 ≠ 0 then (4, s) else (0, s.setChan tid m.entry m.image) := by
  simp only [State.giveChan, h, hlive, hten, hforce, Bool.not_true, Bool.false_eq_true, if_false, if_true]
/-- A revocation makes the giver's own entry invalid. -/
theorem giveChan_revoke (hforce : m.force = false) (hrev : m.revoke = true) : s.giveChan m =
    if s.entryMine tid m then (0, s.setChan tid m.entry (chInvalid (s.chanOf tid m.entry))) else (5, s) := by
  simp only [State.giveChan, h, hlive, hten, hforce, hrev, Bool.not_true, Bool.false_eq_true, if_false, if_true]
  rfl
/-- A grant writes an entry that is invalid or the giver's own. -/
theorem giveChan_grant (hforce : m.force = false) (hrev : m.revoke = false) : s.giveChan m =
    if !chValid (s.chanOf tid m.entry) || s.entryMine tid m then (0, s.setChan tid m.entry m.image) else (1, s) := by
  simp only [State.giveChan, h, hlive, hten, hforce, hrev, Bool.not_true, Bool.false_eq_true, if_false]
  rfl

end

end

/-! ### Answers (R189) -/

/-- The state once an answer is in its destination, which is owed no longer. -/
def State.answered (s : State) (gid : Nat) (dst : RegNum) (v : Word) : State :=
  (s.inImage (gid / 256) fun s => s.modRegs gid fun x => x.setK dst.toNat v).modGang gid fun g =>
    { g with owed := g.owed.erase (0, .k dst.toNat) }

theorem exec_remoteAnswer {s s1 : State} {gid : Nat} {dst : RegNum} {v : Word} (ha : Arrives (.remoteAnswer gid dst v) s s1) :
    exec .remoteAnswer s = .next (match (s1.answered gid dst v).gangCore gid with
      | some ck => (s1.answered gid dst v).dropCleanAll ck
      | none => s1.answered gid dst v) := by
  simp only [exec, execRemoteAnswer, curEv_of_arrives ha, receive_of_arrives ha]
  rfl

/-- Settles O45: each message is received and has the effect of its kind; what a CHGIVE or CHSET comes to goes by the team, the entry
and its owner. -/
theorem messageEvents : Obligations.MessageEvents := by
  intro s s1
  refine ⟨?_, ?_, fun m ha => ?_, fun m => exec_remoteStoreRetry, fun gid chan stream f => exec_remoteStoreAck, fun m ha => ?_,
    fun gid dst v => exec_remoteAnswer⟩
  · intro ck circle gid phase c t ha hc ht hck b hphase hnew
    exact exec_circleArrival ha hc ht hck rfl hphase hnew
  · intro gid circle phase g ha hg
    rw [exec_phaseEndNotice ha hg]
    refine ⟨fun hbar hhere => ?_, fun hstay => ?_⟩
    · rw [if_pos (goes_on_iff.mpr ⟨hbar, hhere⟩)]
    · rw [if_neg fun hgo => ?_]
      obtain ⟨hbar, hhere⟩ := goes_on_iff.mp hgo
      rcases hstay with hother | ⟨t, ht, haway⟩
      · exact hother hbar
      · exact Bool.false_ne_true ((hhere t ht).symm.trans haway)
  · rw [exec_remoteStoreArrival ha]
    refine ⟨fun hnone => by rw [arriveStore_dead hnone], fun tid t hteam => ⟨fun hten => ?_, fun hten => ?_⟩⟩
    · rw [arriveStore_xten hteam hten]
    · rw [arriveStore_delivers hteam hten]
  · refine ⟨_, _, exec_chgiveArrival ha, fun hnone => Prod.ext_iff.mp (giveChan_noTeam hnone), fun tid u hteam =>
      ⟨fun hdead => Prod.ext_iff.mp (giveChan_dead hteam hdead),
        fun hlive hten => Prod.ext_iff.mp (giveChan_xten hteam hlive hten), ?_⟩⟩
    intro hlive hten e mine
    refine ⟨fun hforce hfits => ?_, fun hforce hlarge => ?_, fun hforce hrev hmine => ?_, fun hforce hrev hmine => ?_,
      fun hforce hrev hfree => ?_, fun hforce hrev hvalid hmine => ?_⟩
    · have hclear : ¬ m.image.toNat / 2 ^ 68 ≠ 0 := fun hset => hset (Nat.div_eq_of_lt hfits)
      exact Prod.ext_iff.mp ((giveChan_set hteam hlive hten hforce).trans (if_neg hclear))
    · have hset : m.image.toNat / 2 ^ 68 ≠ 0 := Nat.ne_of_gt (Nat.div_pos hlarge (Nat.two_pow_pos 68))
      exact Prod.ext_iff.mp ((giveChan_set hteam hlive hten hforce).trans (if_pos hset))
    · exact Prod.ext_iff.mp ((giveChan_revoke hteam hlive hten hforce hrev).trans (if_pos hmine))
    · exact Prod.ext_iff.mp ((giveChan_revoke hteam hlive hten hforce hrev).trans (if_neg (Bool.eq_false_iff.mp hmine)))
    · have hmay : (!chValid e || mine) = true := by rwa [Bool.or_eq_true, Bool.not_eq_true']
      exact Prod.ext_iff.mp ((giveChan_grant hteam hlive hten hforce hrev).trans (if_pos hmay))
    · have htaken : ¬ (!chValid e || mine) = true := by
        rw [hvalid, hmine]
        exact Bool.false_ne_true
      exact Prod.ext_iff.mp ((giveChan_grant hteam hlive hten hforce hrev).trans (if_neg htaken))

end Sys2Proof.Machine
end

section
/-!
SUPPORT. The events of collectives: O46.
-/
namespace Sys2Proof.Machine

section
variable {s s1 : State}

/-! ### Matching (R333, R340) -/

theorem exec_collMatch {key : Nat} (ha : Arrives (.collMatch key) s s1) : exec .collMatch s = .next (s1.seqWork key) := by
  simp only [exec, execCollMatch, curEv_of_arrives ha, receive_of_arrives ha]

/-- The sequencer matches a slot in MATCH, goes on with one in RUN, and leaves every other alone. -/
theorem seqWork_matching {key : Nat} {t : Team} (ht : s.team? (key / 4) = some t) (hst : (t.coll (key % 4)).state = .matching) :
    s.seqWork key = s.collMatch (key / 4) (key % 4) t (t.coll (key % 4)) := by
  simp only [State.seqWork, ht, hst]
theorem seqWork_run {key : Nat} {t : Team} (ht : s.team? (key / 4) = some t) (hst : (t.coll (key % 4)).state = .run) :
    s.seqWork key = s.pump (key / 4) (key % 4) 65536 := by
  simp only [State.seqWork, ht, hst]
theorem seqWork_idle {key : Nat} {t : Team} (ht : s.team? (key / 4) = some t) (h1 : (t.coll (key % 4)).state ≠ .matching)
    (h2 : (t.coll (key % 4)).state ≠ .run) : s.seqWork key = s := by
  simp only [State.seqWork, ht]

/-- A collective that is in MATCH when its TMO has passed ends in ERROR with status 3 (R340). -/
theorem exec_collMatchTimeout {tid j : Nat} {t : Team} (he : s.curEv = some (.collMatchTimeout tid j)) (ht : s.team? tid = some t)
    (hst : (t.coll j).state = .matching) (htmo : (t.coll j).block.tmo ≠ 0)
    (hdue : (t.coll j).since + (t.coll j).block.tmo * 1000000 ≤ s.time) :
    exec .collMatchTimeout s = .next (s.abortColl tid j 3 0 0) := by
  simp only [exec, execCollMatchTimeout, he, ht, hst, htmo, hdue, ne_eq, not_false_eq_true, decide_true, Bool.and_self, if_true]

/-! ### Steps and permits (R335, R342) -/

theorem exec_collStepArrival {m : CollStep} (ha : Arrives (.collStepArrival m) s s1) : exec .collStepArrival s =
    .next (if (s1.collStep m).1 then (s1.collStep m).2 else (s1.collStep m).2.send (.collStepArrival m)) := by
  simp only [exec, execCollStepArrival, curEv_of_arrives ha, receive_of_arrives ha]

theorem not_away {t : Team} (hst : t.state = .resident ∨ t.state = .stopping) : (t.state ≠ .resident && t.state ≠ .stopping) = false := by
  rcases hst with hst | hst <;> simp only [hst, ne_eq, not_true_eq_false, decide_false, Bool.false_and, Bool.and_false]

theorem collStep_noRank {m : CollStep} (h : s.collRank m.coll m.dst = none) : s.collStep m = (true, s) := by
  simp only [State.collStep, h]

section
variable {m : CollStep} {tid j : Nat} {t : Team} {x : CollSlot} (h : s.collRank m.coll m.dst = some (tid, j, t, x))
include h

theorem collStep_away (h1 : t.state ≠ .resident) (h2 : t.state ≠ .stopping) : s.collStep m = (false, s) := by
  simp only [State.collStep, h, h1, h2, ne_eq, not_false_eq_true, decide_true, Bool.and_self, if_true]

/-- A step that comes to a team on its cores waits while no part has a cell for it, and lands there otherwise. -/
theorem collStep_waits (hst : t.state = .resident ∨ t.state = .stopping) (hland : x.lands m = none) :
    s.collStep m = (false, s) := by
  simp only [State.collStep, h, not_away hst, hland, Bool.false_eq_true, if_false]
theorem collStep_lands {p : CollPart} {right : Bool} (hst : t.state = .resident ∨ t.state = .stopping)
    (hland : x.lands m = some (p, right)) :
    let u := s.land tid j t x (s.collView t x).n p right m.data
    s.collStep m = (true, (if m.final then u else u.consumed tid j m.src x).pump tid j 65536) := by
  simp only [State.collStep, h, not_away hst, hland, Bool.false_eq_true, if_false]

end

theorem exec_permitReturn {tid j peer : Nat} {grant : Bool} (ha : Arrives (.permitReturn tid j peer grant) s s1) :
    exec .permitReturn s = .next (s1.permitBack tid j peer grant) := by
  simp only [exec, execPermitReturn, curEv_of_arrives ha, receive_of_arrives ha]

theorem exec_collAbort {tid j status cause rank : Nat} (ha : Arrives (.collAbort tid j status cause rank) s s1) :
    exec .collAbort s = .next (s1.abortColl tid j status cause rank) := by
  simp only [exec, execCollAbort, curEv_of_arrives ha, receive_of_arrives ha]

end

/-- Settles O46: the sequencer goes by the state of the slot, and a step by its receiver's team and the cell of its permit. -/
theorem collectiveEvents : Obligations.CollectiveEvents := by
  intro s s1
  refine ⟨fun key t ha ht => ?_, fun tid j t he ht => exec_collMatchTimeout he ht, fun m ha => ?_, fun tid j peer ha => ?_,
    fun tid j peer ha => ?_, fun tid j status cause rank ha => exec_collAbort ha⟩
  · rw [exec_collMatch ha]
    exact ⟨fun hst => by rw [seqWork_matching ht hst], fun hst => by rw [seqWork_run ht hst],
      fun h1 h2 => by rw [seqWork_idle ht h1 h2]⟩
  · rw [exec_collStepArrival ha]
    refine ⟨fun hnone => by rw [collStep_noRank hnone]; rfl, fun tid j t x hrank => ⟨fun h1 h2 => ?_, fun hst => ?_⟩⟩
    · rw [collStep_away hrank h1 h2]
      rfl
    · refine ⟨fun hland => ?_, fun p right hland => ?_⟩
      · rw [collStep_waits hrank hst hland]
        rfl
      · rw [collStep_lands hrank hst hland]
        rfl
  · rw [exec_permitReturn ha]
    rfl
  · rw [exec_permitReturn ha]
    rfl

end Sys2Proof.Machine
end

section
/-!
SUPPORT. LAUNCH, LWAIT and LQRY: O30.
-/
namespace Sys2Proof.Machine

/-- A word whose effect writes one uniform register. -/
theorem issue_putsK {i : Instr} {s : State} {c : Ctx} {eff : Ctx → State → Res} {d : RegNum} {v : Word} (hn : normal i s = some c)
    (heff : eff c (s.advance c) = c.putK (s.advance c) d v) : issue i s eff = .next (s.put c (c.past.setK d.toNat v)) := by
  rw [issue_normal hn, heff, Ctx.putK, advance_mod]
  rfl

/-! A test that a number is neither of two. -/

theorem neither_true {x m n : Nat} (h : ¬ (x = m ∨ x = n)) : (x ≠ m && x ≠ n) = true := by
  simpa only [Bool.and_eq_true, decide_eq_true_eq, not_or, ne_eq] using h
theorem neither_false {x m n : Nat} (h : x = m ∨ x = n) : (x ≠ m && x ≠ n) = false :=
  Bool.eq_false_iff.mpr fun ht => by
    simp only [Bool.and_eq_true, decide_eq_true_eq] at ht
    exact h.elim ht.1 ht.2

/-! ### LAUNCH (R353, R354) -/

section
variable {s s1 : State} {c : Ctx} {g : Guard} {d : RegNum} {ptr : Src} {off : Option Word} {a : DWord}

theorem exec_launch_badPtr {k : Nat} (hn : normal (.launch g d ptr off) s = some c) (hm : c.mayTrap s)
    (ha : c.kaddr ptr ((off.getD 0).signExtend 64) = a) (hbad : ptrCause a c.C.scratchBytes c.C.lr.privsz = some k) :
    exec (.launch g d ptr off) s = .next (c.atTrap s 0x10 k a) := by
  refine issue_traps hn hm ?_
  simp only [ha, hbad]

theorem exec_launch_badSpace (hn : normal (.launch g d ptr off) s = some c) (hm : c.mayTrap s)
    (ha : c.kaddr ptr ((off.getD 0).signExtend 64) = a) (hgood : ptrCause a c.C.scratchBytes c.C.lr.privsz = none)
    (hspace : ¬ (ptrSpace a = 0 ∨ ptrSpace a = 4)) : exec (.launch g d ptr off) s = .next (c.atTrap s 0x10 2 a) := by
  refine issue_traps hn hm ?_
  simp only [ha, hgood, neither_true hspace, if_true]

theorem exec_launch_misaligned (hn : normal (.launch g d ptr off) s = some c) (hm : c.mayTrap s)
    (ha : c.kaddr ptr ((off.getD 0).signExtend 64) = a) (hgood : ptrCause a c.C.scratchBytes c.C.lr.privsz = none)
    (hspace : ptrSpace a = 0 ∨ ptrSpace a = 4) (halign : a.toNat % 256 ≠ 0) :
    exec (.launch g d ptr off) s = .next (c.atTrap s 0x11 0 a) := by
  refine issue_traps hn hm ?_
  simp only [ha, hgood, neither_false hspace, halign, ne_eq, not_false_eq_true,
    Bool.false_eq_true, if_false, if_true]

/-- LAUNCH on a good pointer goes on to read the record once its release is done. -/
theorem exec_launch_released (hn : normal (.launch g d ptr off) s = some c) (ha : c.kaddr ptr ((off.getD 0).signExtend 64) = a)
    (hgood : ptrCause a c.C.scratchBytes c.C.lr.privsz = none) (hspace : ptrSpace a = 0 ∨ ptrSpace a = 4)
    (halign : a.toNat % 256 = 0) (hrel : c.release (s.advance c) = (none, s1)) :
    exec (.launch g d ptr off) s = settle c (c.launchFrom d a s1) := by
  refine (issue_normal hn _).trans ?_
  simp only [ha, hgood, neither_false hspace, halign, hrel, ne_eq,
    not_true_eq_false, Bool.false_eq_true, if_false]

end

section
variable {s s2 s3 : State} {c : Ctx} {d : RegNum} {a : DWord} {bs : List Byte} {aux : Option (List Byte)}

/-- A record that cannot be read is refused with code 8 (R353). -/
theorem launchFrom_unread {f : LaneFault} (hrec : c.fetch (recReq a 256) s = .flt f s2) :
    c.launchFrom d a s = c.putK (c.endRegion (c.acquire true s2)) d 0x80000008 := by
  simp only [Ctx.launchFrom, hrec]

/-- What LAUNCH has read of the table that a record names: nothing where it names none, `none` where the table faults. -/
inductive TableRead (c : Ctx) (bs : List Byte) (s : State) : Option (List Byte) → State → Prop where
  | absent (h : auxBytes bs = 0) : TableRead c bs s (some []) s
  | faulted {f : LaneFault} {t : State} (h : auxBytes bs ≠ 0) (hf : c.fetch (recReq (readRec bs).aux (auxBytes bs)) s = .flt f t) :
      TableRead c bs s none t
  | present {xs : List Byte} {t : State} (h : auxBytes bs ≠ 0)
      (hf : c.fetch (recReq (readRec bs).aux (auxBytes bs)) s = .bytes xs t) : TableRead c bs s (some (xs.take (auxBytes bs))) t

theorem launchFrom_read (hrec : c.fetch (recReq a 256) s = .bytes bs s2) (htab : TableRead c bs s2 aux s3) :
    c.launchFrom d a s = c.launch d bs aux s3 := by
  cases htab with
  | absent h => simp only [Ctx.launchFrom, hrec, h, if_true]
  | faulted h hf => simp only [Ctx.launchFrom, hrec, h, hf, if_false]
  | present h hf => simp only [Ctx.launchFrom, hrec, h, hf, if_false]

theorem launch_refused {k : Nat} (hk : (c.endRegion (c.acquire true s)).judgeLaunch c.C.dev (c.die % 8) c.tenant bs aux = .error k) :
    c.launch d bs aux s = c.putK (c.endRegion (c.acquire true s)) d (BitVec.ofNat 32 (0x80000000 + k)) := by
  simp only [Ctx.launch, hk]

theorem launch_starts {q : LaunchReq} {key : Nat} {u : State}
    (hq : (c.endRegion (c.acquire true s)).judgeLaunch c.C.dev (c.die % 8) c.tenant bs aux = .ok q)
    (hu : (c.endRegion (c.acquire true s)).newCohort c.C.dev (c.die % 8) c.tenant false q = some (key, u)) :
    c.launch d bs aux s = c.putK u d (BitVec.ofNat 32 (u.handle key)) := by
  simp only [Ctx.launch, hq, hu]

end

/-! ### LWAIT (R356) -/

section
variable {s : State} {c : Ctx} {g : Guard} {q : Bool} {d : RegNum} {h : Src} {st : Nat}

/-- The state in which the wait of the gang is over. -/
def Ctx.lwaitOver (c : Ctx) (s : State) : State := s.modGang c.gid fun g => { g with lwait := none, lres := none }

/-- A wait that ends gives its status, or traps with it. -/
theorem settle_lwaitEnd (t : State) : settle c (c.lwaitEnd q d st t) = .next
    (if st ≠ 0 ∧ q = false then c.trapTo 0x20 st 0 c.X (c.lwaitOver t)
      else c.mod (if st = 7 then c.lwaitOver t else c.acquire true (c.lwaitOver t)) fun y => y.setK d.toNat (BitVec.ofNat 32 st)) := by
  simp only [Ctx.lwaitEnd, Bool.and_eq_true, decide_eq_true_eq, Bool.not_eq_true']
  split
  · rfl
  · rfl

/-- A wait whose cohort is gone gives what it has been told, or 7 where it has been told nothing. -/
theorem exec_lwait_gone (hn : normal (.lwait g q d h) s = some c) (hfound : s.findCohort c.C.dev c.tenant (c.r.ks h) = none)
    (hst : c.G.lres = some st ∨ (c.G.lres = none ∧ st = 7)) :
    exec (.lwait g q d h) s = settle c (c.lwaitEnd q d st (s.advance c)) := by
  have hfound' : (s.advance c).findCohort c.C.dev c.tenant (c.r.ks h) = none := hfound
  refine (issue_normal hn _).trans ?_
  rcases hst with hres | ⟨hres, rfl⟩ <;> simp only [hfound', hres]

variable {key : Nat} {x : Cohort}

/-- A wait that has been told the status of another cohort than the handle now names gives that status. -/
theorem exec_lwait_other (hn : normal (.lwait g q d h) s = some c)
    (hfound : s.findCohort c.C.dev c.tenant (c.r.ks h) = some (key, x)) (hres : c.G.lres = some st)
    (hother : c.G.lwait ≠ some key ∨ x.status ≠ some st) :
    exec (.lwait g q d h) s = settle c (c.lwaitEnd q d st (s.advance c)) := by
  have hfound' : (s.advance c).findCohort c.C.dev c.tenant (c.r.ks h) = some (key, x) := hfound
  have hnot : (c.G.lwait = some key && x.status = some st) = false :=
    Bool.eq_false_iff.mpr fun hboth => by
      obtain ⟨h1, h2⟩ := Bool.and_eq_true_iff.mp hboth
      exact hother.elim (· (of_decide_eq_true h1)) (· (of_decide_eq_true h2))
  refine (issue_normal hn _).trans ?_
  simp only [hfound', hres, hnot, Bool.false_eq_true, if_false]

/-- The wait for a cohort that has finished frees it. -/
theorem exec_lwait_finished (hn : normal (.lwait g q d h) s = some c)
    (hfound : s.findCohort c.C.dev c.tenant (c.r.ks h) = some (key, x))
    (hres : c.G.lres = none ∨ (c.G.lres = some st ∧ c.G.lwait = some key)) (hst : x.status = some st) :
    exec (.lwait g q d h) s = settle c (c.lwaitEnd q d st ((s.advance c).freeCohort key)) := by
  have hfound' : (s.advance c).findCohort c.C.dev c.tenant (c.r.ks h) = some (key, x) := hfound
  refine (issue_normal hn _).trans ?_
  rcases hres with hres | ⟨hres, hwait⟩
  · simp only [hfound', hres, hst]
  · simp only [hfound', hres, hwait, hst, decide_true, Bool.and_self, if_true]

end

/-- The trap records and the team of a gang past its word. -/
theorem gangPast_records (c : Ctx) : c.gangPast.team = c.G.team ∧ c.gangPast.tr0 = c.G.tr0 ∧ c.gangPast.tr1 = c.G.tr1 :=
  ⟨Gang.setWait_team _ _ _, Gang.setWait_tr0 _ _ _, Gang.setWait_tr1 _ _ _⟩

/-- The trap of a word that has ended its gang's wait: what the wait left is cleared, and the rest is the trap at the word (R394). -/
theorem trapTo_lwaitOver {i : Instr} {s : State} {c : Ctx} (hn : normal i s = some c) (hm : c.mayTrap s) (code cause : Nat)
    (addr : DWord) : c.trapTo code cause addr c.X (c.lwaitOver (s.advance c)) =
      (s.advance c).setGang c.gid { c.trapped s code cause addr c.X with lwait := none, lres := none } := by
  obtain ⟨o, ho, -⟩ := checked_of_normal hn
  obtain ⟨-, -, -, hteam, -⟩ := gang_of_checked ho
  obtain ⟨hinactive, hhandler⟩ := hm
  have hover : c.lwaitOver (s.advance c) = (s.advance c).setGang c.gid { c.gangPast with lwait := none, lres := none } :=
    State.modGang_some (gang_advance s c) _
  have hgang := State.gang?_setGang (s.advance c) c.gid { c.gangPast with lwait := none, lres := none }
  obtain ⟨hpteam, htr0, htr1⟩ := gangPast_records c
  rw [hover, Ctx.trapTo, deliver_taken hgang (T := c.T) (by rw [hpteam]; exact hteam) c.sec code cause c.amask c.X addr c.X
    (by rw [htr0, htr1]; exact hinactive) hhandler]
  rw [setGang_setGang, Ctx.trapped]
  obtain ⟨gid, G, T, C, sec, X, next, amask, emask, ug⟩ := c
  cases sec <;> rfl

/-! ### LQRY (R357) -/

section
variable {s : State} {c : Ctx} {g : Guard} {op : Lqry} {d : RegNum} {h : Src}

/-- What LQRY reads of a cohort. -/
def Cohort.query (x : Cohort) (op : Lqry) : Nat :=
  match op with
  | .state => x.state.code
  | .placed => x.started
  | .done => x.exited
  | .status => x.status.getD 0xFF

theorem exec_lqry_found {key : Nat} {x : Cohort} (hn : normal (.lqry g op d h) s = some c)
    (hfound : s.findCohort c.C.dev c.tenant (c.r.ks h) = some (key, x)) :
    exec (.lqry g op d h) s = .next (s.put c (c.past.setK d.toNat (BitVec.ofNat 32 (x.query op)))) := by
  have hfound' : (s.advance c).findCohort c.C.dev c.tenant (c.r.ks h) = some (key, x) := hfound
  refine issue_putsK hn ?_
  simp only [hfound']
  cases op <;> rfl

theorem exec_lqry_unknown (hn : normal (.lqry g op d h) s = some c)
    (hfound : s.findCohort c.C.dev c.tenant (c.r.ks h) = none) (hop : op = .state ∨ op = .status) :
    exec (.lqry g op d h) s = .next (s.put c (c.past.setK d.toNat 7)) := by
  have hfound' : (s.advance c).findCohort c.C.dev c.tenant (c.r.ks h) = none := hfound
  refine issue_putsK hn ?_
  rcases hop with rfl | rfl <;> simp only [hfound']

theorem exec_lqry_free (hn : normal (.lqry g op d h) s = some c)
    (hfound : s.findCohort c.C.dev c.tenant (c.r.ks h) = none) (hop : op = .placed ∨ op = .done) :
    exec (.lqry g op d h) s =
      .next (c.mod { s.advance c with fresh := s.fresh + 1 } fun y => y.setK d.toNat (Config.freeWord s.fresh)) := by
  have hfound' : (s.advance c).findCohort c.C.dev c.tenant (c.r.ks h) = none := hfound
  refine (issue_normal hn _).trans ?_
  rcases hop with rfl | rfl <;> simp only [hfound'] <;> rfl

end

/-- Settles O30: LAUNCH runs through its checks and reads in their order; LWAIT and LQRY go by the cohort that the handle names and
by what the gang's wait has been told. -/
theorem launchWords : Obligations.LaunchWords := by
  refine ⟨?_, ?_⟩
  · intro s s1 c g d ptr off hn a gives bad here
    refine ⟨fun hm => ⟨fun k hbad => exec_launch_badPtr hn hm rfl hbad, fun hgood hspace => exec_launch_badSpace hn hm rfl hgood hspace,
      fun hgood hspace halign => exec_launch_misaligned hn hm rfl hgood hspace halign⟩, fun hgood hspace halign hrel => ?_⟩
    have hlaunch := exec_launch_released hn rfl hgood hspace halign hrel
    refine ⟨fun f s2 hrec => hlaunch.trans (congrArg (settle c) (launchFrom_unread hrec)), ?_⟩
    intro bs s2 hrec n table aux s3 htable t
    have htab : TableRead c bs s2 aux s3 := by
      rcases htable with ⟨hn0, rfl, rfl⟩ | ⟨hn0, f, hf, rfl⟩ | ⟨hn0, xs, hf, rfl⟩
      · exact .absent hn0
      · exact .faulted hn0 hf
      · exact .present hn0 hf
    have hread := hlaunch.trans (congrArg (settle c) (launchFrom_read hrec htab))
    exact ⟨fun k hk => hread.trans (congrArg (settle c) (launch_refused hk)),
      fun q hq key u hu => hread.trans (congrArg (settle c) (launch_starts hq hu))⟩
  · intro s c g d h found fin ends
    refine ⟨fun q st hn => ⟨fun hcase => ?_, fun key x hfound hres hst => ?_⟩, fun hn hfound hres hinactive hhandler => ?_,
      fun op hn => ⟨fun key x hfound => (exec_lqry_found hn hfound).trans ?_, fun hfound hop => exec_lqry_unknown hn hfound hop,
        fun hfound hop => ⟨_, exec_lqry_free hn hfound hop⟩⟩⟩
    · rcases hcase with ⟨hfound, hres⟩ | ⟨key, x, hfound, hres, hother⟩
      · exact (exec_lwait_gone hn hfound hres).trans (settle_lwaitEnd _)
      · exact (exec_lwait_other hn hfound hres hother).trans (settle_lwaitEnd _)
    · exact (exec_lwait_finished hn hfound hres hst).trans (settle_lwaitEnd _)
    · have htrap := trapTo_lwaitOver hn ⟨hinactive, hhandler⟩ 0x20 7 0
      rw [exec_lwait_gone hn hfound (.inr ⟨hres, rfl⟩), settle_lwaitEnd, if_pos ⟨by decide, rfl⟩, htrap]
    · cases op <;> rfl

end Sys2Proof.Machine
end

section
/-!
SUPPORT. YIELD, SLEEP, regions and TMIG: O31.
-/
namespace Sys2Proof.Machine

/-! ### YIELD and SLEEP (R363) -/

/-- A gang that goes to the pending set past its word. -/
theorem pend_advance (s : State) (c : Ctx) (w : Wait) : c.pend w (s.advance c) =
    .done ((s.advance c).setGang c.gid { c.gangPast.setWait c.sec w with active := false, movedAt := s.time }) := by
  rw [Ctx.pend, State.modGang_some (gang_advance s c)]
  rfl

theorem exec_yield {s : State} {c : Ctx} {g : Guard} (hn : normal (.yield g) s = some c) : exec (.yield g) s =
    .next ((s.advance c).setGang c.gid { c.gangPast.setWait c.sec .ready with active := false, movedAt := s.time }) :=
  (issue_normal hn _).trans (congrArg (settle c) (pend_advance s c .ready))

theorem exec_sleep {s : State} {c : Ctx} {g : Guard} {n : SrcI} (hn : normal (.sleep g n) s = some c) :
    exec (.sleep g n) s = .next ((s.advance c).setGang c.gid
      { c.gangPast.setWait c.sec (if (c.r.ksI n).toNat = 0 then .ready else .sleep (s.time + (c.r.ksI n).toNat)) with
        active := false, movedAt := s.time }) :=
  (issue_normal hn _).trans (congrArg (settle c) (pend_advance s c _))

/-! ### Regions (R371) -/

/-- RGN opens the region at the next word, with the lanes of the primary slot. -/
theorem exec_rgn {s : State} {c : Ctx} {g : Guard} (hn : normal (.rgn g) s = some c) : exec (.rgn g) s =
    .next ((s.advance c).modGang c.gid fun x =>
      { x with rgnOpen := true, rgnPc := c.next, rgnMask := c.G.regs.pri.lmask }) := by
  have hmask : c.gangPast.regs.pri.lmask = c.G.regs.pri.lmask := by
    rw [gangPast_regs]
    exact slot_past c false
  refine (issue_normal hn _).trans ?_
  rw [State.modGang_some (gang_advance s c), State.modGang_some (gang_advance s c), hmask]
  rfl

theorem exec_rgnx {s : State} {c : Ctx} {g : Guard} (hn : normal (.rgnx g) s = some c) :
    exec (.rgnx g) s = .next (c.endRegion (s.advance c)) := issue_normal hn _

/-- What `f` gives every gang holds of each gang of a list once `f` has been applied to all of them, and of every gang of which it
held before. -/
theorem foldl_modGang_holds {f : Gang → Gang} {P : Gang → Prop} (hf : ∀ x, P (f x)) (ls : List Nat) (s : State) {g : Nat}
    (h : g ∈ ls ∨ ∀ x, s.gang? g = some x → P x) {x : Gang} (hx : (ls.foldl (fun s k => s.modGang k f) s).gang? g = some x) :
    P x := by
  induction ls generalizing s with
  | nil => exact h.elim (absurd · List.not_mem_nil) (· x hx)
  | cons k ls ih =>
    refine ih (s.modGang k f) ?_ hx
    by_cases hk : g = k
    · subst hk
      refine .inr fun y hy => ?_
      rw [State.gang?_modGang] at hy
      obtain ⟨z, -, rfl⟩ := Option.map_eq_some_iff.mp hy
      exact hf z
    · refine h.imp (fun hmem => (List.mem_cons.mp hmem).resolve_left hk) fun hs y hy => hs y ?_
      rwa [State.gang?_modGang_other s f hk] at hy

theorem endRegion_closes {s : State} {tid : Nat} {t : Team} {C : Cohort} (ht : s.team? tid = some t)
    (hC : s.cohort? t.cohort = some C) {k : Nat} (hk : k < C.ngangs) {x : Gang}
    (hx : (s.endRegion tid).gang? (gangKey tid k) = some x) : x.rgnOpen = false := by
  have heq : s.endRegion tid = s.modGangs tid C.ngangs fun g => { g with rgnOpen := false } := by
    simp only [State.endRegion, ht, hC]
  rw [heq] at hx
  have hmem : gangKey tid k ∈ teamGangs tid C.ngangs := List.mem_map_of_mem (List.mem_range.mpr hk)
  exact foldl_modGang_holds (P := fun y => y.rgnOpen = false) (fun _ => rfl) _ s (.inl hmem) hx

/-- Ending a region leaves memory as it was. -/
theorem endRegion_memory (s : State) (c : Ctx) : SameMemory s (c.endRegion (s.advance c)) := by
  obtain ⟨b, gs, heq, -⟩ := endRegion_spec (s.advance c) c.tid c.gid c.gangPast (gang_advance s c)
  rw [Ctx.endRegion, heq]
  exact .of_eq rfl rfl rfl

/-! ### TMIG (R366, R369) -/

section
variable {s : State} {c : Ctx} {g : Guard} {d : RegNum} {n : SrcI}

theorem exec_tmig_refused {v : Nat} (hn : normal (.tmig g d n) s = some c) (hv : c.tmigCode (c.r.ksI n).toNat = some v) :
    exec (.tmig g d n) s = .next (s.put c (c.past.setK d.toNat (BitVec.ofNat 32 v))) := by
  refine issue_putsK hn ?_
  simp only [hv]

theorem exec_tmig_stops (hn : normal (.tmig g d n) s = some c) (hv : c.tmigCode (c.r.ksI n).toNat = none) :
    exec (.tmig g d n) s = .next (((s.advance c).modTeam c.tid fun t =>
      { t with fullReq := true, tmig := some ⟨c.gid, d, (c.r.ksI n).toNat, s.time + 1000000, t.die⟩ }).stopTeam c.tid) := by
  refine (issue_normal hn _).trans ?_
  simp only [hv]
  rfl

end

theorem stopTeam_resident {s : State} {tid : Nat} {t : Team} (ht : s.team? tid = some t) (hst : t.state = .resident) :
    s.stopTeam tid = (s.setTeam tid { t with state := .stopping, since := s.time, stopAt := s.time }).endPasses tid := by
  simp only [State.stopTeam, ht, hst, if_true]

/-- Settles O31: the gang or the team that each word acts on is the one that it issues from, past the word; RGNX visits every gang of
the team. -/
theorem yieldRegionsAndMigration : Obligations.YieldRegionsAndMigration := by
  refine ⟨fun s c g => ⟨fun hn => exec_yield hn, fun n hn => exec_sleep hn⟩, fun s c g => ⟨fun hn => exec_rgn hn, fun hn => ?_,
    fun d n hn => ⟨fun v hv => exec_tmig_refused hn hv, fun hv => exec_tmig_stops hn hv⟩⟩, fun s tid t => stopTeam_resident⟩
  obtain ⟨o, ho, -⟩ := checked_of_normal hn
  obtain ⟨-, -, -, hteam, hcohort, -⟩ := gang_of_checked ho
  exact ⟨_, exec_rgnx hn, endRegion_memory s c, fun k hk x hx => endRegion_closes (s := s.advance c) hteam hcohort hk hx⟩

end Sys2Proof.Machine
end

section
/-!
SUPPORT. The flux registers: O32.
-/
namespace Sys2Proof.Machine

/-! ### FLXCFG (R386) -/

/-- A flux budget that FLXCFG takes (R386). -/
def FluxBudgetOk (w : Word) : Prop := w = 0 ∨ (16 ≤ w.toNat ∧ w.toNat ≤ 512)

theorem fluxBudget_bad_iff {w : Word} : (w ≠ 0 && !(16 ≤ w.toNat && w.toNat ≤ 512)) = true ↔ ¬ FluxBudgetOk w := by
  simp only [FluxBudgetOk, Bool.and_eq_true, decide_eq_true_eq, Bool.not_eq_true', Bool.and_eq_false_iff, decide_eq_false_iff_not,
    not_or, Decidable.not_and_iff_not_or_not, ne_eq]

theorem not_fluxBudgetOk {w : Word} (h0 : w ≠ 0) (h : w.toNat < 16 ∨ 512 < w.toNat) : ¬ FluxBudgetOk w := by
  rintro (rfl | ⟨h16, h512⟩)
  · exact h0 rfl
  · omega

section
variable {s : State} {c : Ctx} {g : Guard} {team : Bool} {d : RegNum} {n : SrcI}

theorem exec_flxcfg_sets (hn : normal (.flxcfg g team d n) s = some c) (hok : FluxBudgetOk (c.r.ksI n)) :
    exec (.flxcfg g team d n) s = .next (c.mod
      (if team then (s.advance c).modGangs c.tid c.C.ngangs (fun x => { x with fluxBudget := c.r.ksI n })
        else (s.advance c).modGang c.gid fun x => { x with fluxBudget := c.r.ksI n })
      fun x => x.setK d.toNat c.G.fluxBudget) := by
  have hgood := Bool.eq_false_iff.mpr (mt fluxBudget_bad_iff.mp (not_not_intro hok))
  refine (issue_normal hn _).trans ?_
  simp only [hgood, Bool.false_eq_true, if_false]
  rfl

theorem exec_flxcfg_traps (hn : normal (.flxcfg g team d n) s = some c) (hm : c.mayTrap s) (hbad : ¬ FluxBudgetOk (c.r.ksI n)) :
    exec (.flxcfg g team d n) s = .next (c.atTrap s 0x21 0 0) := by
  refine issue_traps hn hm ?_
  simp only [fluxBudget_bad_iff.mpr hbad, if_true]
  rfl

end

/-! ### FLXQ (R387) -/

/-- The register that FLXQ names. -/
def Gang.fluxReg (x : Gang) (sel : FlxSel) : Word :=
  match sel with
  | .pref => x.fluxPref
  | .walks => x.fluxWalks
  | .faults => x.fluxFaults
  | .passes => x.fluxPasses
  | .cfg => x.fluxBudget
/-- A gang whose counter `sel` has been cleared; the budget is none. -/
def Gang.fluxClear (x : Gang) (sel : FlxSel) : Gang :=
  match sel with
  | .pref => { x with fluxPref := 0 }
  | .walks => { x with fluxWalks := 0 }
  | .faults => { x with fluxFaults := 0 }
  | .passes => { x with fluxPasses := 0 }
  | .cfg => x

theorem exec_flxq {s : State} {c : Ctx} {g : Guard} {sel : FlxSel} {clr : Bool} {d : RegNum}
    (hn : normal (.flxq g sel clr d) s = some c) : exec (.flxq g sel clr d) s = .next
      (c.mod (if clr then (s.advance c).modGang c.gid (·.fluxClear sel) else s.advance c) fun x =>
        x.setK d.toNat (c.G.fluxReg sel)) := by
  refine (issue_normal hn _).trans ?_
  cases sel <;> rfl

/-- A write of the registers of a gang that a word has changed. -/
theorem mod_modGang_advance (s : State) (c : Ctx) (f : Gang → Gang) (r : Regs → Regs) :
    c.mod ((s.advance c).modGang c.gid f) r =
      (s.advance c).setGang c.gid { f c.gangPast with regs := r (f c.gangPast).regs } := by
  rw [State.modGang_some (gang_advance s c), Ctx.mod, State.modRegs, State.modGang_some (State.gang?_setGang ..), setGang_setGang]
theorem mod_advance (s : State) (c : Ctx) (r : Regs → Regs) :
    c.mod (s.advance c) r = (s.advance c).setGang c.gid { c.gangPast with regs := r c.past } := by
  rw [Ctx.mod, State.modRegs, State.modGang_some (gang_advance s c), gangPast_regs]

theorem fluxClear_regs (x : Gang) (sel : FlxSel) : (x.fluxClear sel).regs = x.regs := by cases sel <;> rfl

/-- The four counters of a gang past its word are the gang's, but for the one that has been cleared. -/
theorem fluxClear_gangPast (c : Ctx) (sel : FlxSel) (x : Regs) : { c.gangPast.fluxClear sel with regs := x } =
    { c.gangPast with
      regs := x
      fluxPref := if sel = .pref then 0 else c.G.fluxPref
      fluxWalks := if sel = .walks then 0 else c.G.fluxWalks
      fluxFaults := if sel = .faults then 0 else c.G.fluxFaults
      fluxPasses := if sel = .passes then 0 else c.G.fluxPasses } := by
  obtain ⟨gid, G, T, C, sec, X, next, amask, emask, ug⟩ := c
  cases sec <;> cases sel <;> rfl

/-- Settles O32: FLXCFG goes by the budget, and FLXQ reads the named register of the gang as it was. -/
theorem fluxRegisters : Obligations.FluxRegisters := by
  intro s c g d
  refine ⟨fun team n hn => ⟨fun hok => exec_flxcfg_sets hn hok, fun h0 hrange hinactive hhandler =>
    exec_flxcfg_traps hn ⟨hinactive, hhandler⟩ (not_fluxBudgetOk h0 hrange)⟩, fun sel clr hn => (exec_flxq hn).trans ?_⟩
  cases clr with
  | true =>
    simp only [if_true, mod_modGang_advance, fluxClear_regs, gangPast_regs, fluxClear_gangPast, true_and]
    rfl
  | false =>
    have hcfg := fluxClear_gangPast c .cfg (c.past.setK d.toNat (c.G.fluxReg sel))
    simp only [reduceCtorEq, if_false] at hcfg
    simp only [Bool.false_eq_true, if_false, mod_advance, false_and]
    exact congrArg (fun x => Host.Outcome.next ((s.advance c).setGang c.gid x)) hcfg

end Sys2Proof.Machine
end

section
/-!
SUPPORT. SYSC and RTE: O12.
-/
namespace Sys2Proof.Machine

/-- Ending the region of a word's team changes gangs only, and of the issuing one the open bit only (R371). -/
theorem endRegion_advance (s : State) (c : Ctx) : ∃ b gs, c.endRegion (s.advance c) = { s.advance c with gangs := gs } ∧
    ({ s.advance c with gangs := gs } : State).gang? c.gid = some { c.gangPast with rgnOpen := b } :=
  endRegion_spec (s.advance c) c.tid c.gid c.gangPast (gang_advance s c)

/-- The trap record of a slot. -/
def Gang.trapRec (x : Gang) (sec : Bool) : TrapRec := if sec then x.tr1 else x.tr0

/-- The trap record of the other slot. -/
def Gang.otherRec (x : Gang) (sec : Bool) : TrapRec := if sec then x.tr0 else x.tr1

/-- A gang that has put `r` into the record of a slot and `pc` into its PC. -/
def Gang.enters (x : Gang) (sec : Bool) (r : TrapRec) (pc : DWord) : Gang :=
  let y := if sec then { x with tr1 := r } else { x with tr0 := r }
  { y with regs := y.regs.setPc sec pc }

theorem enters_trapRec (x : Gang) (sec : Bool) (r : TrapRec) (pc : DWord) : (x.enters sec r pc).trapRec sec = r := by
  cases sec <;> rfl
theorem enters_otherRec (x : Gang) (sec : Bool) (r : TrapRec) (pc : DWord) : (x.enters sec r pc).otherRec sec = x.otherRec sec := by
  cases sec <;> rfl
theorem enters_regs (x : Gang) (sec : Bool) (r : TrapRec) (pc : DWord) : (x.enters sec r pc).regs = x.regs.setPc sec pc := by
  cases sec <;> rfl

/-- What SYSC and RTE leave: the slot's record is `r` and its PC `pc`, and the other record, the registers and memory are as they
were. -/
structure Entered (s t : State) (c : Ctx) (r : TrapRec) (pc : DWord) (H : Gang) : Prop where
  gang : t.gang? c.gid = some H
  record : H.trapRec c.sec = r
  other : H.otherRec c.sec = c.G.otherRec c.sec
  regs : H.regs = c.G.regs.setPc c.sec pc
  memory : SameMemory s t

/-- A gang past its word whose region is closed, entered at `pc`, in a state that differs in its gangs. -/
theorem entered_of_past {s : State} {c : Ctx} {gs : Store (Option Gang)} {b : Bool} {r : TrapRec} {pc : DWord} {H : Gang}
    (htr0 : H.tr0 = (({ c.gangPast with rgnOpen := b } : Gang).enters c.sec r pc).tr0)
    (htr1 : H.tr1 = (({ c.gangPast with rgnOpen := b } : Gang).enters c.sec r pc).tr1)
    (hregs : H.regs = (({ c.gangPast with rgnOpen := b } : Gang).enters c.sec r pc).regs) :
    Entered s (({ s.advance c with gangs := gs } : State).setGang c.gid H) c r pc H where
  gang := State.gang?_setGang _ _ _
  record := by
    rw [Gang.trapRec, htr0, htr1]
    exact enters_trapRec ..
  other := by
    obtain ⟨-, hpast0, hpast1⟩ := gangPast_records c
    rw [Gang.otherRec, Gang.otherRec, htr0, htr1, ← hpast0, ← hpast1]
    exact enters_otherRec ..
  regs := by
    rw [hregs, enters_regs, gangPast_regs]
    exact setPc_past c pc
  memory := .of_eq rfl rfl rfl

section
variable {s : State} {c : Ctx} {g : Guard}

/-- SYSC takes its trap past the word, with the region closed (R394, R407). -/
theorem exec_sysc {code : BitVec 7} (hn : normal (.sysc g code) s = some c) (hm : c.mayTrap s) :
    ∃ t H, exec (.sysc g code) s = .next t ∧
      Entered s t c ⟨true, 0x31, code.setWidth 8, c.amask, c.X, 0, c.next⟩ (c.tvec s &&& ~~~3) H := by
  obtain ⟨o, ho, -⟩ := checked_of_normal hn
  obtain ⟨-, -, -, hteam, -⟩ := gang_of_checked ho
  obtain ⟨hinactive, hhandler⟩ := hm
  obtain ⟨b, gs, hend, hgang⟩ := endRegion_advance s c
  obtain ⟨hpteam, htr0, htr1⟩ := gangPast_records c
  have hexec : exec (.sysc g code) s = .next (c.trapTo 0x31 code.toNat 0 c.next (c.endRegion (s.advance c))) := issue_normal hn _
  have htrap := deliver_taken hgang (T := c.T) (by rw [hpteam]; exact hteam) c.sec 0x31 code.toNat c.amask c.X 0 c.next
    (by rw [htr0, htr1]; exact hinactive) hhandler
  rw [hend, Ctx.trapTo, htrap, BitVec.ofNat_toNat] at hexec
  refine ⟨_, _, hexec, entered_of_past (Gang.setWait_tr0 _ _ _) (Gang.setWait_tr1 _ _ _) (Gang.setWait_regs _ _ _)⟩

/-- The return from an active record with a good resume address (R395). -/
theorem rte_returns {t : State} {G : Gang} (hg : t.gang? c.gid = some G) (hactive : c.record.active = true)
    (hres : codeOk c.record.res = true) :
    c.rte t = .done (t.setGang c.gid (G.enters c.sec { c.record with active := false } c.record.res)) := by
  have hrte : c.rte t = if !c.record.active then c.trap 0x06 0 t
      else if !codeOk c.record.res then .done (t.endTeam c.tid 1 c.X.toNat 0x0C)
      else .done (t.modGang c.gid fun x => x.enters c.sec { c.record with active := false } c.record.res) := rfl
  rw [hrte, hactive, hres, Bool.not_true, if_neg Bool.false_ne_true, if_neg Bool.false_ne_true, State.modGang_some hg]

/-- RTE closes its record and goes to the resume address (R395). -/
theorem exec_rte (hn : normal (.rte g) s = some c) (hactive : c.record.active = true) (hres : codeOk c.record.res = true) :
    ∃ t H, exec (.rte g) s = .next t ∧ Entered s t c { c.record with active := false } c.record.res H := by
  obtain ⟨b, gs, hend, hgang⟩ := endRegion_advance s c
  have hexec : exec (.rte g) s = settle c (c.rte (c.endRegion (s.advance c))) := issue_normal hn _
  rw [hend, rte_returns hgang hactive hres] at hexec
  exact ⟨_, _, hexec, entered_of_past rfl rfl rfl⟩

end

/-- Settles O12: both words close the region and then change the slot's record and PC, and nothing else of what it names. -/
theorem systemCallAndReturn : Obligations.SystemCallAndReturn := by
  refine fun s c => ⟨fun g code hn hinactive hhandler => ?_, fun g hn hactive hres => ?_⟩
  · obtain ⟨t, H, hexec, h⟩ := exec_sysc hn ⟨hinactive, hhandler⟩
    exact ⟨t, H, hexec, h.gang, h.record, h.other, h.regs, h.memory⟩
  · obtain ⟨t, H, hexec, h⟩ := exec_rte hn hactive hres
    exact ⟨t, H, hexec, h.gang, h.record, h.other, h.regs, h.memory⟩

end Sys2Proof.Machine
end

section
/-!
SUPPORT. The control registers: O33.
-/
namespace Sys2Proof.Machine

section
variable {s : State} {c : Ctx} {g : Guard} {b64 : Bool} {a : Src} {idx : BitVec 16}

theorem exec_mfs {d : RegNum} (hn : normal (.mfs g b64 d idx) s = some c) :
    exec (.mfs g b64 d idx) s = .next (c.mod (c.endRegion (s.advance c)) fun x =>
      if b64 then x.setK2 d.toNat (c.ctl (s.advance c) idx.toNat)
      else x.setK d.toNat ((c.ctl (s.advance c) idx.toNat).setWidth 32)) := by
  refine (issue_normal hn _).trans ?_
  cases b64 <;> rfl

/-- MTS of a register that has no RW field ends the region and nothing else (R398). -/
theorem exec_mts_readOnly (hn : normal (.mts g b64 a idx) s = some c) (h4 : idx ≠ 0x004) (h100 : idx ≠ 0x100) (h10A : idx ≠ 0x10A) :
    exec (.mts g b64 a idx) s = .next (c.endRegion (s.advance c)) := by
  have hne : ∀ k : BitVec 16, idx ≠ k → idx.toNat ≠ k.toNat := fun k h h' => h (BitVec.eq_of_toNat_eq h')
  refine (issue_normal hn _).trans ?_
  dsimp only
  split
  next h => exact absurd h (hne 0x004 h4)
  next h => exact absurd h (hne 0x100 h100)
  next h => exact absurd h (hne 0x10A h10A)
  next => rfl

end

/-- Settles O33: each word ends the region and reads or writes the register that its index names. -/
theorem controlRegisters : Obligations.ControlRegisters := by
  intro s c g e
  refine ⟨fun b64 d idx hn => exec_mfs hn, fun b64 a idx hn => ⟨?_, ?_, ?_, fun h4 h100 h10A => exec_mts_readOnly hn h4 h100 h10A⟩,
    fun a hn => issue_normal hn _, fun a hn => issue_normal hn _⟩
  all_goals
    rintro rfl
    exact issue_normal hn _

end Sys2Proof.Machine
end

section
/-!
SUPPORT. TLBI: O35.
-/
namespace Sys2Proof.Machine

section
variable {s s1 : State} {c : Ctx} {g : Guard} {range : Option (Nat × Nat)}

/-- The requests of a TLBI: one to every unfenced die of the pod (R404). -/
def Ctx.tlbiRequests (c : Ctx) (range : Option (Nat × Nat)) (s : State) : List Ev :=
  ((podDies c.T.group).filter fun d => !(s.die d).fenced).map fun d => Ev.tlbiRequest d c.tenant range c.gid

/-- A TLBI whose release is done sends its requests and waits for as many answers. -/
theorem tlbi_asks (hrel : c.release s = (none, s1)) : c.tlbi range s =
    .done (({ c.endRegion s1 with net := (c.endRegion s1).net ++ c.tlbiRequests range (c.endRegion s1) } : State).modGang c.gid
      fun g => { g.setWait c.sec .acks with acks := (c.tlbiRequests range (c.endRegion s1)).length }) := by
  simp only [Ctx.tlbi, hrel, Ctx.tlbiRequests, List.length_map]

variable {va n : Src} {p : DWord}

theorem exec_tlbiRange_good (hn : normal (.tlbiRange g va n) s = some c) (hp : c.r.ks2 va = p) (hspace : ptrSpace p = 0)
    (hgood : ptrCause p c.C.scratchBytes c.C.lr.privsz = none) (halign : p.toNat % 65536 = 0) :
    exec (.tlbiRange g va n) s = settle c (c.tlbi (some (ptrAddr p / 65536, (c.r.ks n).toNat)) (s.advance c)) := by
  refine (issue_normal hn _).trans ?_
  simp only [hp, hspace, hgood, halign, ne_eq, not_true_eq_false, if_false]

/-! The checks of the pointer, in their order (R404). -/

theorem exec_tlbiRange_badSpace (hn : normal (.tlbiRange g va n) s = some c) (hm : c.mayTrap s) (hp : c.r.ks2 va = p)
    (hspace : ptrSpace p ≠ 0) : exec (.tlbiRange g va n) s = .next (c.atTrap s 0x10 2 p) := by
  refine issue_traps hn hm ?_
  simp only [hp, hspace, ne_eq, not_false_eq_true, if_true]
theorem exec_tlbiRange_badPtr {k : Nat} (hn : normal (.tlbiRange g va n) s = some c) (hm : c.mayTrap s) (hp : c.r.ks2 va = p)
    (hspace : ptrSpace p = 0) (hbad : ptrCause p c.C.scratchBytes c.C.lr.privsz = some k) :
    exec (.tlbiRange g va n) s = .next (c.atTrap s 0x10 k p) := by
  refine issue_traps hn hm ?_
  simp only [hp, hspace, hbad, ne_eq, not_true_eq_false, if_false]
theorem exec_tlbiRange_misaligned (hn : normal (.tlbiRange g va n) s = some c) (hm : c.mayTrap s) (hp : c.r.ks2 va = p)
    (hspace : ptrSpace p = 0) (hgood : ptrCause p c.C.scratchBytes c.C.lr.privsz = none) (halign : p.toNat % 65536 ≠ 0) :
    exec (.tlbiRange g va n) s = .next (c.atTrap s 0x11 0 p) := by
  refine issue_traps hn hm ?_
  simp only [hp, hspace, hgood, halign, ne_eq, not_true_eq_false, not_false_eq_true, if_false, if_true]

end

/-- Settles O35: both forms come to one release and one list of requests; `.range` checks its pointer before. -/
theorem tlbInvalidates : Obligations.TlbInvalidates := by
  intro s s1 c g hrel t evs ask
  have hasks : ∀ range, settle c (c.tlbi range (s.advance c)) = .next (ask range) := fun range =>
    congrArg (settle c) (tlbi_asks hrel)
  refine ⟨fun hn => (issue_normal hn _).trans (hasks none), fun va n hn hspace hgood halign =>
    (exec_tlbiRange_good hn rfl hspace hgood halign).trans (hasks _), fun va n hn hm => ⟨?_, ?_, ?_⟩⟩
  · exact exec_tlbiRange_badSpace hn hm rfl
  · exact fun k => exec_tlbiRange_badPtr hn hm rfl
  · exact exec_tlbiRange_misaligned hn hm rfl

end Sys2Proof.Machine
end

section
/-!
SUPPORT. Team control: O36.
-/
namespace Sys2Proof.Machine

section
variable {s s1 : State} {c : Ctx} {g : Guard} {d : RegNum} {h : Src}

/-- The state once a word has sent its own answer, which it waits for past the word (R405). -/
def Ctx.answered (c : Ctx) (d : RegNum) (s : State) (v : Word) : State := c.askFor d (s.send (.remoteAnswer c.gid d v))

theorem settle_reply (c : Ctx) (d : RegNum) (v : Word) (s : State) : settle c (c.reply d v s) = .next (c.answered d s v) := rfl

/-! ### CTXSV (R405) -/

section
variable {e : State} (hn : normal (.ctxsv g d h) s = some c) (he : c.endRegion (s.advance c) = e)
include hn he

theorem exec_ctxsv_unknown (hnone : c.named h e = none) : exec (.ctxsv g d h) s = .next (c.answered d e 1) := by
  refine (issue_normal hn _).trans ?_
  simp only [he, hnone, settle_reply]

theorem exec_ctxsv_own {u : Team} (hown : c.named h e = some (c.tid, u)) : exec (.ctxsv g d h) s = .next (c.answered d e 3) := by
  refine (issue_normal hn _).trans ?_
  simp only [he, hown, if_true, settle_reply]

variable {k : Nat} {u : Team} (hu : c.named h e = some (k, u)) (hk : k ≠ c.tid)
include hu hk

theorem exec_ctxsv_held (hheld : u.held = true) : exec (.ctxsv g d h) s = .next (c.answered d e 2) := by
  refine (issue_normal hn _).trans ?_
  simp only [he, hu, hk, hheld, if_true, if_false, settle_reply]

variable (hfree : u.held = false)
include hfree

theorem exec_ctxsv_restart (hst : u.state = .restart) :
    exec (.ctxsv g d h) s = .next (c.answered d (e.saveRestart k).2 (e.saveRestart k).1) := by
  refine (issue_normal hn _).trans ?_
  simp only [he, hu, hk, hfree, hst, Bool.false_eq_true, if_false, settle_reply]

theorem exec_ctxsv_saved (hst : u.state = .saved ∨ u.state = .migrating) :
    exec (.ctxsv g d h) s = .next (c.answered d (e.setTeam k { u with held := true }) 0) := by
  refine (issue_normal hn _).trans ?_
  rcases hst with hst | hst <;> simp only [he, hu, hk, hfree, hst, Bool.false_eq_true, if_false, settle_reply]

theorem exec_ctxsv_stops (hst : u.state = .resident ∨ u.state = .stopping) (hend : u.ending = none) :
    exec (.ctxsv g d h) s = .next (c.askFor d
      ((e.setTeam k { u with held := true, fullReq := true, ctxsv := u.ctxsv ++ [(c.gid, d)] }).stopTeam k)) := by
  refine (issue_normal hn _).trans ?_
  rcases hst with hst | hst <;>
    simp only [he, hu, hk, hfree, hst, hend, Option.isSome_none, Bool.false_eq_true, if_false] <;> rfl

theorem exec_ctxsv_ending (hst : u.state = .resident ∨ u.state = .stopping) (hend : u.ending ≠ none) :
    exec (.ctxsv g d h) s = .next (c.askFor d (e.setTeam k { u with ctxsv := u.ctxsv ++ [(c.gid, d)] })) := by
  have hsome : u.ending.isSome = true := Option.isSome_iff_ne_none.mpr hend
  refine (issue_normal hn _).trans ?_
  rcases hst with hst | hst <;> simp only [he, hu, hk, hfree, hst, hsome, Bool.false_eq_true, if_false, if_true] <;> rfl

end

/-! ### CTXLD (R405) -/

section
variable {e : State} (hn : normal (.ctxld g d h) s = some c) (hrel : c.release (s.advance c) = (none, s1))
  (he : c.endRegion s1 = e)
include hn hrel he

theorem exec_ctxld_unknown (hnone : c.named h e = none) : exec (.ctxld g d h) s = .next (c.answered d e 1) := by
  refine (issue_normal hn _).trans ?_
  simp only [hrel, he, hnone, settle_reply]

theorem exec_ctxld_named {k : Nat} {u : Team} (hu : c.named h e = some (k, u)) : exec (.ctxld g d h) s =
    .next (if u.held then c.answered d (e.setTeam k { u with held := false }) 0 else c.answered d e 2) := by
  refine (issue_normal hn _).trans ?_
  simp only [hrel, he, hu]
  split <;> rfl

end

/-! ### HALT (R405) -/

/-- A saved team is halted where its image, when it can be read, puts it. -/
def State.haltFrom (s : State) (k : Nat) (u : Team) : State :=
  match u.state, s.loadImage k with
  | .saved, .ok t => t
  | _, _ => s

theorem haltFrom_of_unsaved {k : Nat} {u : Team} (hst : u.state ≠ .saved) : s.haltFrom k u = s := by
  unfold State.haltFrom
  split
  · exact absurd ‹_› hst
  · rfl

section
variable {e : State} (hn : normal (.halt g d h) s = some c) (he : c.endRegion (s.advance c) = e)
include hn he

theorem exec_halt_unknown (hnone : c.named h e = none) : exec (.halt g d h) s = .next (c.answered d e 1) := by
  refine (issue_normal hn _).trans ?_
  simp only [he, hnone, settle_reply]

/-- HALT of a named team: the own one gets no answer. -/
theorem exec_halt_named {k : Nat} {u : Team} (hu : c.named h e = some (k, u)) : exec (.halt g d h) s = .next
    (if k = c.tid then (e.haltFrom k u).endTeam k 6 c.X.toNat 0
      else c.askFor d (((e.haltFrom k u).modTeam k fun t => { t with halts := t.halts ++ [(c.gid, d)] }).endTeam k 6 c.X.toNat 0)) := by
  refine (issue_normal hn _).trans ?_
  simp only [he, hu]
  split <;> rfl

end

/-! ### PRIO (R405) -/

section
variable {e : State} {p : SrcI} (hn : normal (.prio g d h p) s = some c) (he : c.endRegion (s.advance c) = e)
include hn he

theorem exec_prio_unknown (hnone : e.findCohort c.C.dev c.tenant (c.r.ks h) = none) :
    exec (.prio g d h p) s = .next (c.answered d e 0xFF) := by
  refine (issue_normal hn _).trans ?_
  simp only [he, hnone, settle_reply]

variable {key : Nat} {x : Cohort} (hx : e.findCohort c.C.dev c.tenant (c.r.ks h) = some (key, x))
include hx

theorem exec_prio_tooHigh (hv : 7 < (c.r.ksI p).toNat) : exec (.prio g d h p) s = .next (c.answered d e 0xFE) := by
  refine (issue_normal hn _).trans ?_
  simp only [he, hx, hv, if_true, settle_reply]

theorem exec_prio_sets (hv : (c.r.ksI p).toNat ≤ 7) : exec (.prio g d h p) s = .next (c.answered d
    (e.modCohort key fun x => { x with
      lr := { x.lr with prio := min (c.r.ksI p).toNat ((e.tenant c.tk).sched.toNat / 2 ^ 16 % 8) } })
    (BitVec.ofNat 32 x.lr.prio)) := by
  refine (issue_normal hn _).trans ?_
  simp only [he, hx, Nat.not_lt.mpr hv, if_false, settle_reply]

end

/-- Ending the region leaves the tenants as they were. -/
theorem endRegion_tenant (s : State) (c : Ctx) (k : Nat) : (c.endRegion (s.advance c)).tenant k = s.tenant k := by
  obtain ⟨b, gs, heq, -⟩ := endRegion_advance s c
  rw [heq]
  rfl

/-! ### INTR (R406) -/

theorem exec_intr {v : SrcI} (hn : normal (.intr g d v) s = some c) (hrel : c.release (s.advance c) = (none, s1)) :
    let e := c.endRegion s1
    let n := (c.r.ksI v).toNat
    exec (.intr g d v) s = .next (if (e.tenant c.tk).msix.toNat % 256 ≤ n then c.mod e fun x => x.setK d.toNat 1
      else c.mod (e.raise c.C.dev c.tenant n) fun x => x.setK d.toNat 0) := by
  refine (issue_normal hn _).trans ?_
  simp only [hrel]
  split <;> rfl

end

/-- Settles O36: each word goes by what its hallmark or handle names once the region has ended, and by the state of that team. -/
theorem teamControl : Obligations.TeamControl := by
  intro s c g d h e answer
  refine ⟨fun hn => ⟨exec_ctxsv_unknown hn rfl, fun u => exec_ctxsv_own hn rfl, fun k u hu hk => ⟨exec_ctxsv_held hn rfl hu hk,
      fun hfree => ⟨exec_ctxsv_restart hn rfl hu hk hfree, exec_ctxsv_saved hn rfl hu hk hfree, fun hst =>
        ⟨exec_ctxsv_stops hn rfl hu hk hfree hst, exec_ctxsv_ending hn rfl hu hk hfree hst⟩⟩⟩⟩,
    fun s1 hn hrel => ⟨exec_ctxld_unknown hn hrel rfl, fun k u => exec_ctxld_named hn hrel rfl⟩,
    fun hn => ⟨exec_halt_unknown hn rfl, fun u hu hst => ?_, fun k u hu hk => ?_⟩, fun p hn => ⟨exec_prio_unknown hn rfl,
      fun key x hx => ⟨exec_prio_tooHigh hn rfl hx, fun hv => ?_⟩⟩, fun entry img hn => issue_normal hn _,
    fun v s1 hn hrel => exec_intr hn hrel⟩
  · rw [exec_halt_named hn rfl hu, if_pos rfl, haltFrom_of_unsaved hst]
  · rw [exec_halt_named hn rfl hu, if_neg hk]
    rfl
  · rw [exec_prio_sets hn rfl hx hv, endRegion_tenant]
    rfl

end Sys2Proof.Machine
end

section
/-!
SUPPORT. The issue of timed sends: O22.
-/
namespace Sys2Proof.Machine

/-- The first check of a plan is that of its first pointer. -/
theorem copyFail_of_firstPtr {p : CopyPlan} {a : DWord} {rest : List (DWord × Bool)} {scr priv k : Nat}
    (hp : p.ptrs = (a, false) :: rest) (hspace : ptrSpace a ≠ 2) (hk : ptrCause a scr priv = some k) :
    p.fail scr priv = some (0x10, k, a) := by
  simp only [CopyPlan.fail, hp, List.findSome?_cons, hspace, hk, decide_false, Bool.false_and, Bool.or_self, Bool.false_eq_true,
    if_false, Option.map_some]

/-- A plan that passes its checks has a good first pointer. -/
theorem ptrCause_of_copyPass {p : CopyPlan} {a : DWord} {rest : List (DWord × Bool)} {scr priv : Nat}
    (hp : p.ptrs = (a, false) :: rest) (hspace : ptrSpace a ≠ 2) (hpass : p.fail scr priv = none) :
    ptrCause a scr priv = none :=
  Option.eq_none_iff_forall_ne_some.mpr fun _ hk => Option.some_ne_none _ ((copyFail_of_firstPtr hp hspace hk).symm.trans hpass)

/-! ### The queue of a die (R431) -/

/-- Whether a transfer is a timed send. -/
def Xfer.isSend (x : Xfer) : Bool :=
  match x.kind with
  | .tsnd .. => true
  | _ => false
/-- The timed sends of a die that have not begun. -/
def State.sendsQueued (s : State) (di : Nat) : List Xfer := s.xfers.filter fun x => x.die = di && !x.begun && x.isSend

/-- A timed send whose checks pass waits for its places, or takes them: its group counts it, and its destination is owed. -/
def Ctx.queueSend (c : Ctx) (p : CopyPlan) (grp : Nat) (d : RegNum) (mk : Nat → Xfer) (s : State) : Res :=
  if 256 ≤ (s.sendsQueued c.die).length then .wait .queue s
  else if !s.boardRoom c.T p.board.length then .wait .board s
  else .done (c.endRegion ((c.queued s p grp mk true).owe c.gid s.nextId (([.k d.toNat] : List RegRef).filter fun r => !r.fixed)))

theorem queueSend_queues {c : Ctx} {p : CopyPlan} {grp : Nat} {d : RegNum} {mk : Nat → Xfer} {s : State}
    (hqueue : (s.sendsQueued c.die).length < 256) (hboard : s.boardRoom c.T p.board.length = true) :
    c.queueSend p grp d mk s = .done (c.endRegion ((c.queued s p grp mk true).owe c.gid s.nextId
      (if d = 127 then [] else [.k d.toNat]))) := by
  have howed : (([.k d.toNat] : List RegRef).filter fun r => !r.fixed) = if d = 127 then [] else [.k d.toNat] := by
    by_cases hd : d = 127
    · rw [if_pos hd, hd]
      rfl
    · have hnat : d.toNat ≠ 127 := fun h => hd (BitVec.eq_of_toNat_eq h)
      rw [if_neg hd]
      simp only [List.filter_cons, RegRef.fixed, hnat, decide_false, Bool.not_false, if_true, List.filter_nil]
  simp only [Ctx.queueSend, Nat.not_le.mpr hqueue, hboard, Bool.not_true, Bool.false_eq_true, if_false, howed]

/-! ### TSND (R431) -/

section
variable {s : State} {c : Ctx} {g : Guard} {d : RegNum} {grp : BitVec 3} {src dst t : Src} {len : Word} {pol : PolOv} {a b : DWord}
  (hn : normal (.tsnd g d grp src dst t len pol) s = some c) (ha : c.r.ks2 src = a) (hb : c.r.ks2 dst = b)

include hn ha in
theorem exec_tsnd_sourceSpace (hm : c.mayTrap s) (hfrom : ¬ (ptrSpace a = 0 ∨ ptrSpace a = 1)) :
    exec (.tsnd g d grp src dst t len pol) s = .next (c.atTrap s 0x10 2 a) := by
  refine issue_traps hn hm ?_
  simp only [ha, neither_true hfrom, if_true]

include hn ha hb

theorem exec_tsnd_destinationSpace (hm : c.mayTrap s) (hfrom : ptrSpace a = 0 ∨ ptrSpace a = 1)
    (hgood : ptrCause a c.C.scratchBytes c.C.lr.privsz = none) (hto : ¬ (ptrSpace b = 3 ∨ ptrSpace b = 6)) :
    exec (.tsnd g d grp src dst t len pol) s = .next (c.atTrap s 0x10 2 b) := by
  refine issue_traps hn hm ?_
  simp only [ha, hb, neither_false hfrom, hgood, neither_true hto, Bool.false_eq_true, if_false, if_true]

variable (hfrom : ptrSpace a = 0 ∨ ptrSpace a = 1) (hto : ptrSpace b = 3 ∨ ptrSpace b = 6)
include hfrom hto

omit hn ha hb hto in
theorem source_not_private : ptrSpace a ≠ 2 := by
  omega

/-- The first check of the plan that fails is the trap: TSND's own check of the source is the plan's first. -/
theorem exec_tsnd_fails {code cause : Nat} {addr : DWord} (hm : c.mayTrap s)
    (hfail : (tsndPlan a b len.toNat).fail c.C.scratchBytes c.C.lr.privsz = some (code, cause, addr)) :
    exec (.tsnd g d grp src dst t len pol) s = .next (c.atTrap s code cause addr) := by
  refine issue_traps hn hm ?_
  cases hcause : ptrCause a c.C.scratchBytes c.C.lr.privsz with
  | some k =>
    have hfirst := copyFail_of_firstPtr (p := tsndPlan a b len.toNat) rfl (source_not_private hfrom) hcause
    cases hfirst.symm.trans hfail
    simp only [ha, neither_false hfrom, hcause, Bool.false_eq_true, if_false]
  | none =>
    simp only [ha, hb, neither_false hfrom, hcause, neither_false hto, hfail, Bool.false_eq_true, if_false]

theorem exec_tsnd_passes (hpass : (tsndPlan a b len.toNat).fail c.C.scratchBytes c.C.lr.privsz = none) :
    exec (.tsnd g d grp src dst t len pol) s = settle c (c.queueSend (tsndPlan a b len.toNat) grp.toNat d
      (c.xfer (.tsnd (c.r.ks2 t).toNat len.toNat d) a b 0 (if (c.r.ks2 t).toNat < s.time then 1 else 0) 0 0 pol) (s.advance c)) := by
  have hgood := ptrCause_of_copyPass (p := tsndPlan a b len.toNat) rfl (source_not_private hfrom) hpass
  refine (issue_normal hn _).trans (congrArg (settle c) ?_)
  simp only [ha, hb, neither_false hfrom, hgood, neither_false hto, hpass, Bool.false_eq_true, if_false]
  rfl

end

/-- Settles O22: TSND runs through its own checks and the plan's in their order, and then takes its places. -/
theorem timedSendIssue : Obligations.TimedSendIssue := by
  intro s c g d grp src dst t len pol hn a b p from_ to_
  refine ⟨fun hm => ⟨exec_tsnd_sourceSpace hn rfl hm, exec_tsnd_destinationSpace hn rfl rfl hm, fun code cause addr hfrom hto =>
    exec_tsnd_fails hn rfl rfl hfrom hto hm⟩, fun hfrom hto hpass hqueue hboard => ?_⟩
  exact (exec_tsnd_passes hn rfl rfl hfrom hto hpass).trans (congrArg (settle c) (queueSend_queues (s := s.advance c) hqueue hboard))

end Sys2Proof.Machine
end

section
/-!
SUPPORT. The fabric's words: O37.
-/
namespace Sys2Proof.Machine

/-! ### TIME and CNQ (R418, R427, R430) -/

/-- A measured spread is one that R418 allows, and takes one free value. -/
theorem spreadNow_eq (s : State) : s.spreadNow = ((Config.freeWord s.fresh).toNat % 51, { s with fresh := s.fresh + 1 }) := rfl
theorem spreadNow_le (s : State) : s.spreadNow.1 ≤ 50 := Nat.le_of_lt_succ (Nat.mod_lt _ (by decide))

section
variable {s : State} {c : Ctx} {g : Guard}

theorem exec_timeSkew {d : RegNum} (hn : normal (.timeSkew g d) s = some c) : exec (.timeSkew g d) s =
    .next (c.mod { s.advance c with fresh := s.fresh + 1 } fun x => x.setK d.toNat (BitVec.ofNat 32 (s.advance c).spreadNow.1)) :=
  issue_normal hn _

/-- The spread fits the register. -/
theorem spreadWord_le (s : State) : (BitVec.ofNat 32 s.spreadNow.1).toNat ≤ 50 :=
  Nat.le_trans (Nat.mod_le _ _) (spreadNow_le s)

theorem exec_cnq {d : RegNum} {n : SrcI} (hn : normal (.cnq g d n) s = some c) (hlt : (c.r.ksI n).toNat < 64) :
    exec (.cnq g d n) s = .next (s.put c (c.past.setK d.toNat
      (rateWord (Store.get none (s.dieNow c.die).rates (c.r.ksI n).toNat)))) := by
  have hfits : ¬ 63 < (c.r.ksI n).toNat := Nat.not_lt.mpr (Nat.le_of_lt_succ hlt)
  refine issue_putsK hn ?_
  simp only [hfits, if_false]
  rfl
theorem exec_cnq_traps {d : RegNum} {n : SrcI} (hn : normal (.cnq g d n) s = some c) (hge : 64 ≤ (c.r.ksI n).toNat)
    (hm : c.mayTrap s) : exec (.cnq g d n) s = .next (c.atTrap s 0x1D 1 0) :=
  issue_traps hn hm (if_pos (Nat.lt_of_succ_le hge))

/-! ### Words under the grant (R426) -/

/-- The fabric words that need the grant. -/
def NeedsGrant (g : Guard) (i : Instr) : Prop := (∃ ptr slot, i = .slotw g ptr slot) ∨ (∃ t, i = .linkcOn g t) ∨ i = .linkcOff g

theorem exec_ungranted {i : Instr} (hi : NeedsGrant g i) (hn : normal i s = some c) (hgrant : c.granted s = false) (hm : c.mayTrap s) :
    exec i s = .next (c.atTrap s 0x22 1 0) := by
  have hnot : (!c.granted (s.advance c)) = true := congrArg not hgrant
  rcases hi with ⟨ptr, slot, rfl⟩ | ⟨t, rfl⟩ | rfl <;> exact issue_traps hn hm (if_pos hnot)

/-- With the grant the check of R426 lets a word go on. -/
theorem not_ungranted (hgrant : c.granted s = true) : (!c.granted (s.advance c)) = false := congrArg not hgrant

/-! ### SLOTW (R422, R428) -/

section
variable {ptr slot : Src} {t : State} (hn : normal (.slotw g ptr slot) s = some c) (hgrant : c.granted s = true)
include hn hgrant

theorem exec_slotw_faults {f : LaneFault} (hread : c.fetch (c.slotReq ptr) (s.advance c) = .flt f t) :
    exec (.slotw g ptr slot) s = .next (c.laneTrap (c.allFault f.code f.cause f.addr) t).2 := by
  refine (issue_normal hn _).trans ?_
  simp only [not_ungranted hgrant, hread, Bool.false_eq_true, if_false]
  rfl

variable {bs : List Byte} (hread : c.fetch (c.slotReq ptr) (s.advance c) = .bytes bs t)
include hread

theorem exec_slotw_bad (hbad : 16 ≤ (c.r.ks slot).toNat ∨ slotBad (BitVec.ofNat 128 (ofBytes bs)) c.T.group = true) :
    exec (.slotw g ptr slot) s = .next (c.trapTo 0x22 2 0 c.X t) := by
  have htest : (15 < (c.r.ks slot).toNat || slotBad (BitVec.ofNat 128 (ofBytes bs)) c.T.group) = true := by
    rw [Bool.or_eq_true, decide_eq_true_eq]
    exact hbad
  refine (issue_normal hn _).trans ?_
  simp only [not_ungranted hgrant, hread, htest, Bool.false_eq_true, if_false, if_true]
  rfl

variable (hslot : (c.r.ks slot).toNat < 16) (hdesc : slotBad (BitVec.ofNat 128 (ofBytes bs)) c.T.group = false)
include hslot hdesc

omit hn hgrant hread in
theorem slot_good : (15 < (c.r.ks slot).toNat || slotBad (BitVec.ofNat 128 (ofBytes bs)) c.T.group) = false := by
  rw [hdesc, Bool.or_false]
  exact decide_eq_false (Nat.not_lt.mpr (Nat.le_of_lt_succ hslot))

theorem exec_slotw_running (hrun : (t.dev c.dev).run = true) :
    exec (.slotw g ptr slot) s = .next (c.trapTo 0x22 4 0 c.X t) := by
  refine (issue_normal hn _).trans ?_
  simp only [not_ungranted hgrant, hread, slot_good hslot hdesc, hrun, Bool.false_eq_true, if_false, if_true]
  rfl

/-- A good descriptor goes to the 32 devices of the pod, and the gang waits for as many answers. -/
theorem exec_slotw_sends (hrun : (t.dev c.dev).run = false) :
    let evs := (podDevs c.T.group).map fun d => Ev.slotTableWrite d (c.r.ks slot).toNat (BitVec.ofNat 128 (ofBytes bs)) c.gid
    exec (.slotw g ptr slot) s = .next (({ t with net := t.net ++ evs } : State).modGang c.gid fun g =>
      { g.setWait c.sec .acks with acks := 32 }) := by
  refine (issue_normal hn _).trans ?_
  simp only [not_ungranted hgrant, hread, slot_good hslot hdesc, hrun, Bool.false_eq_true, if_false]
  rfl

end

/-! ### LINKC `.on` and `.off` (R424) -/

section
variable {t : Src} (hn : normal (.linkcOn g t) s = some c) (hgrant : c.granted s = true)
include hn hgrant

/-- A start that comes too soon, or of a rotation without a slot. -/
theorem exec_linkcOn_late (hm : c.mayTrap s) (hlate : (c.r.ks2 t).toNat < s.time + 10000 ∨ (s.dev c.dev).rotation = []) :
    exec (.linkcOn g t) s = .next (c.atTrap s 0x22 5 0) := by
  have htest : ((c.r.ks2 t).toNat < s.time + 10000 || (s.dev c.dev).rotation.isEmpty) = true := by
    rw [Bool.or_eq_true, decide_eq_true_eq, List.isEmpty_iff]
    exact hlate
  refine issue_traps hn hm ((if_neg ?_).trans (if_pos htest))
  exact Bool.eq_false_iff.mp (not_ungranted hgrant)

variable (htime : s.time + 10000 ≤ (c.r.ks2 t).toNat) (hrot : (s.dev c.dev).rotation ≠ [])
include htime hrot

omit hn hgrant in
theorem start_inTime : ¬ ((c.r.ks2 t).toNat < s.time + 10000 || (s.dev c.dev).rotation.isEmpty) = true := by
  rw [Bool.or_eq_true, decide_eq_true_eq, List.isEmpty_iff]
  exact fun h => h.elim (Nat.not_lt.mpr htime) hrot

/-- A start while the devices of the pod differ in their slots. -/
theorem exec_linkcOn_differ (hm : c.mayTrap s) (hslots : ∃ k ∈ podDevs c.T.group, (s.dev k).slots ≠ (s.dev c.dev).slots) :
    exec (.linkcOn g t) s = .next (c.atTrap s 0x22 4 0) := by
  have htest : ((podDevs c.T.group).any fun k => (s.dev k).slots ≠ (s.dev c.dev).slots) = true := by
    simpa only [List.any_eq_true, decide_eq_true_eq] using hslots
  refine issue_traps hn hm ((if_neg ?_).trans ((if_neg (start_inTime htime hrot)).trans (if_pos htest)))
  exact Bool.eq_false_iff.mp (not_ungranted hgrant)

/-- A smallest guard of 50 ns is no less than any spread, so the start of the whole pod is set. -/
theorem exec_linkcOn_starts (hslots : ∀ k ∈ podDevs c.T.group, (s.dev k).slots = (s.dev c.dev).slots)
    (hguard : 50 ≤ (s.dev c.dev).minGuard) :
    exec (.linkcOn g t) s = .next (({ s.advance c with fresh := s.fresh + 1 } : State).modPod c.T.group fun d =>
      { d with startAt := ((c.r.ks2 t).toNat + 999) / 1000 * 1000, spstop := false, stopAt := none }) := by
  have htest : ¬ ((podDevs c.T.group).any fun k => (s.dev k).slots ≠ (s.dev c.dev).slots) = true := by
    simpa only [List.any_eq_true, decide_eq_true_eq, not_exists, not_and, ne_eq, Classical.not_not] using hslots
  have hspread : ¬ (s.dev c.dev).minGuard < (s.advance c).spreadNow.1 := Nat.not_lt.mpr (Nat.le_trans (spreadNow_le _) hguard)
  refine (issue_normal hn _).trans (congrArg (settle c) ((if_neg ?_).trans ((if_neg (start_inTime htime hrot)).trans
    ((if_neg htest).trans (if_neg hspread)))))
  exact Bool.eq_false_iff.mp (not_ungranted hgrant)

end

theorem exec_linkcOff (hn : normal (.linkcOff g) s = some c) (hgrant : c.granted s = true) :
    exec (.linkcOff g) s = .next ((s.advance c).modPod c.T.group fun d =>
      if d.run then { d with stopAt := some (d.stopAt.getD (d.rotEnd s.time, false)) } else { d with startAt := 0 }) := by
  refine (issue_normal hn _).trans (congrArg (settle c) (if_neg ?_))
  exact Bool.eq_false_iff.mp (not_ungranted hgrant)

end

/-- Settles O37: the words under the grant run through the checks of R426 in their order; the others read or draw one value. -/
theorem fabricWords : Obligations.FabricWords := by
  intro s c g
  refine ⟨fun d hn => ⟨_, spreadWord_le _, exec_timeSkew hn⟩, fun d n hn => exec_cnq hn,
    fun ptr slot hn hgrant bs t hread => exec_slotw_sends hn hgrant hread,
    fun t hn hgrant => exec_linkcOn_starts hn hgrant, exec_linkcOff, fun d n hn => exec_cnq_traps hn,
    fun i hi => exec_ungranted hi, fun ptr slot bs t hn hgrant hm hread => ⟨exec_slotw_bad hn hgrant hread, fun hgood hrun => ?_⟩,
    fun ptr slot f t hn hgrant => exec_slotw_faults hn hgrant, fun x hn hgrant hm =>
      ⟨exec_linkcOn_late hn hgrant hm, fun hsoon hslots => ?_⟩⟩
  · obtain ⟨hslot, hdesc⟩ := not_or.mp hgood
    exact exec_slotw_running hn hgrant hread (Nat.not_le.mp hslot) (Bool.eq_false_iff.mpr hdesc) hrun
  · obtain ⟨htime, hrot⟩ := not_or.mp hsoon
    exact exec_linkcOn_differ hn hgrant (Nat.not_lt.mp htime) hrot hm hslots

end Sys2Proof.Machine
end

section
/-!
SUPPORT. The events of launch, dispatch and movement: O47.
-/
namespace Sys2Proof.Machine

/-! ### What the taking of a message leaves -/

/-- Taking a message out of the network changes the network alone. -/
theorem take_eq {e : Ev} {s s1 : State} (h : s.take e = some s1) : s1 = { s with net := s.net.erase e } := by
  unfold State.take at h
  split at h <;> cases h
  rfl
theorem take_team {e : Ev} {s s1 : State} (h : s.take e = some s1) (k : Nat) : s1.team? k = s.team? k := by
  rw [take_eq h]
  rfl

/-! ### Dependences and dispatch (R354, R358) -/

section
variable {s : State} {ck : Nat} {c : Cohort}

/-- The status of the cohort that a dependence of another names: 0 where it names none, and nothing while it has not finished. -/
def State.depStatus (s : State) (c : Cohort) (d : Word) : Option Nat :=
  if d = 0 then some 0 else ((s.findCohort c.dev c.tenant d).bind fun p => p.2.status)

variable (hc : s.cohort? ck = some c) (he : s.curEv = some (.cohortDependenceMet ck)) (hst : c.state = .depwait)
include hc he hst

theorem exec_cohortDependenceMet_fails
    (hfail : c.depFail = true ∨ (∃ n, s.depStatus c c.lr.dep0 = some n ∧ n ≠ 0) ∨ (∃ n, s.depStatus c c.lr.dep1 = some n ∧ n ≠ 0)) :
    exec .cohortDependenceMet s = .next (s.finishCohort ck .cancelled) := by
  have hany : ∀ o : Option Nat, (∃ n, o = some n ∧ n ≠ 0) → o.any (· ≠ 0) = true := by
    rintro _ ⟨n, rfl, hn⟩
    exact decide_eq_true hn
  have htest : (c.depFail || (s.depStatus c c.lr.dep0).any (· ≠ 0) || (s.depStatus c c.lr.dep1).any (· ≠ 0)) = true := by
    rcases hfail with h | h | h
    · rw [h, Bool.true_or, Bool.true_or]
    · rw [hany _ h, Bool.or_true, Bool.true_or]
    · rw [hany _ h, Bool.or_true]
  unfold State.depStatus at htest
  simp only [exec, execCohortDependenceMet, he, hc, hst, htest, ne_eq, not_true_eq_false, if_false, if_true]

theorem exec_cohortDependenceMet_dispatches (hclear : c.depFail = false) (h0 : s.depStatus c c.lr.dep0 = some 0)
    (h1 : s.depStatus c c.lr.dep1 = some 0) :
    exec .cohortDependenceMet s = .next (s.newId.2.modCohort ck fun x => { x with state := .dispatch, order := s.nextId }) := by
  unfold State.depStatus at h0 h1
  simp only [exec, execCohortDependenceMet, he, hc, hst, hclear, h0, h1, ne_eq, not_true_eq_false, if_false, Option.any_some, decide_false,
    decide_true, Bool.or_self, Bool.and_self, Bool.false_eq_true, if_true]
  rfl

end

/-- The next team of the first cohort of a device joins the shortest queue of the die that takes it. -/
theorem exec_teamDispatch {s : State} {ck di : Nat} {c : Cohort} (hc : s.cohort? ck = some c) (he : s.curEv = some (.teamDispatch ck))
    (hst : c.state = .dispatch) (hplaced : c.placed < c.lr.nteams) (hfirst : s.laterCohort ck c = false)
    (hboot : (s.dev c.dev).boot = none) (hdie : s.pickDie c = some di) :
    let k := (s.queueCore di).getD 0
    exec .teamDispatch s = .next (((s.newId.2.setTeam s.nextId
      { cohort := ck, tidx := c.placed, die := di, startQ := k, since := s.time }).modCore (coreKey di k) fun x =>
        { x with startQ := x.startQ ++ [s.nextId] }).modCohort ck fun x => { x with placed := x.placed + 1 }) := by
  simp only [exec, execTeamDispatch, he, State.dispatchTeam, hc, hst, hfirst, hboot, hdie, Nat.not_le.mpr hplaced, ne_eq,
    not_true_eq_false, decide_false, Option.isSome_none, Bool.or_self, Bool.false_eq_true, if_false]
  rfl

/-! ### Stealing (R364) -/

theorem exec_stealRequest {s : State} {thief victim : Nat} (he : s.curEv = some (.stealRequest thief victim))
    (hdie : thief / 48 = victim / 48) (hne : thief ≠ victim) (hidle : s.idleCore thief = true) (hempty : (s.core thief).startQ = [])
    (hfence : (s.die (thief / 48)).fenced = false) (hq : (s.core victim).startQ ≠ [])
    (hlong : ∀ k < 48, (s.core (coreKey (victim / 48) k)).startQ.length ≤ (s.core victim).startQ.length) :
    let q := (s.core victim).startQ
    let n := (q.length + 1) / 2
    exec .stealRequest s =
      .next ((s.modCore victim fun x => { x with startQ := q.drop n }).send (.stealReply thief (q.take n))) := by
  have hlongest : ((List.range 48).all fun k => (s.core (coreKey (victim / 48) k)).startQ.length ≤ (s.core victim).startQ.length) =
      true := List.all_eq_true.mpr fun k hk => decide_eq_true (hlong k (List.mem_range.mp hk))
  have hsome : (s.core victim).startQ.isEmpty = false := List.isEmpty_eq_false_iff.mpr hq
  rw [hdie] at hfence
  simp only [exec, execStealRequest, he, hdie, hne, hidle, hempty, hfence, hsome, hlongest, ne_eq, not_true_eq_false, decide_false,
    Bool.not_true, Bool.or_self, Bool.false_eq_true, if_false, List.isEmpty_nil]

/-- A team that a thief has taken. -/
def Team.stolenBy (t : Team) (thief : Nat) : Team := { t with stolen := true, startQ := thief % 48 }

/-- The state once a thief has taken teams into its queue. -/
def State.stealInto (s : State) (thief : Nat) (ts : List Nat) : State :=
  (ts.foldl (fun s k => s.modTeam k fun x => x.stolenBy thief) s).modCore thief fun x => { x with startQ := x.startQ ++ ts }

theorem team?_modTeam_other (s : State) {k j : Nat} (f : Team → Team) (h : j ≠ k) : (s.modTeam k f).team? j = s.team? j := by
  unfold State.modTeam
  split
  · exact State.team?_setTeam_other s _ h
  · rfl

/-- A change of some teams, each named once. -/
theorem foldl_modTeam_team? {f : Team → Team} {ts : List Nat} (hnodup : ts.Nodup) (s : State) (k : Nat) :
    (ts.foldl (fun s k => s.modTeam k f) s).team? k = (s.team? k).map fun t => if k ∈ ts then f t else t := by
  induction ts generalizing s with
  | nil => simp only [List.foldl_nil, List.not_mem_nil, if_false, Option.map_id']
  | cons a ts ih =>
    obtain ⟨ha, hts⟩ := List.nodup_cons.mp hnodup
    rw [List.foldl_cons, ih hts]
    by_cases hk : k = a
    · subst hk
      simp only [State.team?_modTeam, ha, List.mem_cons, true_or, if_true, if_false, Option.map_id']
    · simp only [team?_modTeam_other s f hk, List.mem_cons, hk, false_or]

theorem foldl_modTeam_core {f : Team → Team} (ts : List Nat) (s : State) (k : Nat) :
    (ts.foldl (fun s k => s.modTeam k f) s).core k = s.core k := by
  induction ts generalizing s with
  | nil => rfl
  | cons a ts ih => exact (ih _).trans (State.modTeam_read_core ..)

theorem stealInto_queue (s : State) (thief : Nat) (ts : List Nat) :
    ((s.stealInto thief ts).core thief).startQ = (s.core thief).startQ ++ ts := by
  rw [State.stealInto, State.core_modCore, foldl_modTeam_core]
theorem stealInto_team {s : State} {thief : Nat} {ts : List Nat} (hnodup : ts.Nodup) {k : Nat} {t : Team} (ht : s.team? k = some t) :
    (s.stealInto thief ts).team? k = some (if k ∈ ts then t.stolenBy thief else t) := by
  rw [State.stealInto, State.modCore_read_team, foldl_modTeam_team? hnodup, ht]
  rfl

/-- The teams of a reply that still wait join the thief's queue as far as its 16 places go. -/
theorem exec_stealReply {s s1 : State} {thief : Nat} {ts : List Nat} (ha : Arrives (.stealReply thief ts) s s1)
    (hwait : ∀ k ∈ ts, ∃ t, s1.team? k = some t ∧ t.state = .waiting) :
    let n := 16 - (s1.core thief).startQ.length
    let u := s1.stealInto thief (ts.take n)
    exec .stealReply s = .next (if ts.drop n = [] then u else u.send (.stealReply thief (ts.drop n))) := by
  have hlive : (ts.filter fun k => (s1.team? k).any fun t => t.state = .waiting) = ts := List.filter_eq_self.mpr fun k hk => by
    obtain ⟨t, ht, hst⟩ := hwait k hk
    rw [ht]
    exact decide_eq_true hst
  simp only [exec, execStealReply, curEv_of_arrives ha, receive_of_arrives ha, hlive, List.isEmpty_iff]
  rfl

/-! ### Starts (R359) -/

section
variable {s : State} {tid : Nat} {t : Team} {c : Cohort} (ht : s.team? tid = some t) (hc : s.cohort? t.cohort = some c)
include ht hc

section
variable (he : s.curEv = some (.teamStart tid)) (hqueue : s.inQueue tid t = true) (hfirst : s.stoppedFirst t.die c.lr.prio none = false)
include he hqueue hfirst

theorem exec_teamStart_alone (hco : c.lr.cosched = false) : exec .teamStart s = .next ((s.startTeam tid).getD s) := by
  simp only [exec, execTeamStart, he, ht, hc, hqueue, hfirst, hco, Bool.not_true, Bool.or_self, Bool.false_eq_true, if_false]

/-- A COSCHED cohort starts all its teams or none. -/
theorem exec_teamStart_all {x : State} (hco : c.lr.cosched = true) (hall : s.startAll t.cohort = some x) :
    exec .teamStart s = .next (if s.stoppedAmong x t.cohort c.lr.prio = true then s else x) := by
  simp only [exec, execTeamStart, he, ht, hc, hqueue, hfirst, hco, hall, Bool.not_true, Bool.or_self, Bool.false_eq_true, if_false,
    if_true]
theorem exec_teamStart_none (hco : c.lr.cosched = true) (hall : s.startAll t.cohort = none) : exec .teamStart s = .next s := by
  simp only [exec, execTeamStart, he, ht, hc, hqueue, hfirst, hco, hall, Bool.not_true, Bool.or_self, Bool.false_eq_true, if_false,
    if_true]

end

/-! ### Migration (R365, R366) -/

theorem exec_overloadMigration {di : Nat} (he : s.curEv = some (.overloadMigration tid di)) (hmay : s.mayMove t c di = true)
    (hqueue : t.state = .waiting → s.inQueue tid t = true) :
    exec .overloadMigration s = .next ((((s.modCore (coreKey t.die t.startQ) fun x =>
      { x with startQ := x.startQ.erase tid }).setTeam tid { t with state := .migrating }).send (.teamInstall tid di))) := by
  have htest : (t.state = .waiting && !s.inQueue tid t) = false := by
    rw [Bool.and_eq_false_imp]
    exact fun hst => by rw [hqueue (of_decide_eq_true hst)]; rfl
  simp only [exec, execOverloadMigration, he, ht, hc, hmay, htest, Bool.not_true, Bool.or_self, Bool.false_eq_true, if_false]

end

theorem exec_teamInstall {s s1 : State} {tid di : Nat} {t : Team} (ha : Arrives (.teamInstall tid di) s s1) (ht : s.team? tid = some t)
    (hst : t.state = .migrating) :
    exec .teamInstall s = .next (s1.installTeam tid (if (s1.die di).fenced = true then t.die else di) t) := by
  simp only [exec, execTeamInstall, curEv_of_arrives ha, receive_of_arrives ha, take_team ha.2, ht, hst, ne_eq, not_true_eq_false,
    if_false]

/-- A team that has not started joins a start queue of the die, or is sent to it again. -/
theorem installTeam_new {s : State} {tid di : Nat} {t : Team} (hhall : t.hall = 0) : s.installTeam tid di t =
    match s.queueCore di with
    | some k => (s.setTeam tid { t with state := .waiting, die := di, startQ := k, stolen := false, since := s.time }).modCore
        (coreKey di k) fun x => { x with startQ := x.startQ ++ [tid] }
    | none => s.send (.teamInstall tid di) := by
  rw [State.installTeam, if_pos hhall]
  cases s.queueCore di <;> rfl

/-- A team that has started keeps its image, and takes the stores that were held for it. -/
theorem installTeam_saved {s : State} {tid di : Nat} {t : Team} (hhall : t.hall ≠ 0) :
    let mig := t.tmig.map fun m => { m with target := if m.target = 9 ∨ di = m.origin then 9 else di % 8 }
    s.installTeam tid di t = t.fwdQ.foldl (fun s m => s.inImage tid fun s => s.deliverStore tid m)
      (s.setTeam tid { t with state := .saved, die := di, fwdQ := [], tmig := mig, since := s.time }) := by
  rw [State.installTeam, if_neg hhall]
  simp only [Bool.or_eq_true, decide_eq_true_eq]

section
variable {s : State} {tid : Nat} {t : Team} {m : Tmig} (ht : s.team? tid = some t) (hm : t.tmig = some m) (hst : t.state = .saved)
  (htill : m.till ≤ s.time) (htarget : m.target ≠ 9) (he : s.curEv = some (.tmigFallback tid))
include ht hm hst htill htarget he

omit ht htill he in
theorem backAt_eq : t.backAt = some m.till := by
  simp only [Team.backAt, hm, hst, htarget, Option.bind_some, ne_eq, not_false_eq_true, decide_true, Bool.and_self, if_true]

theorem exec_tmigFallback_home (hdie : t.die = m.origin) :
    exec .tmigFallback s = .next (s.setTeam tid { t with tmig := some { m with target := 9 } }) := by
  simp only [exec, execTmigFallback, he, ht, hm, backAt_eq hm hst htarget, Nat.not_lt.mpr htill, hdie, if_false, if_true]
theorem exec_tmigFallback_away (hdie : t.die ≠ m.origin) : exec .tmigFallback s =
    .next ((s.setTeam tid { t with state := .migrating, tmig := some { m with target := 9 } }).send (.teamInstall tid m.origin)) := by
  simp only [exec, execTmigFallback, he, ht, hm, backAt_eq hm hst htarget, Nat.not_lt.mpr htill, hdie, if_false]

end

/-! ### Stops and what follows them (R368–R370, R373, R396, R403) -/

section
variable {s : State} {tid : Nat} {t : Team} {c : Cohort}

theorem exec_regionRestart_done {u : State} (he : s.curEv = some (.regionRestart tid)) (hu : s.restartTeam tid = some u) :
    exec .regionRestart s = .next (u.teamLeaves tid) := by
  simp only [exec, execRegionRestart, he, hu]
theorem exec_fullSave_ends {u : State} (he : s.curEv = some (.fullSave tid)) (hend : s.finishEnding tid = some u) :
    exec .fullSave s = .next u := by
  simp only [exec, execFullSave, he, hend, Option.some_or]

variable (ht : s.team? tid = some t)
include ht

/-- A team whose end is not due is not ended by FULL_SAVE. -/
theorem finishEnding_none (hend : t.ending = none) : s.finishEnding tid = none := by
  simp only [State.finishEnding, ht, hend]
theorem exec_fullSave_saves {u : State} (he : s.curEv = some (.fullSave tid)) (hend : t.ending = none)
    (hsave : s.saveTeam tid = some u) : exec .fullSave s = .next (u.teamLeaves tid) := by
  simp only [exec, execFullSave, he, finishEnding_none ht hend, hsave, Option.map_some, Option.none_or]
theorem exec_fullSave_publishes (he : s.curEv = some (.fullSave tid)) (hend : t.ending = none) (hsave : s.saveTeam tid = none)
    (hst : t.state = .stopping) : exec .fullSave s = .next (s.publishTeam t).2 := by
  simp only [exec, execFullSave, he, finishEnding_none ht hend, hsave, Option.map_none, Option.none_or, ht, hst, if_true]

theorem exec_teamRestore {u : State} (he : s.curEv = some (.teamRestore tid)) (hret : t.returnable = true)
    (hfence : (s.die t.die).fenced = false) (hfirst : s.stoppedFirst t.die (s.prioOf t) (some t.stopAt) = false)
    (hu : s.placeAgain tid = some u) : exec .teamRestore s = .next (u.kickAll tid) := by
  simp only [exec, execTeamRestore, he, ht, hret, hfence, hfirst, hu, Bool.not_true, Bool.or_self, Bool.false_eq_true, if_false]

variable (hc : s.cohort? t.cohort = some c)
include hc

theorem exec_preemptForPriority {vs : List Nat} (he : s.curEv = some (.preemptForPriority tid)) (hneeds : s.needsRoom tid t c = true)
    (hdue : t.since + 10000 ≤ s.time)
    (hvs : let here := s.teamList.filter fun p => (roomDies t c).contains p.2.die
      let going := (here.filter fun p => p.2.state = .stopping).map (·.1)
      let low := (here.filter fun p => p.2.state = .resident && s.prioOf p.2 < c.lr.prio).foldr (insertVictim s) []
      s.victims t c going [] (low.map (·.1)) = some vs) :
    exec .preemptForPriority s = .next (vs.foldl (fun s v => s.stopTeam v) s) := by
  dsimp only at hvs
  simp only [exec, execPreemptForPriority, he, ht, hc, hneeds, Nat.not_lt.mpr hdue, hvs, Bool.not_true, decide_false, Bool.or_self,
    Bool.false_eq_true, if_false]

/-- A team whose tenant's slice is over is stopped for one of another tenant that waits for its room. -/
theorem exec_timeSliceExpiry {k : Nat} {u : Team} {d : Cohort} (he : s.curEv = some (.timeSliceExpiry tid)) (hst : t.state = .resident)
    (hslice : (s.tenant (tenantKey c.dev c.tenant)).sched.toNat % 2 ^ 16 ≠ 0)
    (hdue : t.since + 1000 * ((s.tenant (tenantKey c.dev c.tenant)).sched.toNat % 2 ^ 16) ≤ s.time) (hu : (k, u) ∈ s.teamList)
    (hd : s.cohort? u.cohort = some d) (hdie : (roomDies u d).contains t.die = true) (hten : d.tenant ≠ c.tenant)
    (hprio : c.lr.prio ≤ d.lr.prio) (hneeds : s.needsRoom k u d = true) :
    exec .timeSliceExpiry s = .next (s.stopTeam tid) := by
  have hrival : (s.teamList.any fun p => match s.cohort? p.2.cohort with
      | some d => (roomDies p.2 d).contains t.die && d.tenant ≠ c.tenant && c.lr.prio ≤ d.lr.prio && s.needsRoom p.1 p.2 d
      | none => false) = true := by
    refine List.any_eq_true.mpr ⟨(k, u), hu, ?_⟩
    simp only [hd, hdie, hten, hprio, hneeds, ne_eq, not_false_eq_true, decide_true, Bool.and_self]
  simp only [exec, execTimeSliceExpiry, he, ht, hc, hst, hslice, hdue, ne_eq, not_false_eq_true, decide_true, Bool.true_and]
  exact congrArg Host.Outcome.next (if_pos hrival)

theorem finishEnding_quiet {e : Nat × Nat × Nat × Nat} (hend : t.ending = some e) (hst : t.state = .stopping)
    (hquiet : s.quiet tid c.ngangs = true) : s.finishEnding tid = some (if (s.publishTeam t).1 = true then
      (((s.publishTeam t).2.takeLoop tid).closeTeam tid e.1 e.2.1 e.2.2.1 e.2.2.2).teamLeaves tid else (s.publishTeam t).2) := by
  simp only [State.finishEnding, ht, hc, hend, hst, hquiet, ne_eq, not_true_eq_false, decide_false, Bool.not_true, Bool.or_self,
    Bool.false_eq_true, if_false]

theorem exec_regionRestart_publishes (he : s.curEv = some (.regionRestart tid)) (hu : s.restartTeam tid = none)
    (hst : t.state = .stopping) (hrestarts : s.restarts tid t c = true) : exec .regionRestart s = .next (s.publishTeam t).2 := by
  simp only [exec, execRegionRestart, he, hu, ht, hc, Option.bind_some, hst, hrestarts, decide_true, Bool.and_self, if_true]

end

/-! ### The forced swap (R362) -/

/-- Of the gang in hand and another the one that has gone longer without a move, the one in hand of equals. -/
def longerUnmoved (b : Option (Nat × Gang)) (p : Nat × Gang) : Option (Nat × Gang) :=
  match b with
  | none => some p
  | some q => if p.2.movedAt < q.2.movedAt then some p else b

/-- One that every gang of the list has moved since stays in hand. -/
theorem foldl_longerUnmoved_stays {q : Nat × Gang} {gs : List (Nat × Gang)} (h : ∀ p ∈ gs, q.2.movedAt ≤ p.2.movedAt) :
    gs.foldl longerUnmoved (some q) = some q := by
  induction gs with
  | nil => rfl
  | cons p gs ih =>
    obtain ⟨hp, hgs⟩ := List.forall_mem_cons.mp h
    exact (congrArg (gs.foldl longerUnmoved) (if_neg (Nat.not_lt.mpr hp))).trans (ih hgs)

theorem longerUnmoved_or {b : Option (Nat × Gang)} {p x : Nat × Gang} (h : longerUnmoved b p = some x) : x = p ∨ b = some x := by
  cases b with
  | none => exact .inl (Option.some.inj h).symm
  | some q =>
    by_cases hlt : p.2.movedAt < q.2.movedAt
    · exact .inl (Option.some.inj (h.symm.trans (if_pos hlt)))
    · exact .inr ((if_neg hlt).symm.trans h)

/-- The one in hand after a fold is of the list, or was in hand before. -/
theorem foldl_longerUnmoved_or {gs : List (Nat × Gang)} {b : Option (Nat × Gang)} {x : Nat × Gang}
    (h : gs.foldl longerUnmoved b = some x) : x ∈ gs ∨ b = some x := by
  induction gs generalizing b with
  | nil => exact .inr h
  | cons p gs ih =>
    rcases ih h with hmem | hb
    · exact .inl (List.mem_cons_of_mem p hmem)
    · exact (longerUnmoved_or hb).imp_left fun hx => List.mem_cons.mpr (.inl hx)

/-- The first of those that have gone longest without a move is the one in hand at the end. -/
theorem foldl_longerUnmoved_eq {q : Nat × Gang} {pre rest : List (Nat × Gang)} (hpre : ∀ p ∈ pre, q.2.movedAt < p.2.movedAt)
    (hrest : ∀ p ∈ rest, q.2.movedAt ≤ p.2.movedAt) : (pre ++ q :: rest).foldl longerUnmoved none = some q := by
  have htakes : longerUnmoved (pre.foldl longerUnmoved none) q = some q := by
    cases hb : pre.foldl longerUnmoved none with
    | none => rfl
    | some p => exact if_pos (hpre p ((foldl_longerUnmoved_or hb).resolve_right (Option.some_ne_none p ·.symm)))
  rw [List.foldl_append, List.foldl_cons, htakes]
  exact foldl_longerUnmoved_stays hrest

/-- The least due time of a list that has one which has come has come. -/
theorem min?_map_le {α : Type} {f : α → Nat} {l : List α} {now : Nat} (h : ∃ x ∈ l, f x ≤ now) :
    ∃ d, (l.map f).min? = some d ∧ d ≤ now := by
  obtain ⟨x, hx, hle⟩ := h
  have hmem : f x ∈ l.map f := List.mem_map_of_mem hx
  cases hd : (l.map f).min? with
  | none => exact absurd (List.min?_eq_none_iff.mp hd) (List.ne_nil_of_mem hmem)
  | some d => exact ⟨d, rfl, Nat.le_trans ((List.min?_eq_some_iff.mp hd).2 _ hmem) hle⟩

theorem exec_pendingForcedSwap {s : State} {core part k v : Nat} {w : Gang} {pre rest : List (Nat × Gang)}
    (he : s.curEv = some (.pendingForcedSwap core part)) (hold : oldest (s.partGangs (core / 48) (core % 48) part) = some k)
    (hdue : ∃ p ∈ s.partGangs (core / 48) (core % 48) part, p.2.eligible = true ∧ max p.2.movedAt p.2.eligAt + 20000 ≤ s.time)
    (hfull : 8 ≤ ((s.partGangs (core / 48) (core % 48) part).filter fun p => p.2.active).length)
    (hacts : ((s.partGangs (core / 48) (core % 48) part).filter fun p => p.2.active) = pre ++ (v, w) :: rest)
    (hpre : ∀ p ∈ pre, w.movedAt < p.2.movedAt) (hrest : ∀ p ∈ rest, w.movedAt ≤ p.2.movedAt) :
    exec .pendingForcedSwap s = .next ((s.modGang v fun g => { g with active := false, movedAt := s.time }).modGang k
      fun g => { g with active := true, movedAt := s.time }) := by
  obtain ⟨p, hp, helig, hle⟩ := hdue
  have hmem : p ∈ (s.partGangs (core / 48) (core % 48) part).filter fun p => p.2.eligible := List.mem_filter.mpr ⟨hp, helig⟩
  obtain ⟨d, hmin, hd⟩ := min?_map_le (f := fun p : Nat × Gang => max p.2.movedAt p.2.eligAt + 20000) ⟨p, hmem, hle⟩
  have hlongest := foldl_longerUnmoved_eq (q := (v, w)) hpre hrest
  rw [← hacts] at hlongest
  have hswap : s.forcedSwap core part = some (d, k, v) := by
    unfold State.forcedSwap
    dsimp only
    split
    next k' d' v' w' hk' hd' hv' =>
      cases hk'.symm.trans hold
      cases hd'.symm.trans hmin
      cases hv'.symm.trans hlongest
      exact if_neg (Nat.not_lt.mpr hfull)
    next hnone => exact (hnone k d v w hold hmin hlongest).elim
  simp only [exec, execPendingForcedSwap, he, hswap, hd, if_true]

/-- Settles O47: each event acts on the cohort, team or core that it names, by its state. -/
theorem schedulingEvents : Obligations.SchedulingEvents := by
  intro s s1
  refine ⟨fun ck c hc => ⟨fun he hst => ⟨exec_cohortDependenceMet_fails hc he hst, exec_cohortDependenceMet_dispatches hc he hst⟩,
    fun di he hst hplaced hfirst hboot hdie => exec_teamDispatch hc he hst hplaced hfirst hboot hdie⟩,
    fun thief victim he hdie hne hidle hempty hfence hq hlong => exec_stealRequest he hdie hne hidle hempty hfence hq hlong,
    fun thief ts ha hnodup hwait => ⟨_, exec_stealReply ha hwait, stealInto_queue .., fun k t ht =>
      stealInto_team (hnodup.sublist (List.take_sublist ..)) ht⟩,
    fun core part k v w pre rest he hold hdue hfull hacts hpre hrest => exec_pendingForcedSwap he hold hdue hfull hacts hpre hrest, ?_⟩
  intro ck tid t c hc ht hck
  subst hck
  refine ⟨fun he hqueue hfirst => ⟨exec_teamStart_alone ht hc he hqueue hfirst, fun x => exec_teamStart_all ht hc he hqueue hfirst,
    exec_teamStart_none ht hc he hqueue hfirst⟩, fun di => exec_overloadMigration ht hc, fun di ha hst => ?_,
    fun m he hm hst htill htarget => ⟨exec_tmigFallback_home ht hm hst htill htarget he,
      exec_tmigFallback_away ht hm hst htill htarget he⟩,
    fun vs he hneeds hdue hvs => exec_preemptForPriority ht hc he hneeds hdue hvs,
    fun k u d he hst hslice hdue hu hd hdie hten hprio hneeds =>
      exec_timeSliceExpiry ht hc he hst hslice hdue hu hd hdie hten hprio hneeds,
    fun he => ⟨fun u => exec_fullSave_saves ht he, exec_fullSave_publishes ht he, fun e hend hst hquiet =>
      exec_fullSave_ends he (finishEnding_quiet ht hc hend hst hquiet)⟩,
    fun he => ⟨fun u => exec_regionRestart_done he, exec_regionRestart_publishes ht hc he⟩, fun u => exec_teamRestore ht⟩
  have hinstall := exec_teamInstall ha ht hst
  exact ⟨fun hhall => hinstall.trans (congrArg Host.Outcome.next (installTeam_new hhall)),
    fun hhall => hinstall.trans (congrArg Host.Outcome.next (installTeam_saved hhall))⟩

end Sys2Proof.Machine
end

section
/-!
SUPPORT. The events of the fabric: O48.
-/
namespace Sys2Proof.Machine

/-- A change of a device that comes to the same for it as it is. -/
theorem modDev_congr {s : State} {k : Nat} {f g : Dev → Dev} (h : f (s.dev k) = g (s.dev k)) : s.modDev k f = s.modDev k g :=
  congrArg (fun x => ({ s with devs := Store.set {} s.devs k x } : State)) h

/-! ### Lost flits (R414) -/

/-- The state in which the token-carrying messages of a flit are gone, and their losses reported. -/
def State.flitDropped (s : State) (msgs : List Nat) : State :=
  { s with net := keepMsgs msgs 0 s.net ++ (msgs.eraseDups.filterMap fun i => s.net[i]?).filterMap tokenLoss }

/-- A flit that is given up is one more in a row, or the first where the link has delivered one since (log 85). -/
theorem flitLost_eq (s : State) (dev link : Nat) : s.flitLost dev link = s.draw.2.modLink dev link fun l =>
    { l with lost := if Config.freeBool s.fresh = true ∧ l.lost < 8 then 1 else l.lost + 1 } := by
  simp only [State.flitLost, Bool.and_eq_true, decide_eq_true_eq]
  rfl

theorem exec_flitRetryExhausted {s : State} {dev link : Nat} {msgs : List Nat}
    (he : s.curEv = some (.flitRetryExhausted dev link msgs)) :
    exec .flitRetryExhausted s = .next ((s.flitDropped msgs).flitLost dev link) := by
  simp only [exec, execFlitRetryExhausted]
  split
  next h =>
    cases h.symm.trans he
    rfl
  next hne => exact absurd he (hne dev link msgs)

/-! ### Links and wavelengths (R414, R421) -/

/-- A change of one link of a device, as it reads on that device: the other end of a local link lies on another device. -/
theorem link_modLink {dev n : Nat} (hn : n < 96) (hself : n ≠ dev % 32) (s : State) (f : Link → Link) :
    ((s.modLink dev n f).dev dev).link n = f ((s.dev dev).link n) := by
  unfold State.modLink Dev.link
  by_cases hlocal : n < 32
  · have hother : dev ≠ dev / 32 * 32 + n := by omega
    rw [if_pos hlocal, if_neg hself, State.dev_modDev_other _ _ hother, State.dev_modDev, Store.get_upd_same]
  · rw [if_neg hlocal, if_pos hn, State.dev_modDev, Store.get_upd_same]

/-- A fibre pair's link is none of the local ones. -/
theorem fibre_link {pair : Nat} (h : pair < 64) (dev : Nat) : 32 + pair < 96 ∧ 32 + pair ≠ dev % 32 := by omega

/-- A link that has lost 8 flits in a row goes down to retrain. -/
def Link.afterRetrain (l : Link) : Link := if l.up && 8 ≤ l.lost then { l with up := false, train := true, lost := 0 } else l
/-- A link that has retrained comes up. -/
def Link.afterUp (l : Link) : Link :=
  if l.train then { l with up := true, train := false, lost := 0, retrains := min (l.retrains + 1) 0xFFFF } else l
/-- A wavelength is withdrawn from a link, since `now` where it was not before. -/
def Link.without (l : Link) (wl now : Nat) : Link :=
  { l with
    down := l.down ||| (1#8 <<< wl)
    downAt := if l.down.getLsbD wl then l.downAt else Store.set 0 l.downAt wl now }
/-- A wavelength that was withdrawn comes back. -/
def Link.regains (l : Link) (wl : Nat) : Link :=
  if l.down.getLsbD wl then
    { l with
      down := l.down &&& ~~~(1#8 <<< wl)
      downAt := Store.erase l.downAt wl
      retrains := min (l.retrains + 1) 0xFFFF }
  else l

section
variable {s : State} {dev link pair wl : Nat}

theorem exec_linkRetrain (he : s.curEv = some (.linkRetrain dev link)) :
    exec .linkRetrain s = .next (s.modLink dev link Link.afterRetrain) := by
  simp only [exec, execLinkRetrain, he]
  rfl
theorem exec_fabricLinkUp (he : s.curEv = some (.fabricLinkUp dev link)) :
    exec .fabricLinkUp s = .next (s.modLink dev link Link.afterUp) := by
  simp only [exec, execFabricLinkUp, he]
  rfl

theorem afterRetrain_eq {l : Link} (hup : l.up = true) (hlost : 8 ≤ l.lost) :
    l.afterRetrain = { l with up := false, train := true, lost := 0 } := by
  simp only [Link.afterRetrain, hup, hlost, decide_true, Bool.and_self, if_true]

section
variable (hpair : pair < 64) (hwl : wl < 8)
include hpair hwl

theorem exec_wavelengthWindowEnd_withdraws {errors : Nat} (he : s.curEv = some (.wavelengthWindowEnd dev pair wl errors))
    (herr : 1024 < errors) :
    exec .wavelengthWindowEnd s = .next (s.modLink dev (32 + pair) fun l => l.without wl s.time) := by
  simp only [exec, execWavelengthWindowEnd, he, hpair, hwl, herr, decide_true, Bool.and_self, if_true]
  rfl
theorem exec_wavelengthRetrained (he : s.curEv = some (.wavelengthRetrained dev pair wl)) :
    exec .wavelengthRetrained s = .next (s.modLink dev (32 + pair) fun l => l.regains wl) := by
  simp only [exec, execWavelengthRetrained, he, hpair, hwl, decide_true, Bool.and_self, if_true]
  rfl

end

theorem exec_wavelengthWindowEnd_keeps {errors : Nat} (he : s.curEv = some (.wavelengthWindowEnd dev pair wl errors))
    (herr : errors ≤ 1024) : exec .wavelengthWindowEnd s = .next s := by
  simp only [exec, execWavelengthWindowEnd, he, Nat.not_lt.mpr herr, decide_false, Bool.and_false, Bool.false_eq_true, if_false]

end

/-! ### Rates (R417) -/

theorem exec_congestionNotice {s : State} {die dest : Nat} (he : s.curEv = some (.congestionNotice die dest)) (hdie : die < 16384)
    (hdest : dest < 2048) :
    exec .congestionNotice s = .next (s.modDie die fun d => (d.recovered s.time).notice dest s.time) := by
  simp only [exec, execCongestionNotice, he, hdie, hdest, decide_true, Bool.and_self, if_true]

/-- A notice for a destination without an entry makes one, at half the full rate. -/
theorem notice_new {d : Die} {dest now : Nat} (h : d.rateOf dest = none) :
    Store.get none (d.notice dest now).rates d.rateSlot = some ⟨dest, 128, now, now⟩ := by
  simp only [Die.notice, h, Store.get_set_same]
/-- A notice halves the entry of its destination, unless one did within the last 1 µs. -/
theorem notice_known {d : Die} {dest now i : Nat} {r : Rate} (h : d.rateOf dest = some i) (hr : Store.get none d.rates i = some r) :
    Store.get none (d.notice dest now).rates i = if now < r.lastAt + 1000 then some r
      else some { r with rate := max (r.rate / 2) 4, lastAt := now, recAt := now } := by
  simp only [Die.notice, h, Store.get_upd_same, hr, Option.map_some]
  split <;> rfl

/-- One entry of a rate table recovers. -/
def Die.recoverEntry (d : Die) (entry now : Nat) : Die :=
  { d with rates := Store.upd none d.rates entry fun r => r.bind fun r => r.recover now }

theorem exec_rateRecovery {s : State} {die entry : Nat} (he : s.curEv = some (.rateRecovery die entry)) (hentry : entry < 64) :
    exec .rateRecovery s = .next (s.modDie die fun d => d.recoverEntry entry s.time) := by
  simp only [exec, execRateRecovery, he, hentry, if_true]
  rfl
theorem recoverEntry_rate {d : Die} {entry now : Nat} {r : Rate} (hr : Store.get none d.rates entry = some r) :
    Store.get none (d.recoverEntry entry now).rates entry = r.recover now := by
  rw [Die.recoverEntry, Store.get_upd_same, hr]
  rfl

/-! ### Clocks and power (R419, R420, R440) -/

theorem exec_clockStep {s : State} {die ts mhz : Nat} (he : s.curEv = some (.clockStep die)) (hpend : (s.die die).pendClk = some (ts, mhz))
    (hdue : ts ≤ s.time) : exec .clockStep s = .next (s.modDie die fun d => d.stepClock ts mhz) := by
  simp only [exec, execClockStep, he, hpend, hdue, if_true]

theorem exec_relockEnd {s : State} {die : Nat} (he : s.curEv = some (.relockEnd die)) :
    exec .relockEnd s = .next (s.modDie die fun d => { d with relock := none }) := by
  simp only [exec, execRelockEnd, he]

/-- A device over its limit asks its fastest die for a step down, at most once in 1 ms. -/
theorem exec_powerThrottleStep {s : State} {dev pnow k : Nat} (he : s.curEv = some (.powerThrottleStep dev pnow))
    (hover : (s.dev dev).plimit < pnow) (hlast : (s.dev dev).thrAt = 0 ∨ (s.dev dev).thrAt - 1 + 1000000 ≤ s.time)
    (hk : s.fastest dev = some k) (htarget : 650 ≤ (s.die k).target) :
    exec .powerThrottleStep s =
      .next (((s.modDev dev fun d => { d with pnow := pnow }).modDev dev fun d => { d with thrAt := s.time + 1 }).modDie k
        fun x => x.askClock (x.target - 50) s.time) := by
  have hfast : (s.modDev dev fun d => { d with pnow := pnow }).fastest dev = some k := hk
  have htest : (pnow ≤ (s.dev dev).plimit || ((s.dev dev).thrAt ≠ 0 && s.time < (s.dev dev).thrAt - 1 + 1000000)) = false := by
    rw [decide_eq_false (Nat.not_le.mpr hover), Bool.false_or, Bool.and_eq_false_imp]
    exact fun hthr => decide_eq_false (Nat.not_lt.mpr (hlast.resolve_left (of_decide_eq_true hthr)))
  simp only [exec, execPowerThrottleStep, he, State.modDev_time, hfast, State.modDev_read_die, Nat.not_lt.mpr htarget, if_false]
  exact if_neg (Bool.eq_false_iff.mp htest)

/-! ### Circuit mode (R422–R424, R428) -/

section
variable {s : State} {dev : Nat}

theorem exec_slotTableWrite {s1 : State} {slot gang : Nat} {desc : BitVec 128}
    (ha : Arrives (.slotTableWrite dev slot desc gang) s s1) : exec .slotTableWrite s =
      .next ((s1.modDev dev fun d => { d with slots := Store.set 0 d.slots slot desc }).acknowledge gang) := by
  simp only [exec, execSlotTableWrite, curEv_of_arrives ha, receive_of_arrives ha]

/-- An answer that is not the last is counted, and the last lets the gang go on. -/
theorem acknowledge_more {gid : Nat} {g : Gang} (hg : s.gang? gid = some g) (hmore : 1 < g.acks) :
    s.acknowledge gid = s.setGang gid { g with acks := g.acks - 1 } := by
  rw [State.acknowledge, State.modGang_some hg, if_neg (Nat.not_le.mpr hmore)]
theorem acknowledge_last {gid : Nat} {g : Gang} (hg : s.gang? gid = some g) (hlast : g.acks ≤ 1) :
    s.acknowledge gid = s.setGang gid { g.wake .acks with eligAt := s.time, acks := 0 } := by
  rw [State.acknowledge, State.modGang_some hg, if_pos hlast]

theorem exec_circuitRotationStart (he : s.curEv = some (.circuitRotationStart dev)) (hrun : (s.dev dev).run = false)
    (hset : (s.dev dev).startAt ≠ 0) (hdue : (s.dev dev).startAt ≤ s.time) :
    exec .circuitRotationStart s = .next (s.modDev dev fun d => { d with run := true }) := by
  simp only [exec, execCircuitRotationStart, he]
  refine congrArg Host.Outcome.next (modDev_congr (if_pos ?_))
  simp only [hrun, hset, hdue, ne_eq, not_false_eq_true, decide_true, Bool.not_false, Bool.and_self]

theorem exec_circuitSlotBoundary (he : s.curEv = some (.circuitSlotBoundary dev)) (hrun : (s.dev dev).run = true)
    (hbegun : (s.dev dev).startAt ≤ s.time) :
    let e := (s.dev dev).sendSlot s.time
    let sent := ((s.dev dev).circQ.map (·.id)).filter fun id => !e.circQ.any (·.id = id)
    exec .circuitSlotBoundary s = .next ((s.xfers.filter fun q => sent.contains q.id).foldl (fun s q => s.startXfer q)
      (s.modDev dev fun _ => e)) := by
  simp only [exec, execCircuitSlotBoundary, he, hrun, Nat.not_lt.mpr hbegun, decide_false, Bool.not_true, Bool.or_self, Bool.false_eq_true,
    if_false]

/-- Nothing is sent within a slot's guard. -/
theorem sendSlot_guard {d : Dev} {now n : Nat} {x : BitVec 128} (hslot : d.slotNow now = some (x, n)) (hguard : n < slotGuard x) :
    d.sendSlot now = d := by
  simp only [Dev.sendSlot, hslot, hguard, if_true]

section
variable (he : s.curEv = some (.circuitStop dev)) (hrun : (s.dev dev).run = true)
include he hrun

theorem exec_circuitStop_due {n : Nat} {forced : Bool} (hstop : (s.dev dev).stopAt = some (n, forced)) (hdue : n ≤ s.time) :
    exec .circuitStop s = .next (s.modDev dev fun d => { d with
      run := false
      startAt := 0
      stopAt := none
      circQ := []
      circTill := []
      spstop := forced }) := by
  simp only [exec, execCircuitStop, he, hrun, hstop, hdue, Option.any_some, decide_true, Bool.not_true, Bool.false_eq_true, if_false, if_true]
  refine congrArg Host.Outcome.next (modDev_congr ?_)
  rw [hstop]
  rfl

/-- Before its stop a device measures the spread, and one above its smallest guard sets the stop of the pod. -/
theorem exec_circuitStop_measures (hstop : ∀ p, (s.dev dev).stopAt = some p → s.time < p.1) :
    exec .circuitStop s = .next (if (s.dev dev).minGuard < s.spreadNow.1 then s.spreadNow.2.modPod (dev / 32) fun x =>
      if x.run then { x with stopAt := some ((x.stopAt.map (·.1)).getD (x.rotEnd s.time), true) } else x
      else s.spreadNow.2) := by
  have hnone : ((s.dev dev).stopAt.any fun x => x.1 ≤ s.time) = false := by
    cases h : (s.dev dev).stopAt with
    | none => rfl
    | some p => exact decide_eq_false (Nat.not_le.mpr (hstop p h))
  simp only [exec, execCircuitStop, he, hrun, hnone, Bool.not_true, Bool.false_eq_true, if_false]

end

end

/-- Settles O48: each event acts on the link, die or device that it names, by the state of that part. -/
theorem fabricEvents : Obligations.FabricEvents := by
  intro s s1 dev d
  refine ⟨fun link msgs he => ⟨_, (exec_flitRetryExhausted he).trans (congrArg Host.Outcome.next (flitLost_eq ..))⟩,
    fun link hlink hself => ?_, fun pair wl errors hpair hwl => ?_,
    fun die dest he hdie hdest => ⟨_, exec_congestionNotice he hdie hdest, ?_⟩,
    fun die entry r he hentry hr hn => ⟨_, exec_rateRecovery he hentry, ?_⟩,
    fun die ts mhz he hpend hdue => ⟨_, exec_clockStep he hpend hdue, State.die_modDie ..⟩, fun die => exec_relockEnd,
    fun pnow k => exec_powerThrottleStep, fun slot desc gang ha => ?_, exec_circuitRotationStart, exec_circuitSlotBoundary,
    fun x n => sendSlot_guard, fun he hrun => ⟨fun n forced => exec_circuitStop_due he hrun, fun hstop =>
      ⟨_, spreadNow_le s, exec_circuitStop_measures he hrun hstop⟩⟩⟩
  · have hread := fun f => link_modLink hlink hself s f
    exact ⟨fun he hup hlost => ⟨_, exec_linkRetrain he, (hread _).trans (afterRetrain_eq hup hlost)⟩,
      fun he htrain => ⟨_, exec_fabricLinkUp he, (hread _).trans (if_pos htrain)⟩⟩
  · obtain ⟨hlink, hself⟩ := fibre_link hpair dev
    have hread := fun f => link_modLink hlink hself s f
    exact ⟨fun he => ⟨fun herr => ⟨_, exec_wavelengthWindowEnd_withdraws hpair hwl he herr, hread _⟩,
      exec_wavelengthWindowEnd_keeps he⟩, fun he hdown => ⟨_, exec_wavelengthRetrained hpair hwl he, (hread _).trans (if_pos hdown)⟩⟩
  · rw [State.die_modDie]
    exact ⟨notice_new, fun i r => notice_known⟩
  · rw [State.die_modDie, recoverEntry_rate hr]
    rfl
  · rw [exec_slotTableWrite ha]
    intro t g hg
    have hg' : t.gang? gang = some g := hg
    exact ⟨fun hmore => by rw [acknowledge_more hg' hmore], fun hlast => by rw [acknowledge_last hg' hlast]; rfl⟩

end Sys2Proof.Machine
end
